-- ==== Sys2Proof/Word.lean ====
section
/-! DEFINITION. The word types of the ND-4150: bytes of a frame or of the exchange area, 32-bit registers and
words, 64-bit addresses, tags and counts (ch. 11). -/

namespace Sys2Proof

/-- One byte of the exchange area, of a link frame or of a record page. -/
abbrev Byte := BitVec 8

/-- A 32-bit register, counter, parameter or factory-store word. -/
abbrev Word32 := BitVec 32

/-- A 64-bit bus address, host tag, result value, count or sequence number. -/
abbrev Word64 := BitVec 64

end Sys2Proof
end

