-- ==== Sys2Proof/Syntax.lean ====
section
/-! DEFINITION. The commands of the ND-4150: one constructor for each row of spec/opcode_table.json, in the table's
order. `dt` is the number of reference ticks (100 ns) that pass between the command before it and this one; a command
without `dt` is one whose instant the engine's own timers give (log 1). -/

namespace Sys2Proof

/-- The seven bus operations of R202, as the fault record names them. -/
inductive BusOp where
  | scan | completion | header | ownerRead | pageWrite | configRead | snapshot
  deriving DecidableEq, Repr

/-- The direction of a bus access (R202). -/
inductive BusDir where
  | read | write
  deriving DecidableEq, Repr

/-- A write of ENGCTL whose command gives its RUN field (R197): the ticks before it, and its RESUME field. -/
structure RunWrite where
  dt : Nat
  resume : Bool
  deriving DecidableEq, Repr

/-- A write of ENGCTL whose command gives its RESUME field (R197): the ticks before it, and its RUN field. -/
structure ResumeWrite where
  dt : Nat
  run : Bool
  deriving DecidableEq, Repr

/-- A write of ENGCTL whose command gives its SRST field (R197): the ticks before it, and its other two fields. -/
structure ResetWrite where
  dt : Nat
  run : Bool
  resume : Bool
  deriving DecidableEq, Repr

/-- One command. A link, channel, monitor or order entry is named by its number (R1, R13, R121, R156). -/
inductive Instr where
  /-- POWER_ON (R208). `nomf60`: the NOMF strap reads 60 Hz. -/
  | powerOn (nomf60 : Bool)
  /-- PIN_RESET_ASSERT (R208). -/
  | pinResetAssert (dt : Nat)
  /-- PIN_RESET_RELEASE (R208). `nomf60`: the NOMF strap reads 60 Hz. -/
  | pinResetRelease (dt : Nat) (nomf60 : Bool)
  /-- FACTORY_TRANSFER_ANSWERED (R191). `words`: the 32-bit words a read returns; not looked at for a write. -/
  | factoryTransferAnswered (dt : Nat) (words : List Word32)
  /-- FACTORY_TRANSFER_TIMEOUT (R191). -/
  | factoryTransferTimeout
  /-- EXBASE_WRITE (R196). `hi`: the write goes to EXBASE_HI, else to EXBASE_LO. -/
  | exbaseWrite (dt : Nat) (hi : Bool) (value : Word32)
  /-- RUN_SET (R197, R198): a write of ENGCTL with RUN 1 and SRST 0. -/
  | runSet (w : RunWrite)
  /-- RUN_CLEAR (R197, R200): a write of ENGCTL with RUN 0 and SRST 0. -/
  | runClear (w : RunWrite)
  /-- RESUME (R197, R203): a write of ENGCTL with RESUME 1 and SRST 0. -/
  | resume (w : ResumeWrite)
  /-- SOFT_RESET (R197, R208): a write of ENGCTL with SRST 1. -/
  | softReset (w : ResetWrite)
  /-- INTCAUSE_CLEAR (R204). -/
  | intcauseClear (dt : Nat) (value : Word32)
  /-- INTMASK_WRITE (R205). -/
  | intmaskWrite (dt : Nat) (value : Word32)
  /-- REGISTER_WRITE_IGNORED (R195). `offset`: the register offset written. -/
  | registerWriteIgnored (dt : Nat) (offset : Nat) (value : Word32)
  /-- FREE_TICK (R33). -/
  | freeTick
  /-- SAMPLE_STROBE (R30). -/
  | sampleStrobe
  /-- WINDOW_BOUNDARY (R32). -/
  | windowBoundary
  /-- LOCK_ACQUIRED (R40). -/
  | lockAcquired
  /-- HOLDOVER_EXPIRY (R42). -/
  | holdoverExpiry
  /-- CHANNEL_STUCK (R18). -/
  | channelStuck (ch : Fin 28)
  /-- CHANNEL_NORMAL (R19). -/
  | channelNormal (ch : Fin 28)
  /-- OFFSET_CHANGE_EFFECT (R17). -/
  | offsetChangeEffect (ch : Fin 28)
  /-- CLOCK_CLOSE (R92). -/
  | clockClose
  /-- SYNC_TIMEOUT (R95). -/
  | syncTimeout
  /-- INTERVAL_END_TAKEN (R94). -/
  | intervalEndTaken
  /-- TARIFF_STEP_TAKEN (R102). -/
  | tariffStepTaken
  /-- CONFIG_ACTIVATION (R184). -/
  | configActivation
  /-- DEMAND_RESET_APPLY (R108). -/
  | demandResetApply
  /-- MONITOR_SETTINGS_EFFECT (R121). -/
  | monitorSettingsEffect
  /-- HEADER_FIELDS_ANSWERED (R206). -/
  | headerFieldsAnswered (dt : Nat)
  /-- FRAME_ARRIVAL (R3). `bytes`: the data bytes received before the END symbol (R214). -/
  | frameArrival (dt : Nat) (link : Fin 4) (bytes : List Byte)
  /-- LINK_DROP (R12). -/
  | linkDrop (link : Fin 4)
  /-- LINK_ENTER_RUNNING (R11). -/
  | linkEnterRunning (link : Fin 4)
  /-- DECOMPOSITION_COMPLETE (R47). -/
  | decompositionComplete (dt : Nat)
  /-- IDLE_OFFSET_UPDATE (R21). -/
  | idleOffsetUpdate (ch : Fin 28)
  /-- MONITOR_ON (R123). -/
  | monitorOn (m : Fin 4)
  /-- MONITOR_RESTART (R125). -/
  | monitorRestart (m : Fin 4)
  /-- ACCOUNTING_CLOSE_FINISH (R78). -/
  | accountingCloseFinish
  /-- STATISTICS_CLOSE_FINISH (R117). -/
  | statisticsCloseFinish
  /-- FILE_COMPLETE (R133). -/
  | fileComplete
  /-- HELD_FILE_RETRY (R142). -/
  | heldFileRetry
  /-- OWNER_WORD_ANSWER (R138). `word`: the owner word read. -/
  | ownerWordAnswer (dt : Nat) (word : Word32)
  /-- PAGE_BODY_ANSWERED (R139). -/
  | pageBodyAnswered (dt : Nat)
  /-- PAGE_WRITE_COMPLETE (R140). -/
  | pageWriteComplete (dt : Nat)
  /-- BUS_ACCESS_ERROR (R202). `op`, `dir`: the access answered with an error; `off`: its place, in bytes from the
  start of what the operation reads or writes (a confirming read has its own place, R201, and `off` plays no part);
  `entry`: for a SNAPSHOT access, the order whose image it writes. -/
  | busAccessError (dt : Nat) (op : BusOp) (dir : BusDir) (off : Nat) (entry : Fin 16)
  /-- BUS_ACCESS_TIMEOUT (R201): as BUS_ACCESS_ERROR, for an access not answered in 2 ms. -/
  | busAccessTimeout (op : BusOp) (dir : BusDir) (off : Nat) (entry : Fin 16)
  /-- SCAN_READS_ANSWERED (R159). `table`: the 1,024 bytes of the order table as read. -/
  | scanReadsAnswered (dt : Nat) (table : List Byte)
  /-- LOAD_CONFIG (R166), for the captured order of one entry. -/
  | loadConfig (entry : Fin 16)
  /-- CONFIG_BLOCK_READ_DONE (R180). `block`: the 544 bytes of the configuration block as read. -/
  | configBlockReadDone (dt : Nat) (block : List Byte)
  /-- CLOSE_INTERVAL (R110). -/
  | closeInterval (entry : Fin 16)
  /-- SET_TIME (R28). -/
  | setTime (entry : Fin 16)
  /-- DEMAND_RESET (R109). -/
  | demandReset (entry : Fin 16)
  /-- SNAPSHOT (R84). -/
  | snapshot (entry : Fin 16)
  /-- SNAPSHOT_CAPTURE (R84). -/
  | snapshotCapture (entry : Fin 16)
  /-- SNAPSHOT_WRITTEN (R86). -/
  | snapshotWritten (dt : Nat) (entry : Fin 16)
  /-- PARAM_READ (R172). -/
  | paramRead (entry : Fin 16)
  /-- PARAM_WRITE (R173). -/
  | paramWrite (entry : Fin 16)
  /-- TARIFF_SET (R103). -/
  | tariffSet (entry : Fin 16)
  /-- CALIBRATE (R22). -/
  | calibrate (entry : Fin 16)
  /-- LINK_RESTART (R13). -/
  | linkRestart (entry : Fin 16)
  /-- LINK_RESTART_TIMEOUT (R14). -/
  | linkRestartTimeout (link : Fin 4)
  /-- TAKEN_WRITE_ANSWERED (R164). -/
  | takenWriteAnswered (dt : Nat)
  /-- COMPLETION_RESULT_WRITTEN (R164). -/
  | completionResultWritten (dt : Nat)
  /-- COMPLETION_DELIVERED (R164). -/
  | completionDelivered (dt : Nat)
  /-- SYNC_LINE_FALL (R105). -/
  | syncLineFall (dt : Nat)
  /-- SYNC_LINE_RISE (R105). -/
  | syncLineRise (dt : Nat)
  /-- STUCK_LOW_FAULT (R105). -/
  | stuckLowFault
  /-- STUCK_LOW_RECOVERY (R105). -/
  | stuckLowRecovery
  /-- SYNC_BURST_END (R106). -/
  | syncBurstEnd
  /-- UPDATE_COUNT_WRITE_ANSWERED (R206). -/
  | updateCountWriteAnswered (dt : Nat)
  deriving DecidableEq, Repr

end Sys2Proof
end

