-- ==== Sys2Proof/Config.lean ====
section
/-! DEFINITION. What an implementation fixes. The manual leaves two things of the ND-4150 open that the model needs:
which tariff source judges a TARIFF_STEP or evaluates the slot while no configuration is active (log 16), and how many
bytes a confirming read takes (log 38). Each is a free value: a constant without a body. -/

namespace Sys2Proof

/-- FREE VALUE (log 16): whether the tariff source counts as SYNC while no configuration is active. R100 to R102 name
the two sources as settings of the active configuration, and say nothing of a free tick that has none. -/
opaque Config.unconfiguredTariffIsSync : Bool

/-- FREE VALUE (log 38): how many bytes a confirming read takes after a group of writes whose last field run is so many
bytes long. R201 has it go to "the last bytes the group wrote", and does not say how many. -/
opaque Config.confirmingReadBytes : Nat → Nat

end Sys2Proof
end

