-- ==== Sys2Proof/Machine/State.lean ====
section
/-! DEFINITION. The state of the ND-4150: one structure for each block of the manual (00_scope), the events still to
come inside the step in hand, and the queue of waiting commands. Every default value is the value after power-on
(R25, R45, R67, R88, R111, R132, R155, R178, R194, R209). Everything is plain data. -/

namespace Sys2Proof.Machine

/-! ## Outcomes -/

/-- No command stops the engine: the manual gives every event an effect or says that it is ignored. The type is
closed and empty, so no meaning can answer a fault (safe). -/
inductive Fault
  deriving DecidableEq, Repr

/-- Why a command has no meaning. -/
inductive Refusal where
  /-- Raised by an arm of `exec` that has no meaning yet; no arm does. Safe: nothing is claimed of such a command. -/
  | notModelled (mnemonic : String)
  deriving DecidableEq, Repr

/-! ## Link receivers (ch. 1) -/

/-- R10: the three states of a link. -/
inductive LinkState where
  | down | seeking | running
  deriving DecidableEq, Repr

/-- R7, R9: why a link last dropped. -/
inductive DropReason where
  | none | silence | framingRun | parityRun | moduleFault | indexGap
  deriving DecidableEq, Repr

/-- One sample of one channel at one index of a window: whether it is good (R4), its raw code where it is, its
corrected or substituted value (R15), and whether it counts as clipped (R16). -/
structure ChanSample where
  good : Bool := false
  raw : Int := 0
  val : Int := 0
  clipped : Bool := false
  deriving DecidableEq, Repr

/-- One placed index of a window: whether the index is substituted (R4), and the samples of the seven channels. -/
structure Slot where
  subst : Bool
  ch : List ChanSample
  deriving DecidableEq, Repr

/-- A frame as the receiver reads it (R214, 11.8). -/
structure Frame where
  index : Nat
  clips : List Bool
  fault : Bool
  words : List Int
  parityOk : List Bool
  deriving DecidableEq, Repr

/-- A LINK_RESTART in flight on a link: its order entry and the boundaries passed since it was taken (R14). -/
structure Restart where
  entry : Fin 16
  boundaries : Nat
  deriving DecidableEq, Repr

/-- The sample of a point's V1 at the last index of the previous window, with the instant of that index (R35). -/
structure EdgeSample where
  good : Bool
  val : Int
  instant : Nat
  deriving DecidableEq, Repr

/-- One link receiver. The record of the current window (R2) is `slots`, newest index first: the last placed index i
is `slots.length - 1` (none placed: the list is empty), and the substituted count is the number of its substituted
indices. The strobe index c, the same on all four links, is `Timebase.strobe`. -/
structure Link where
  state : LinkState := .down
  dropReason : DropReason := .none
  goodFrames : Word32 := 0
  parityErrors : Word32 := 0
  framingErrors : Word32 := 0
  staleFrames : Word32 := 0
  substituted : Word32 := 0
  drops : Word32 := 0
  slots : List Slot := []
  failRun : Nat := 0
  syncRun : Nat := 0
  /-- The index of the previous frame of the sync run (R11). -/
  syncLast : Option Nat := none
  /-- The last good corrected sample of each of the seven channels (R4). -/
  lastGood : List (Option Int) := List.replicate 7 none
  /-- The link was RUNNING at the start of the window in progress (R35). -/
  runningAtStart : Bool := false
  /-- The index at which the link last entered RUNNING in the window in progress (R35). -/
  enteredAt : Option Nat := none
  restart : Option Restart := none
  prevV1 : Option EdgeSample := none
  deriving DecidableEq, Repr

/-! ## Channel conditioner (ch. 1) -/

/-- A change of an active offset that has arrived and is not yet in effect (R17). `idle`: idle tracking asked for it.
`late`: a PARAM_WRITE of the event in hand asked for it, so an activation of the same boundary does not replace it. -/
structure OffsetRequest where
  value : Int
  idle : Bool
  late : Bool
  deriving DecidableEq, Repr

/-- A CALIBRATE in flight on a channel (R22, R23): its order entry, the number of its first measured window, and the
sum of raw codes so far. -/
structure Calibration where
  entry : Fin 16
  firstWindow : Nat
  sum : Int
  deriving DecidableEq, Repr

/-- One sample channel. The active gain is the configured gain at all times (R17), so it has no place of its own. -/
structure Channel where
  stuck : Bool := false
  /-- STUCK at the start of the window in progress (R20). -/
  stuckAtStart : Bool := false
  clipRun : Nat := 0
  clearRun : Nat := 0
  idleCount : Nat := 0
  offset : Int := 0
  request : Option OffsetRequest := none
  /-- The window in progress is the first to use an offset set by idle tracking (R21). -/
  mark : Bool := false
  lastRms : Nat := 0
  calibration : Option Calibration := none
  deriving DecidableEq, Repr

/-! ## Configuration store (ch. 9) -/

/-- Per-channel configuration (R182). `useFactory` holds the code read: 0 clear, 1 set. -/
structure ChanCfg where
  gain : Nat := 32768
  offset : Int := 0
  useFactory : Nat := 1
  deriving DecidableEq, Repr

/-- Per-point configuration (R182). -/
structure PointCfg where
  weight : Nat := 1
  contracted : Nat := 16
  chans : List ChanCfg := List.replicate 7 ({} : ChanCfg)
  deriving DecidableEq, Repr

/-- One calendar entry (R183). -/
structure CalEntry where
  dayMask : Nat := 0
  slot : Nat := 0
  minute : Nat := 0
  deriving DecidableEq, Repr

/-- A copy of a configuration block's fields, as read (R179, R181 to R183, 11.5). Masks and enumerated fields hold the
codes of the block. -/
structure Cfg where
  generation : Word32 := 0
  enabledMask : Nat := 1
  memberMask : Nat := 0
  refPoint : Nat := 0
  divisor : Nat := 4294967296
  lengthMinutes : Nat := 15
  closeSource : Nat := 0
  tariffSource : Nat := 0
  slots : Nat := 1
  dow : Nat := 0
  reportFloor : Nat := 0
  idleTracking : Nat := 0
  idleFloor : Nat := 0
  pageBase : Nat := 16384
  pageCount : Nat := 8
  aggContracted : Nat := 0
  calendarCount : Nat := 0
  points : List PointCfg := List.replicate 4 ({} : PointCfg)
  calendar : List CalEntry := List.replicate 32 ({} : CalEntry)
  limits : List Nat := List.replicate 49 0
  deriving DecidableEq, Repr

/-- What the factory store load leaves (R191 to R193). -/
structure Factory where
  serial : Word64 := 0
  revision : Word32 := 0
  gains : List Nat := List.replicate 28 32768
  offsets : List Int := List.replicate 28 0
  epoch : Word32 := 0
  missing : Bool := false
  unsaved : Bool := false
  deriving DecidableEq, Repr

/-- The configuration store (R179): active and pending configuration, the entry of the LOAD_CONFIG that waits with
the pending one, the fixed divisor (none: unfixed, R75), and the factory values. -/
structure ConfigStore where
  active : Option Cfg := none
  pend : Option (Cfg × Fin 16) := none
  divisor : Option Nat := none
  factory : Factory := {}
  deriving DecidableEq, Repr

/-! ## Timebase (ch. 2) -/

/-- The lock state (2.5). -/
inductive LockState where
  | acquire | locked | holdover | free
  deriving DecidableEq, Repr

/-- The verdict on a window (R37), and NONE before any (R45). -/
inductive Verdict where
  | none | valid | noLink | fewCrossings | outOfRange | weak
  deriving DecidableEq, Repr

/-- A verdict with the measured pace of its window, where there is one (R36, R37). -/
structure Measured where
  verdict : Verdict
  pace : Option Nat
  deriving DecidableEq, Repr

/-- The timebase. Paces and exact instants are in pace units; `runStart` and `freeTickAt` are instants of the
model's tick count `State.tick`; `winStart` and `prevWinStart` count from the first boundary of the run (R30). -/
structure Timebase where
  /-- The nominal system is 60 Hz, else 50 Hz (R29). -/
  nom60 : Bool := false
  timeValue : Nat := 0
  subMs : Nat := 0
  dowOffset : Nat := 0
  pace : Nat := 200000
  lock : LockState := .acquire
  steady : Nat := 0
  hold : Nat := 0
  crossings : List Nat := []
  pendingVerdict : Option Measured := none
  lastVerdict : Verdict := .none
  lastMeasured : Nat := 0
  /-- The strobe index c of the window in progress (R2). -/
  strobe : Nat := 0
  runStart : Nat := 0
  winStart : Nat := 0
  prevWinStart : Nat := 0
  /-- The start time of the window in progress (R31). -/
  winStartTime : Nat := 0
  /-- The lock state at the start of the window in progress was LOCKED (R31). -/
  winLocked : Bool := false
  /-- The number of the window in progress, counted by the model since power-on. -/
  winNo : Nat := 0
  freeTickAt : Nat := 2000000
  deriving DecidableEq, Repr

/-! ## Statistics unit settings and monitors (ch. 6) -/

/-- The ten settings of a band monitor (R121), as the codes of R190. -/
structure MonSettings where
  enable : Nat := 0
  source : Nat := 0
  kind : Nat := 0
  phase : Nat := 5
  lo : Nat := 1
  hi : Nat := 1280
  threshold : Nat := 33554431
  ratio : Nat := 100
  persistence : Nat := 1
  emission : Nat := 0
  deriving DecidableEq, Repr

/-- The state of a band monitor (R123). -/
inductive MonState where
  | off | quiet | rising | active
  deriving DecidableEq, Repr

/-- One band monitor: the stored settings; the settings in force for the window in progress; the settings the
statistics unit steps it by; whether a write awaits its effect; whether a restart awaits the results of the last
window (R121, R125); its state, count and last value compared (R123). -/
structure Monitor where
  stored : MonSettings := {}
  force : MonSettings := {}
  cur : MonSettings := {}
  dirty : Bool := false
  restartDue : Bool := false
  state : MonState := .off
  count : Nat := 0
  last : Nat := 0
  deriving DecidableEq, Repr

/-! ## Spectral unit (ch. 3) -/

/-- R24: the window class. -/
inductive WinClass where
  | clean | flagged | missing
  deriving DecidableEq, Repr

/-- What the spectral unit captures at a window's start (R48). -/
structure Captured where
  cfg : Cfg
  mons : List MonSettings
  deriving DecidableEq, Repr

/-- The window record of R31. -/
structure WinRecord where
  startTime : Nat
  endTime : Nat
  pace : Nat
  duration : Nat
  freq : Nat
  locked : Bool
  seq : Word64
  slot : Nat
  deriving DecidableEq, Repr

/-- One metering point of the decomposing half (R46): `slots` newest index first. -/
structure PointWindow where
  point : Nat
  slots : List Slot
  subst : Nat
  cls : WinClass
  stuck : List Bool
  mark : Bool
  deriving DecidableEq, Repr

/-- The decomposing half of the window store. `verdict` is the first part of the frequency verdict (R37), none once
the timebase would discard it (R34). -/
structure DecompWindow where
  record : WinRecord
  cap : Captured
  points : List PointWindow
  verdict : Option Measured
  number : Nat
  deriving DecidableEq, Repr

/-- The spectral unit: the captured settings of the window that fills, and the decomposing half. -/
structure Spectral where
  cap : Option Captured := none
  decomposing : Option DecompWindow := none
  deriving DecidableEq, Repr

/-- A band value for one monitor (R54). -/
structure BandValue where
  mon : Fin 4
  value : Nat
  power : Option Int
  deriving DecidableEq, Repr

/-- A window result (R63, R64). Lists of orders run from h = 1 to 50. The aggregate point's result leaves the
fields it does not hold at their defaults. -/
structure WinResult where
  point : Nat
  record : WinRecord
  generation : Word32
  cls : WinClass
  partialFlag : Bool := false
  subst : Nat := 0
  stuck : List Bool := List.replicate 7 false
  mark : Bool := false
  p3 : List Int
  q3 : List Int
  groupI : List (List Nat) := []
  groupV : List (List Nat) := []
  orderVals : List Nat := []
  thdI : Nat := 65535
  thdV : Nat := 65535
  tdd : Nat := 0
  bands : List BandValue := []
  deriving DecidableEq, Repr

/-! ## Interval controller (ch. 5) -/

/-- The ten close causes, in the bit order of R211. -/
inductive Cause where
  | clock | sync | syncTimeout | order | tariff | timeStep | demandReset | config | halt | reset
  deriving DecidableEq, Repr

/-- A cause set, bit i for cause i (R210, R211). -/
abbrev CauseSet := BitVec 10

/-- The open interval (R89), with the figures of the configuration that governs it. -/
structure OpenInterval where
  startTime : Nat
  slot : Nat
  partialMark : Bool
  unexpected : Bool := false
  malformed : Bool := false
  timeout : Bool := false
  nextAligned : Nat
  /-- The reference tick of the opening boundary; the elapsed time is counted from it. -/
  openTick : Nat
  generation : Word32
  lengthMs : Nat
  closeSync : Bool
  enabledMask : Nat
  memberMask : Nat
  deriving DecidableEq, Repr

/-- The sync decoder (R105, R106); instants are counts of `State.tick`. -/
structure Decoder where
  /-- The level of the sync line: low. -/
  lineLow : Bool := false
  /-- The instant at which the low period in progress began. -/
  lowSince : Option Nat := none
  /-- The low period in progress has been declared stuck low. -/
  declared : Bool := false
  /-- After a stuck-low fault, until 400 ms of unbroken high. -/
  recovering : Bool := false
  /-- The instant at which the line last rose. -/
  highSince : Nat := 0
  pulses : Nat := 0
  lastPulseEnd : Nat := 0
  deriving DecidableEq, Repr

/-- A demand-table entry (R82). -/
structure DemandEntry where
  max : Nat := 0
  seq : Word64 := 0
  deriving DecidableEq, Repr

/-- A close, as the interval controller passes it on (R90), with the points' masks and the length of the
configuration that governed the interval. -/
structure Close where
  seq : Word64
  slot : Nat
  causes : CauseSet
  startTime : Nat
  endTime : Nat
  partialMark : Bool
  unexpected : Bool
  malformed : Bool
  timeout : Bool
  generation : Word32
  enabledMask : Nat
  memberMask : Nat
  lengthMs : Nat
  deriving DecidableEq, Repr

/-- The interval controller. -/
structure IntervalControl where
  seq : Word64 := 0
  current : Option OpenInterval := none
  activeSlot : Nat := 0
  /-- The forced slot, where the forced flag is set (R103). -/
  forced : Option Nat := none
  stepped : Nat := 0
  /-- The governing switch point: day and minute of its instance (R101). -/
  governing : Option (Nat × Nat) := none
  pendingEnd : Bool := false
  pendingStep : Bool := false
  demandPending : Bool := false
  unfiled : Bool := false
  /-- The DEMAND_RESET orders that joined the pending reset (R109). -/
  demandOrders : List (Fin 16) := []
  /-- The CLOSE_INTERVAL orders in flight, with the sequence number of their close (R110). -/
  closeOrders : List (Fin 16 × Word64) := []
  /-- The time value that stood after the last boundary of the run (R99, the wrap). -/
  lastTime : Option Nat := none
  glitches : Word32 := 0
  unexpectedEnds : Word32 := 0
  ignoredSteps : Word32 := 0
  malformedBursts : Word32 := 0
  stuckLows : Word32 := 0
  timeouts : Word32 := 0
  decoder : Decoder := {}
  deriving DecidableEq, Repr

/-! ## Accounting unit (ch. 4) -/

/-- An accumulation register (R69). -/
structure Reg where
  count : Word64 := 0
  residue : Nat := 0
  deriving DecidableEq, Repr

/-- The accounting unit: 180 registers (R69), 180 opening counts (R76), the measured duration in pace units (R77),
the 40 demand entries (R82), the sequence number and end time of the last window taken (R85), the closes it has not
finished (R78), and whether the first interval of the run still waits to open here (R76). -/
structure Accounting where
  regs : List Reg := List.replicate 180 ({} : Reg)
  opening : List Word64 := List.replicate 180 0
  measured : Nat := 0
  demand : List DemandEntry := List.replicate 40 ({} : DemandEntry)
  lastSeq : Word64 := 0
  lastEnd : Nat := 0
  closes : List Close := []
  openDue : Bool := false
  deriving DecidableEq, Repr

/-! ## Statistics unit (ch. 6) -/

/-- The figures of one harmonic order (R114). -/
structure OrderAcc where
  sum : Nat := 0
  max : Nat := 0
  exceed : Nat := 0
  emission : Nat := 0
  deriving DecidableEq, Repr

/-- An event entry (R127). -/
structure EventEntry where
  mon : Fin 4
  on : Bool
  reconfigured : Bool
  index : Nat
  value : Nat
  deriving DecidableEq, Repr

/-- The interval accumulators of a point, and its statistics part once the close finishes (R113, R114, R116, R118). -/
structure Acc where
  point : Nat := 0
  total : Nat := 0
  clean : Nat := 0
  flagged : Nat := 0
  missing : Nat := 0
  partials : Nat := 0
  unlocked : Nat := 0
  discarded : Nat := 0
  subst : Nat := 0
  stuck : List Bool := List.replicate 7 false
  offsetUpdates : Nat := 0
  minFreq : Nat := 0
  maxFreq : Nat := 0
  included : Nat := 0
  orders : List OrderAcc := List.replicate 49 ({} : OrderAcc)
  fundSum : Nat := 0
  thdISum : Nat := 0
  thdICount : Nat := 0
  thdVSum : Nat := 0
  thdVCount : Nat := 0
  tddSum : Nat := 0
  floor : Nat := 0
  events : List EventEntry := []
  dropped : Nat := 0
  deriving DecidableEq, Repr

/-- The statistics unit: the accumulators of the open interval (none open: `accs` is empty), the captured limit table
(R112; the captured report floor stands in each accumulator), the monitors, the closes it has not finished, and
whether the first interval of the run still waits to open here. -/
structure Statistics where
  accs : List Acc := []
  limits : List Nat := []
  monitors : List Monitor := List.replicate 4 ({} : Monitor)
  closes : List Close := []
  openDue : Bool := false
  deriving DecidableEq, Repr

/-! ## Filing unit (ch. 7) -/

/-- The accounting part of a close for one point (R79). -/
structure AcctPart where
  point : Nat
  deltas : List Word64
  cumulative : List Word64
  demandQI : Nat
  demandA : Nat
  excluded : Bool
  deriving DecidableEq, Repr

/-- A demand-close part (R83). -/
structure DemandPart where
  point : Nat
  entries : List DemandEntry
  deriving DecidableEq, Repr

/-- A demand-close record (R135). -/
structure DemandRecord where
  point : Nat
  seq : Word64
  endTime : Nat
  generation : Word32
  entries : List DemandEntry
  deriving DecidableEq, Repr

/-- An interval record with the sums that stay in the file (R134). -/
structure IntervalRecord where
  point : Nat
  firstSeq : Word64
  lastSeq : Word64
  merges : Nat
  startTime : Nat
  endTime : Nat
  causes : CauseSet
  partialMark : Bool
  unexpected : Bool
  malformed : Bool
  timeout : Bool
  tariffMask : BitVec 4
  tariffAtClose : Nat
  genFirst : Word32
  genLast : Word32
  stats : Acc
  deltas : List Word64
  cumulative : List Word64
  demandQI : Nat
  demandA : Nat
  excluded : Bool
  deriving DecidableEq, Repr

/-- An interval file (R136), its merge count (R146), and the closes not yet reported as placed (R152). -/
structure IntervalFile where
  records : List IntervalRecord
  demand : List DemandRecord
  merges : Nat
  unreported : List Word64
  deriving DecidableEq, Repr

/-- A close whose parts are being gathered (R133). -/
structure Assembly where
  close : Close
  acct : Option (List AcctPart × List DemandPart) := none
  stat : Option (List Acc) := none
  deriving DecidableEq, Repr

/-- How far a transit has come (R138, R139). -/
inductive TransitStage where
  | owner | body | header
  deriving DecidableEq, Repr

/-- The file in transit (R138): whether it came from the holding file; the base, page base and page index it uses;
its page sequence number; the bytes of its body and header once they are written. -/
structure Transit where
  file : IntervalFile
  fromHeld : Bool
  base : Word64
  pageBase : Nat
  page : Nat
  stage : TransitStage := .owner
  seqNo : Word32 := 0
  body : List Byte := []
  header : List Byte := []
  issuedAt : Nat
  deriving DecidableEq, Repr

/-- The filing unit. `layoutDue`: a layout change waits for the transit to end (R153). -/
structure Filing where
  held : Option IntervalFile := none
  transit : Option Transit := none
  nextPage : Nat := 0
  pageSeq : Word32 := 0
  assemblies : List Assembly := []
  layoutDue : Bool := false
  deriving DecidableEq, Repr

/-! ## Order unit (ch. 8) -/

/-- The result codes of R163, in the order of 11.4. -/
inductive ResultCode where
  | ok | clamped | badKind | badParam | badState | busy | superseded | badConfig | divisorFixed | shortBuffer
  | busFault | loadPresent | timeout | readOnly | reset
  deriving DecidableEq, Repr

/-- An entry of the in-flight list with its captured order (R159). `completed`: its completion has been made;
`ended`: a soft reset ended it and its RESET completion is still to be made (R177). -/
structure InFlight where
  entry : Fin 16
  kind : Nat
  tag : Word64
  params : List Byte
  completed : Bool := false
  ended : Bool := false
  deriving DecidableEq, Repr

/-- A completion (R163). -/
structure Completion where
  failed : Bool
  code : ResultCode
  value : Word64
  time : Nat
  tag : Word64
  deriving DecidableEq, Repr

/-- A write of the completion queue (R164). `firstDone`: the completion's first write has been answered. -/
inductive QueueItem where
  | taken (entry : Fin 16)
  | completion (entry : Fin 16) (c : Completion) (firstDone : Bool)
  deriving DecidableEq, Repr

/-- An access in progress: the base it took, and the instant of its issue. -/
structure Access where
  base : Word64
  issuedAt : Nat
  deriving DecidableEq, Repr

/-- The order unit: the in-flight list, the completion queue, the write in progress at its head, and whether the
first scan after a soft reset is still to come (R177). -/
structure OrderUnit where
  inFlight : List InFlight := []
  queue : List QueueItem := []
  head : Option Access := none
  resetDue : Bool := false
  deriving DecidableEq, Repr

/-! ## Exchange port (ch. 10) -/

/-- The measurement state (10.2). -/
inductive Meas where
  | halted | starting | running | stopping
  deriving DecidableEq, Repr

/-- The exchange state (10.3). -/
inductive Exchange where
  | online | faulted
  deriving DecidableEq, Repr

/-- The nine interrupt causes, in the bit order of R211. -/
inductive IntCause where
  | filed | hold | order | monitor | lock | link | sync | busfault | start
  deriving DecidableEq, Repr

/-- The kind of a bus fault (R202, R211). -/
inductive FaultKind where
  | none | error | timeout
  deriving DecidableEq, Repr

/-- The fault record (R202). `op` is none in the record of no fault. -/
structure FaultRecord where
  kind : FaultKind := .none
  dir : BusDir := .read
  op : Option BusOp := none
  addr : Word64 := 0
  deriving DecidableEq, Repr

/-- The source of the most recent reset (R208, R211). -/
inductive ResetCause where
  | powerOn | pin | soft
  deriving DecidableEq, Repr

/-- A header block write in progress (R206): its bytes, and whether the field writes have been answered. -/
structure HeaderWrite where
  access : Access
  image : List Byte
  counting : Bool
  deriving DecidableEq, Repr

/-- The block read of a LOAD_CONFIG in progress (R166). -/
structure ConfigRead where
  entry : Fin 16
  access : Access
  deriving DecidableEq, Repr

/-- A SNAPSHOT in flight (R84 to R86): its buffer, the image header, fixed when its taking event has done its other
actions (empty until then), and, once captured, the whole image and the instant at which its writes were issued. -/
structure Snapshot where
  entry : Fin 16
  addr : Word64
  head : List Byte
  image : Option (List Byte)
  issuedAt : Nat
  /-- The sequence number of the most recent window in the image (R86). -/
  seq : Word64
  deriving DecidableEq, Repr

/-- The exchange port. -/
structure Port where
  exbase : Word64 := 0
  run : Bool := false
  meas : Meas := .halted
  exchange : Exchange := .online
  intcause : BitVec 9 := 0
  intmask : BitVec 9 := 0
  startRefused : Bool := false
  fault : FaultRecord := {}
  updateCount : Word32 := 0
  resetCause : ResetCause := .powerOn
  scan : Option Access := none
  header : Option HeaderWrite := none
  configRead : Option ConfigRead := none
  snapshots : List Snapshot := []
  deriving DecidableEq, Repr

/-! ## Resets in progress (R191, R208) -/

/-- The next transfer of a factory store load (R191 to R193). -/
inductive LoadStage where
  | identity | epochRead | epochWrite | epochVerify
  deriving DecidableEq, Repr

/-- Whether a power-on or pin reset is in progress. -/
inductive ResetPhase where
  | running
  /-- RESET_N is held asserted, and the engine stays in reset. `cause` is the source of the most recent reset, which the
  reset cause becomes when the load has run (R208, log 45). -/
  | held (cause : ResetCause)
  /-- The factory store load runs; the transfer in progress was issued at `issuedAt`. -/
  | loading (stage : LoadStage) (issuedAt : Nat) (cause : ResetCause)
  deriving DecidableEq, Repr

/-! ## The event in hand, and what is still to come inside it -/

/-- What may still be due inside the step in hand, each whole and indivisible (spec/95, log 4). Those whose condition
is a row of the table wait for that row's command, and come about by themselves before anything else happens. -/
inductive Due where
  -- frames and strobes (R2 to R12)
  | frame (l : Fin 4) (bytes : List Byte)
  | seekFrame (l : Fin 4) (bytes : List Byte)
  | enterRunning (l : Fin 4) (bytes : List Byte)
  | drop (l : Fin 4) (reason : DropReason)
  | strobe
  -- a boundary, before its scan
  | finishLink (l : Fin 4)
  | closeWindow
  | calibrationCheck (ch : Fin 28)
  | offsetEffect (ch : Fin 28)
  | clip (ch : Fin 28) (clipped : Bool)
  | restartCheck (l : Fin 4)
  | lockStep
  | monitorEffect
  | scan
  -- after the scan
  | takeOrders (table : List Byte)
  | handOver (entry : Fin 16)
  | intervalEnd
  | tariffStep
  | clockCheck
  | timeoutCheck
  | demandApply
  | decide
  | activate (cfg : Cfg) (entry : Fin 16)
  | close
  | settleTariff
  | finishOrders
  | heldRetry
  | header
  | endEvent
  -- a decomposition
  | decompose
  | idle (ch : Fin 28) (isIdle : Bool) (mean : Int)
  | monitorStep (m : Fin 4) (value : Nat) (eligible : Bool) (point : Nat) (index : Nat)
  | monitorRestart (m : Fin 4)
  | acctFinish
  | statFinish
  | fileComplete (seq : Word64)
  | snapCapture (entry : Fin 16)
  | statReset
  /-- What follows fell on this tick, while an event waited for its reads; none: it falls now (log 9). -/
  | asOf (tick : Option Nat)
  deriving DecidableEq, Repr

/-- An order that has been handed over at the event in hand and finishes once the event's other actions are done
(log 11): a TARIFF_SET, with the slot that stands then (R103); a PARAM_READ of a read-only parameter (R186), or of an
active offset that an activation of the same boundary may still replace, with the stored value it found (R17, R189);
a SNAPSHOT, whose image is captured then (R84). -/
inductive Finishing where
  | tariff (entry : Fin 16)
  | read (entry : Fin 16) (number : Nat)
  | offset (entry : Fin 16) (ch : Nat) (stored : Int)
  | image (entry : Fin 16)
  deriving DecidableEq, Repr

/-- The first boundary of a run, a later boundary, or a free tick. -/
inductive EventKind where
  | first | boundary | tick
  deriving DecidableEq, Repr

/-- The boundary or free tick in hand: from its instant until its orders and its close are settled. -/
structure Event where
  kind : EventKind
  /-- Measurement reaches HALTED at this boundary (R97). -/
  halting : Bool
  /-- The reference tick of the event, as `State.tick` counts. -/
  tick : Nat
  /-- The time value of the event before any SET_TIME, and the one that stands (R28). -/
  tOld : Nat
  tNew : Nat
  causes : CauseSet := 0
  /-- An INTERVAL_END, a TARIFF_STEP, a demand reset were pending as the event fell (R94, R102, R108). -/
  intervalEnd : Bool
  tariffStep : Bool
  demand : Bool
  /-- The unfiled demand-close flag as the event fell (R108). -/
  unfiled : Bool
  /-- A file was in transit as the event fell (R142). -/
  inTransit : Bool := false
  /-- A SET_TIME has been carried out at the event (R27). -/
  timeSet : Bool := false
  /-- The last TARIFF_SET carried out at the event: a slot, or none for AUTO (R103). -/
  tariffSet : Option (Option Nat) := none
  /-- The orders that finish at the event's end, in the order in which they were handed over. -/
  finishing : List Finishing := []
  /-- A DEMAND_RESET burst has ended since the event fell: its reset is one for a later boundary (R108, log 9). -/
  lateDemand : Bool := false
  /-- What follows once the reads in progress are answered. -/
  todo : List Due := []
  /-- Strobes, frames and decompositions that fell while the reads were outstanding, each behind the tick on which it
  fell (log 9). -/
  deferred : List Due := []
  deriving DecidableEq, Repr

/-! ## The machine -/

/-- The state of the ND-4150. `tick`, `asOf`, `due`, `event` and the queue `pending` are the model's
own. -/
structure State where
  /-- The commands that wait, first in, first out. -/
  pending : List Instr := []
  /-- What is still due inside the step in hand. -/
  due : List Due := []
  /-- The boundary or free tick in hand. -/
  event : Option Event := none
  /-- Reference ticks since power-on or the assertion of RESET_N. -/
  tick : Nat := 0
  /-- The tick on which the part in hand fell, where it fell while an event waited for its reads (log 9). -/
  asOf : Option Nat := none
  phase : ResetPhase := .loading .identity 0 .powerOn
  links : List Link := List.replicate 4 ({} : Link)
  channels : List Channel := List.replicate 28 ({} : Channel)
  tb : Timebase := {}
  spectral : Spectral := {}
  acct : Accounting := {}
  ic : IntervalControl := {}
  stats : Statistics := {}
  filing : Filing := {}
  orders : OrderUnit := {}
  store : ConfigStore := {}
  port : Port := {}
  deriving DecidableEq, Repr

/-- The machine right after a power-on on a 50 Hz strap, with the sync line high: every block at its power-on values,
the factory store load about to read its first block, no command waiting (R208, R209; log 5). -/
def State.reset : State := {}

end Sys2Proof.Machine
end

