-- ==== Sys2Proof/Machine/Ops.lean ====
section
/-! DEFINITION. The shared operations over the state: the figures of the nominal system (R29), reading and writing one
link, channel, monitor or register, the passing of time (R26), requesting an interrupt cause (R204), making a
completion and issuing the completion queue (R163, R164), and exact rounding (00_scope, Integer arithmetic). -/

namespace Sys2Proof.Machine

/-! ## Rounding -/

/-- `n / d` rounded half away from zero (`d` above 0). -/
def roundHalfAway (n : Int) (d : Nat) : Int :=
  let q := (2 * n.natAbs + d) / (2 * d)
  if n < 0 then -(q : Int) else q

/-- `n / d` rounded half up, for a non-negative quotient. -/
def roundHalfUp (n d : Nat) : Nat := (2 * n + d) / (2 * d)

/-- The least integer at or above `n / d` (`d` above 0). -/
def ceilDiv (n d : Nat) : Nat := (n + d - 1) / d

/-- `v` clamped to the range `lo` to `hi`. -/
def clampInt (lo hi v : Int) : Int := if v < lo then lo else if hi < v then hi else v

/-- `v` clamped to the range `lo` to `hi`. -/
def clampNat (lo hi v : Nat) : Nat := if v < lo then lo else if hi < v then hi else v

/-- Square root rounded down, by two bits of `n` a step: `fuel` at least half of `n`'s length gives floor(√n). -/
def isqrtAux : Nat → Nat → Nat
  | 0, _ => 0
  | fuel + 1, n =>
    if n = 0 then 0
    else
      let r := 2 * isqrtAux fuel (n / 4)
      if (r + 1) * (r + 1) ≤ n then r + 1 else r

/-- floor(√n), exactly (R52 to R54). -/
def isqrt (n : Nat) : Nat := isqrtAux (Nat.log2 n / 2 + 1) n

/-! ## The nominal system (R29) -/

/-- Cycles per window C. -/
def cycles (nom60 : Bool) : Nat := if nom60 then 12 else 10

/-- Samples per window N = 256 × C. -/
def windowLen (nom60 : Bool) : Nat := 256 * cycles nom60

/-- The nominal pace. -/
def nominalPace (nom60 : Bool) : Nat := if nom60 then 166667 else 200000

/-- The ends of the valid pace range. -/
def paceMin (nom60 : Bool) : Nat := if nom60 then 151515 else 181818
def paceMax (nom60 : Bool) : Nat := if nom60 then 185185 else 222222

/-- The frequency of a pace in millihertz (R31). -/
def paceFrequency (pace : Nat) : Nat := 10000000000 / pace

/-! ## Parts of the state -/

def State.link (s : State) (l : Fin 4) : Link := s.links.getD l.val {}
def State.setLink (s : State) (l : Fin 4) (k : Link) : State := { s with links := s.links.set l.val k }
def State.channel (s : State) (ch : Nat) : Channel := s.channels.getD ch {}
def State.setChannel (s : State) (ch : Nat) (c : Channel) : State := { s with channels := s.channels.set ch c }
def State.monitor (s : State) (m : Fin 4) : Monitor := s.stats.monitors.getD m.val {}
def State.setMonitor (s : State) (m : Fin 4) (k : Monitor) : State :=
  { s with stats := { s.stats with monitors := s.stats.monitors.set m.val k } }

/-- The links, and the channels, by number. -/
def allLinks : List (Fin 4) := [0, 1, 2, 3]
def allMonitors : List (Fin 4) := [0, 1, 2, 3]
def allChannels : List (Fin 28) := List.finRange 28

/-- R1: the channel of a point and a position. -/
def channelOf (point pos : Nat) : Nat := 7 * point + pos

/-- The metering points named by a mask, in increasing order. -/
def maskPoints (mask : Nat) : List Nat := [0, 1, 2, 3].filter (fun p => mask.testBit p)

/-- The points of an interval file (R79, R112, R133): the enabled metering points, and the aggregate point 4 if there
are members. -/
def filePoints (enabledMask memberMask : Nat) : List Nat :=
  maskPoints enabledMask ++ (if maskPoints memberMask = [] then [] else [4])

def Cfg.point (c : Cfg) (p : Nat) : PointCfg := c.points.getD p {}
def Cfg.chan (c : Cfg) (ch : Nat) : ChanCfg := (c.point (ch / 7)).chans.getD (ch % 7) {}
def Cfg.lengthMs (c : Cfg) : Nat := c.lengthMinutes * 60000

/-! ## Gains and offsets (R17, R182) -/

/-- The configured gain of a channel: the factory value where the configuration says so, or where there is none. -/
def configuredGain (st : ConfigStore) (ch : Nat) : Nat :=
  match st.active with
  | none => st.factory.gains.getD ch 32768
  | some c => if (c.chan ch).useFactory = 1 then st.factory.gains.getD ch 32768 else (c.chan ch).gain

/-- The configured offset of a channel. -/
def configuredOffset (st : ConfigStore) (ch : Nat) : Int :=
  match st.active with
  | none => st.factory.offsets.getD ch 0
  | some c => if (c.chan ch).useFactory = 1 then st.factory.offsets.getD ch 0 else (c.chan ch).offset

/-- The active gain equals the configured gain (R17). -/
def activeGain (s : State) (ch : Nat) : Nat := configuredGain s.store ch

/-! ## Measurement and exchange -/

/-- Measurement is RUNNING or STOPPING: strobes and windows run (R30). -/
def measuring (s : State) : Bool := s.port.meas = .running || s.port.meas = .stopping

/-- A power-on or pin reset is in progress (R195). -/
def inReset (s : State) : Bool := s.phase ≠ .running

/-- The exchange port may begin an access to the exchange area: ONLINE, and a base placed (R196, R202). -/
def canAccess (s : State) : Bool := s.port.exchange = .online && s.port.exbase ≠ 0

/-- The boundary in hand halts measurement. -/
def State.halting (s : State) : Bool :=
  match s.event with
  | some ev => ev.halting
  | none => false

/-- The bit of an interrupt cause (R211). -/
def IntCause.bit : IntCause → Nat
  | .filed => 0 | .hold => 1 | .order => 2 | .monitor => 3 | .lock => 4 | .link => 5 | .sync => 6 | .busfault => 7
  | .start => 8

/-- The bit of a close cause (R211). -/
def Cause.bit : Cause → Nat
  | .clock => 0 | .sync => 1 | .syncTimeout => 2 | .order => 3 | .tariff => 4 | .timeStep => 5 | .demandReset => 6
  | .config => 7 | .halt => 8 | .reset => 9

def Cause.set (c : Cause) : CauseSet := 1#10 <<< c.bit

/-- R204: a request sets its cause's latch; a cause already set stays set. -/
def request (c : IntCause) (s : State) : State :=
  { s with port := { s.port with intcause := s.port.intcause ||| (1#9 <<< c.bit) } }

/-- Request a cause where a condition holds. -/
def requestIf (b : Bool) (c : IntCause) (s : State) : State := if b then request c s else s

/-! ## Time (R26) -/

/-- The clock after `n` reference ticks: milliseconds wrap at 2^48. -/
def Timebase.advance (tb : Timebase) (n : Nat) : Timebase :=
  { tb with timeValue := (tb.timeValue + (tb.subMs + n) / 10000) % 2 ^ 48, subMs := (tb.subMs + n) % 10000 }

/-- `n` reference ticks pass. The clock stands while a power-on or pin reset is in progress (log 6). -/
def elapse (n : Nat) (s : State) : State :=
  if inReset s then { s with tick := s.tick + n } else { s with tick := s.tick + n, tb := s.tb.advance n }

/-- Time passes until the instant `t`, if it lies ahead. -/
def waitUntil (t : Nat) (s : State) : State := elapse (t - s.tick) s

/-! ## Completions (R163, R164) -/

/-- R164, R165: the write at the head of the completion queue is issued as soon as none is in progress and the
exchange area can be reached. It takes the base that EXBASE holds then (R196). -/
def pump (s : State) : State :=
  if s.orders.queue ≠ [] && s.orders.head.isNone && canAccess s then
    { s with orders := { s.orders with head := some { base := s.port.exbase, issuedAt := s.tick } } }
  else s

/-- The in-flight order of an entry. -/
def State.inFlight (s : State) (e : Fin 16) : Option InFlight := s.orders.inFlight.find? (fun f => f.entry = e)

/-- R163: a completion is made: it joins the completion queue, once for each order taken. -/
def complete (e : Fin 16) (failed : Bool) (code : ResultCode) (value : Word64) (time : Nat) (s : State) : State :=
  match s.inFlight e with
  | none => s
  | some f =>
    if f.completed then s
    else
      pump { s with orders := { s.orders with
        inFlight := s.orders.inFlight.map (fun g => if g.entry = e then { g with completed := true } else g)
        queue := s.orders.queue ++ [.completion e { failed, code, value, time, tag := f.tag } false] } }

/-- DONE with OK. -/
def completeOk (e : Fin 16) (value : Word64) (time : Nat) (s : State) : State := complete e false .ok value time s

/-- FAILED, with a result value of 0 (R156). -/
def completeFail (e : Fin 16) (code : ResultCode) (time : Nat) (s : State) : State := complete e true code 0 time s

/-- R26: the time value `n` reference ticks ago, on the clock as it stands. -/
def Timebase.timeAgo (tb : Timebase) (n : Nat) : Nat :=
  (tb.timeValue * 10000 + tb.subMs + (2 ^ 48 * 10000 - n % (2 ^ 48 * 10000))) / 10000 % 2 ^ 48

/-- R163: the time value at the reference tick on which the part in hand falls, or fell while an event waited for its
reads (log 9). -/
def partTime (s : State) : Nat :=
  match s.asOf with
  | none => s.tb.timeValue
  | some t => s.tb.timeAgo (s.tick - t)

/-- The time value of the event in hand: the one it had before any SET_TIME (R26, R163; log 15); outside an event, that
of the part in hand. -/
def eventTime (s : State) : Nat :=
  match s.event with
  | none => partTime s
  | some ev => ev.tOld

/-! ## What is due -/

/-- Put further steps in front of what is due. -/
def pushDue (ds : List Due) (s : State) : State := { s with due := ds ++ s.due }

/-- Change the event in hand. -/
def modEvent (f : Event → Event) (s : State) : State := { s with event := s.event.map f }

/-- An order of the event in hand finishes once the event's other actions are done (log 11). -/
def finishLater (f : Finishing) (s : State) : State := modEvent (fun ev => { ev with finishing := ev.finishing ++ [f] }) s

end Sys2Proof.Machine
end

