-- ==== Sys2Proof/Machine/Operands.lean ====
section
/-! DEFINITION. What the commands carry and what the engine writes, byte by byte: little-endian fields (R210), a write of
ENGCTL (11.2, R197), the link frame (11.8, R214), the order entry (11.4, R212), the configuration block (11.5) and the
factory store's blocks (R191 to R193, log 7). -/

namespace Sys2Proof.Machine

/-! ## Little-endian fields (R210) -/

/-- The unsigned value of a little-endian field. -/
def leNat : List Byte → Nat
  | [] => 0
  | b :: bs => b.toNat + 256 * leNat bs

/-- The `width` bytes of a value, least significant first, modulo 2^(8 width). -/
def leBytes : Nat → Nat → List Byte
  | 0, _ => []
  | width + 1, v => BitVec.ofNat 8 v :: leBytes width (v / 256)

/-- An unsigned field of `width` bytes at an offset; bytes that are not there read as 0. -/
def field (bytes : List Byte) (off width : Nat) : Nat := leNat ((bytes.drop off).take width)

/-- The two's complement reading of `v` on `bits` bits. -/
def signed (bits v : Nat) : Int := if v < 2 ^ (bits - 1) then (v : Int) else (v : Int) - (2 ^ bits : Nat)

/-- A field of `width` bytes that saturates at its largest value (R211). -/
def leSat (width v : Nat) : List Byte := leBytes width (min v (256 ^ width - 1))

/-- Zero bytes of a layout (R210). -/
def zeros (n : Nat) : List Byte := List.replicate n 0

/-- The low bits of a mask, bit i for member i (R210). -/
def maskOf : List Bool → Nat
  | [] => 0
  | b :: bs => (if b then 1 else 0) + 2 * maskOf bs

/-! ## A write of ENGCTL (11.2, R197) -/

/-- R197, 11.2: the command that the host's write of a value to ENGCTL is (log 49): bit 0 is RUN, bit 1 RESUME, bit 2 SRST,
and the other bits are ignored. -/
def engctlCommand (dt : Nat) (value : Word32) : Instr :=
  let run := value.getLsbD 0
  let resume := value.getLsbD 1
  if value.getLsbD 2 then .softReset ⟨dt, run, resume⟩
  else if resume then .resume ⟨dt, run⟩
  else if run then .runSet ⟨dt, false⟩
  else .runClear ⟨dt, false⟩

/-! ## The link frame (11.8, R214) -/

/-- The parity of the ones of a value of `bits` bits: true for an odd number. -/
def oddOnes (bits v : Nat) : Bool := ((List.range bits).filter (fun i => v.testBit i)).length % 2 = 1

/-- END stands in its place: exactly 18 data bytes came before it. An END without a data byte before it counts as a frame
too (log 37). -/
def frameEnds (bytes : List Byte) : Bool := bytes.length = 18

/-- The fields of a frame. The word of a position has correct parity when its 16 bits and its parity bit together hold
an odd number of ones. -/
def decodeFrame (bytes : List Byte) : Frame :=
  let flags := field bytes 2 1
  let parity := field bytes 17 1
  let word := fun c => field bytes (3 + 2 * c) 2
  { index := field bytes 0 2
    clips := (List.range 7).map (fun c => flags.testBit c)
    fault := flags.testBit 7
    words := (List.range 7).map (fun c => signed 16 (word c))
    parityOk := (List.range 7).map (fun c => oddOnes 17 (word c + 65536 * (if parity.testBit c then 1 else 0))) }

/-! ## The order entry (11.4) -/

/-- The 64 bytes of entry `e` of the order table as a scan reads it (R158). -/
def tableEntry (table : List Byte) (e : Nat) : List Byte := (table.drop (64 * e)).take 64

/-- The state field of an entry: POSTED is 1. -/
def entryState (entry : List Byte) : Nat := field entry 0 2
def entryKind (entry : List Byte) : Nat := field entry 2 2
def entryTag (entry : List Byte) : Word64 := BitVec.ofNat 64 (field entry 8 8)
def entryParams (entry : List Byte) : List Byte := (entry.drop 16).take 32

/-- A u32 parameter field at an offset of the entry (11.4), from its 32 parameter bytes. -/
def param32 (params : List Byte) (off : Nat) : Nat := field params (off - 16) 4
def param64 (params : List Byte) (off : Nat) : Nat := field params (off - 16) 8

/-- The result codes of 11.4. -/
def ResultCode.toNat : ResultCode → Nat
  | .ok => 0 | .clamped => 1 | .badKind => 2 | .badParam => 3 | .badState => 4 | .busy => 5 | .superseded => 6
  | .badConfig => 7 | .divisorFixed => 8 | .shortBuffer => 9 | .busFault => 10 | .loadPresent => 11 | .timeout => 12
  | .readOnly => 13 | .reset => 14

/-- The bytes of a TAKEN write: the state field alone (R159). -/
def takenBytes : List Byte := leBytes 2 2

/-- The bytes of a completion's first write: bytes 4 to 15 and 48 to 63 of the entry (R164, 11.4). -/
def completionBytes (c : Completion) : List Byte × List Byte :=
  (leBytes 2 c.code.toNat ++ zeros 2 ++ leBytes 8 c.tag.toNat, leBytes 8 c.value.toNat ++ leBytes 8 c.time)

/-- The bytes of a completion's state write: DONE or FAILED (R164). -/
def stateBytes (c : Completion) : List Byte := leBytes 2 (if c.failed then 4 else 3)

/-! ## The configuration block (11.5) -/

def decodeChanCfg (b : List Byte) (base : Nat) (c : Nat) : ChanCfg :=
  { gain := field b (base + 8 + 8 * c) 2
    offset := signed 16 (field b (base + 10 + 8 * c) 2)
    useFactory := field b (base + 12 + 8 * c) 1 }

def decodePointCfg (b : List Byte) (p : Nat) : PointCfg :=
  let base := 48 + 64 * p
  { weight := field b base 2
    contracted := field b (base + 4) 4
    chans := (List.range 7).map (decodeChanCfg b base) }

def decodeCalEntry (b : List Byte) (e : Nat) : CalEntry :=
  { dayMask := field b (304 + 4 * e) 1, slot := field b (305 + 4 * e) 1, minute := field b (306 + 4 * e) 2 }

/-- The fields of a configuration block, as read. -/
def decodeCfg (b : List Byte) : Cfg :=
  { generation := BitVec.ofNat 32 (field b 0 4)
    enabledMask := field b 4 1
    memberMask := field b 5 1
    refPoint := field b 6 1
    closeSource := field b 7 1
    divisor := field b 8 8
    lengthMinutes := field b 16 1
    tariffSource := field b 17 1
    slots := field b 18 1
    dow := field b 19 1
    reportFloor := field b 20 4
    idleTracking := field b 24 1
    calendarCount := field b 25 1
    idleFloor := field b 28 4
    pageBase := field b 32 4
    pageCount := field b 36 2
    aggContracted := field b 40 4
    points := (List.range 4).map (decodePointCfg b)
    calendar := (List.range 32).map (decodeCalEntry b)
    limits := (List.range 49).map (fun i => field b (432 + 2 * i) 2) }

/-! ## The factory store's blocks (R191 to R193) -/

/-- R191: a block passes its checksum when the sum of all its words, the checksum word included, is 2^32 - 1. -/
def checksumOk (words : List Word32) : Bool := words.foldl (· + ·) 0 = 0xFFFFFFFF#32

/-- The checksum word that makes a block good. -/
def checksumFor (words : List Word32) : Word32 := 0xFFFFFFFF#32 - words.foldl (· + ·) 0

/-- The gain and the offset word of a channel in the identity block: low and high half of word 3 + ch (log 7). -/
def factoryGain (words : List Word32) (ch : Nat) : Nat := (words.getD (3 + ch) 0).toNat % 65536
def factoryOffset (words : List Word32) (ch : Nat) : Int := signed 16 ((words.getD (3 + ch) 0).toNat / 65536)

/-- R192: the identity and calibration block is good: its 32 words are there (log 7), its checksum passes, and every
gain and offset lies in range. -/
def identityGood (words : List Word32) : Bool :=
  words.length = 32 && checksumOk words &&
    (List.range 28).all (fun ch =>
      16384 ≤ factoryGain words ch && factoryGain words ch ≤ 49151 &&
        -2047 ≤ factoryOffset words ch && factoryOffset words ch ≤ 2047)

/-- R192: what the identity and calibration block supplies; a bad block supplies nothing. -/
def judgeIdentity (words : List Word32) (f : Factory) : Factory :=
  if identityGood words then
    { f with
      serial := BitVec.ofNat 64 ((words.getD 0 0).toNat + 2 ^ 32 * (words.getD 1 0).toNat)
      revision := words.getD 2 0
      gains := (List.range 28).map (factoryGain words)
      offsets := (List.range 28).map (factoryOffset words)
      missing := false }
  else
    { f with
      serial := 0, revision := 0, gains := List.replicate 28 32768, offsets := List.replicate 28 0, missing := true }

/-- R193: the epoch block is its epoch word and its checksum word. -/
def epochBlock (epoch : Word32) : List Word32 := [epoch, checksumFor [epoch]]

/-- R193: the epoch of the new life: the stored number plus one, or 1 from a bad block. -/
def nextEpoch (words : List Word32) : Word32 :=
  if words.length = 2 && checksumOk words then words.getD 0 0 + 1 else 1

end Sys2Proof.Machine
end

