-- ==== Sys2Proof/Machine/Flags.lean ====
section
/-! DEFINITION. The status the host sees without the exchange area: the interrupt line (R205), the codes of R187, R188
and R211, the holding state (R141), and a read of the register window (R195, R197, 11.2). -/

namespace Sys2Proof.Machine

/-- R205: the line is asserted while a cause is both set and enabled. -/
def interruptLine (s : State) : Bool := s.port.intcause &&& s.port.intmask ≠ 0

/-- A cause is set in INTCAUSE. -/
def causeSet (c : IntCause) (s : State) : Bool := s.port.intcause.getLsbD c.bit

def LinkState.code : LinkState → Nat | .down => 0 | .seeking => 1 | .running => 2
def DropReason.code : DropReason → Nat
  | .none => 0 | .silence => 1 | .framingRun => 2 | .parityRun => 3 | .moduleFault => 4 | .indexGap => 5
def LockState.code : LockState → Nat | .acquire => 0 | .locked => 1 | .holdover => 2 | .free => 3
def Verdict.code : Verdict → Nat
  | .none => 0 | .valid => 1 | .noLink => 2 | .fewCrossings => 3 | .outOfRange => 4 | .weak => 5
def MonState.code : MonState → Nat | .off => 0 | .quiet => 1 | .rising => 2 | .active => 3
def Meas.code : Meas → Nat | .halted => 0 | .starting => 1 | .running => 2 | .stopping => 3
def Exchange.code : Exchange → Nat | .online => 0 | .faulted => 1
def ResetCause.code : ResetCause → Nat | .powerOn => 1 | .pin => 2 | .soft => 3
def FaultKind.code : FaultKind → Nat | .none => 0 | .error => 1 | .timeout => 2
def busOpCode : BusOp → Nat
  | .scan => 1 | .completion => 2 | .header => 3 | .ownerRead => 4 | .pageWrite => 5 | .configRead => 6 | .snapshot => 7

/-- The holding state of R141. -/
inductive Holding where
  | empty | held | writing
  deriving DecidableEq, Repr

/-- R141: HELD while the holding file is occupied, WRITING while it is empty and a file that came from it is in
transit, else EMPTY. -/
def holding (f : Filing) : Holding :=
  if f.held.isSome then .held
  else
    match f.transit with
    | some t => if t.fromHeld then .writing else .empty
    | none => .empty

def Holding.code : Holding → Nat | .empty => 0 | .held => 1 | .writing => 2

/-- R141: the holding merge count. -/
def holdingMerges (f : Filing) : Nat :=
  match holding f with
  | .empty => 0
  | .held => match f.held with | some h => h.merges | none => 0
  | .writing => match f.transit with | some t => t.file.merges | none => 0

/-- 11.2: ENGSTAT. -/
def engstat (s : State) : Nat :=
  s.port.meas.code + 16 * s.port.exchange.code + 256 * s.tb.lock.code
    + (if holding s.filing = .empty then 0 else 4096)

/-- R195, 11.2: what a read of a register returns. RESUME and SRST read 0 (R197), and so do the bits a
register does not use; so do offsets that hold no register (log 43). -/
def readRegister (s : State) (offset : Nat) : Word32 :=
  if offset = 0x00 then s.port.exbase.truncate 32
  else if offset = 0x04 then (s.port.exbase >>> 32).truncate 32
  else if offset = 0x08 then (if s.port.run then 1 else 0)
  else if offset = 0x0C then BitVec.ofNat 32 (engstat s)
  else if offset = 0x10 then s.port.intcause.zeroExtend 32
  else if offset = 0x14 then s.port.intmask.zeroExtend 32
  else 0

end Sys2Proof.Machine
end

