-- ==== Sys2Proof/Machine/Conditioner.lean ====
section
/-! DEFINITION. The channel conditioner (1.6 to 1.8): correction of samples, clipping, active offsets, channel states,
idle tracking and calibration. -/

namespace Sys2Proof.Machine

/-! ## Correction (R15, R16) -/

/-- R15: (raw - O) × G / 32,768, rounded half away from zero, before saturation. -/
def correctedExact (offset : Int) (gain : Nat) (raw : Int) : Int := roundHalfAway ((raw - offset) * gain) 32768

/-- R15: the corrected sample, saturated to ±32,767. -/
def corrected (offset : Int) (gain : Nat) (raw : Int) : Int := clampInt (-32767) 32767 (correctedExact offset gain raw)

/-- R16: a good sample is clipped by its flag, by its raw code, or by the saturation of R15. -/
def isClipped (offset : Int) (gain : Nat) (flag : Bool) (raw : Int) : Bool :=
  flag || raw = -32768 || raw = 32767 || corrected offset gain raw ≠ correctedExact offset gain raw

/-- A good sample of a channel (R4, R15, R16). -/
def goodSample (s : State) (ch : Nat) (flag : Bool) (raw : Int) : ChanSample :=
  let o := (s.channel ch).offset
  let g := activeGain s ch
  { good := true, raw := raw, val := corrected o g raw, clipped := isClipped o g flag raw }

/-- A sample that was replaced (R4). -/
def substSample (v : Int) : ChanSample := { good := false, raw := 0, val := v, clipped := false }

/-! ## Active offsets (R17) -/

/-- An offset takes effect; the idle count restarts at 0. `mark`: the window that begins is the first to use an offset
of idle tracking (R21). -/
def takeOffset (ch : Nat) (v : Int) (mark : Bool) (s : State) : State :=
  s.setChannel ch { s.channel ch with offset := v, idleCount := 0, request := none, mark := mark }

/-- R17: a requested change waits for the first boundary after its arrival; while measurement is halted it takes effect
at once (STARTING counts as halted: log 30). A PARAM_WRITE (`late`) of the boundary at which measurement reaches HALTED
waits for the end of that event, because a configuration that becomes active there arrives before it. -/
def requestOffset (ch : Nat) (v : Int) (idle late : Bool) (s : State) : State :=
  if measuring s || (late && s.halting) then
    s.setChannel ch { s.channel ch with request := some { value := v, idle, late } }
  else takeOffset ch v idle s

/-- R17 at a boundary: the change that arrived before it takes effect. -/
def offsetEffect (ch : Fin 28) (s : State) : State :=
  match (s.channel ch).request with
  | some r => takeOffset ch r.value r.idle s
  | none => s

/-- R17, R184: an activation sets a channel's active offset to the configured offset and stands over the requests that
arrived before it; a PARAM_WRITE of the same boundary stands over it (`late`). -/
def activateOffset (s : State) (ch : Nat) : State :=
  let c := s.channel ch
  s.setChannel ch { c with
    offset := configuredOffset s.store ch
    idleCount := 0
    mark := false
    request := c.request.filter (fun r => r.late) }

/-- R189: the stored value of an active offset: the value most recently requested, or the offset in force. -/
def storedOffset (c : Channel) : Int :=
  match c.request with
  | some r => r.value
  | none => c.offset

/-- R17 at the end of an event: while measuring, a request of that event is from now on one that arrived before the next
boundary; while measurement is halted it takes effect. -/
def settleRequest (measures : Bool) (c : Channel) : Channel :=
  match c.request with
  | none => c
  | some r =>
    if measures then { c with request := some { r with late := false } }
    else { c with offset := r.value, idleCount := 0, request := none, mark := r.idle }

/-- A PARAM_WRITE of the event in hand has requested the offset. -/
def writtenHere (c : Channel) : Bool := c.request.any (fun r => r.late)

/-! ## Calibration (R22, R23) -/

/-- A calibration in flight on a channel fails. -/
def failCalibration (code : ResultCode) (ch : Nat) (s : State) : State :=
  match (s.channel ch).calibration with
  | some c => completeFail c.entry code (eventTime s) (s.setChannel ch { s.channel ch with calibration := none })
  | none => s

/-- R23: the link of a point leaves RUNNING: every calibration of its channels fails with BAD_STATE.
DESIGN CHOICE (log 21): those of one link complete in increasing channel number, which R23 does not say. -/
def failCalibrationsOf (l : Fin 4) (s : State) : State :=
  (List.range 7).foldl (fun s c => failCalibration .badState (channelOf l.val c) s) s

/-- Some sample of the position was substituted in the window (R21, R23). -/
def anySubstituted (w : PointWindow) (pos : Nat) : Bool := w.slots.any (fun sl => !(sl.ch.getD pos {}).good)

/-- R16: the channel's window is clipped. -/
def windowClipped (w : PointWindow) (pos : Nat) : Bool :=
  w.slots.any (fun sl => (sl.ch.getD pos {}).good && (sl.ch.getD pos {}).clipped)

/-- The exact sum of the raw codes of a position over a window. -/
def rawSum (w : PointWindow) (pos : Nat) : Int := w.slots.foldl (fun a sl => a + (sl.ch.getD pos {}).raw) 0

/-- A window of a calibration: one of the five from its first on. -/
def Calibration.measures (c : Calibration) (number : Nat) : Bool :=
  c.firstWindow ≤ number && number < c.firstWindow + 5

/-- R23 at the boundary that ends a measured window: a substituted sample of the channel fails the calibration. -/
def calibrationCheck (ch : Fin 28) (s : State) : State :=
  match s.spectral.decomposing, (s.channel ch).calibration with
  | some w, some c =>
    match w.points.find? (fun p => p.point = ch.val / 7) with
    | some p => if c.measures w.number && anySubstituted p (ch.val % 7) then failCalibration .badState ch s else s
    | none => s
  | _, _ => s

/-- R23 at the completion of a window's decomposition. -/
def calibrationStep (ch : Nat) (number n rms floor : Nat) (sum : Int) (s : State) : State :=
  match (s.channel ch).calibration with
  | none => s
  | some c =>
    if !c.measures number then s
    else if floor ≤ rms then failCalibration .loadPresent ch s
    else
      let total := c.sum + sum
      if number = c.firstWindow + 4 then
        let o := clampInt (-2047) 2047 (roundHalfAway total (5 * n))
        requestOffset ch o false false
          (completeOk c.entry (BitVec.ofInt 64 o) (eventTime s)
            (s.setChannel ch { s.channel ch with calibration := none }))
      else s.setChannel ch { s.channel ch with calibration := some { c with sum := total } }

/-! ## Channel states (R18, R19) -/

/-- R18: the clip run of a NORMAL channel reaches 200 with this window. -/
def becomesStuck (c : Channel) (clipped : Bool) : Bool := !c.stuck && clipped && 200 ≤ c.clipRun + 1

/-- R19: the clear run of a STUCK channel reaches 10 with this window. -/
def becomesNormal (c : Channel) (clipped : Bool) : Bool := c.stuck && !clipped && 10 ≤ c.clearRun + 1

/-- R18: the channel becomes STUCK: LINK is requested, the clear run and the idle count are 0, and a calibration in
flight ends. -/
def enterStuck (ch : Fin 28) (s : State) : State :=
  failCalibration .badState ch
    (request .link (s.setChannel ch { s.channel ch with
      stuck := true, clipRun := (s.channel ch).clipRun + 1, clearRun := 0, idleCount := 0 }))

/-- R19: the channel becomes NORMAL, and its configured offset is requested. -/
def leaveStuck (ch : Fin 28) (s : State) : State :=
  requestOffset ch (configuredOffset s.store ch) false false
    (s.setChannel ch { s.channel ch with stuck := false, clipRun := 0, clearRun := 0 })

/-- R18, R19: the runs of a channel at the boundary that ends a window. -/
def clipStep (ch : Fin 28) (clipped : Bool) (s : State) : State :=
  let c := s.channel ch
  if becomesStuck c clipped then enterStuck ch s
  else if becomesNormal c clipped then leaveStuck ch s
  else s.setChannel ch { c with
    clipRun := if clipped then c.clipRun + 1 else 0
    clearRun := if c.stuck then (if clipped then 0 else c.clearRun + 1) else c.clearRun }

/-! ## Idle tracking (R21) -/

/-- Idle tracking is enabled by the active configuration. -/
def trackingOn (s : State) : Bool :=
  match s.store.active with
  | some c => c.idleTracking = 1
  | none => false

/-- R21: the idle count of a tracked channel reaches 50 with this window. -/
def idleReaches (s : State) (ch : Fin 28) (isIdle : Bool) : Bool :=
  trackingOn s && !(s.channel ch).stuck && isIdle && 50 ≤ (s.channel ch).idleCount + 1

/-- R21: one window of a tracked channel; `mean` is its window mean, before the clamp. -/
def idleStep (ch : Fin 28) (isIdle : Bool) (mean : Int) (s : State) : State :=
  let c := s.channel ch
  if idleReaches s ch isIdle then
    requestOffset ch (clampInt (-2047) 2047 mean) true false (s.setChannel ch { c with idleCount := 0 })
  else
    s.setChannel ch { c with
      idleCount := if trackingOn s && !c.stuck && isIdle then c.idleCount + 1 else 0 }

end Sys2Proof.Machine
end

