-- ==== Sys2Proof/Machine/Links.lean ====
section
/-! DEFINITION. The link receivers (1.1 to 1.5): placing frames, the failure run, drops, the sync run, restarts, and
the class of a window (R24). -/

namespace Sys2Proof.Machine

/-- The failure run at which a link drops (R7), and the sync run at which it enters RUNNING (R11). -/
def dropRun : Nat := 64
def syncRunGoal : Nat := 16

/-- The substituted count of a window record (R2). -/
def substCount (slots : List Slot) : Nat := (slots.filter (fun sl => sl.subst)).length

/-- An index substituted with the last good samples, or 0 (R4). -/
def lastGoodSlot (k : Link) : Slot := { subst := true, ch := k.lastGood.map (fun v => substSample (v.getD 0)) }

/-- An index substituted with zeros (R11). -/
def zeroSlot : Slot := { subst := true, ch := List.replicate 7 (substSample 0) }

/-- Every index below `n` that is not placed is filled with the last good samples (R4, R6, R12). -/
def fillLastGood (n : Nat) (k : Link) : Link :=
  { k with slots := List.replicate (n - k.slots.length) (lastGoodSlot k) ++ k.slots }

/-- Every index below `n` that is not placed is filled with zeros (R11). -/
def fillZero (n : Nat) (k : Link) : Link :=
  { k with slots := List.replicate (n - k.slots.length) zeroSlot ++ k.slots }

/-- A channel of a frame fails: the module fault flag, or the parity of its word (R3). -/
def chanFails (f : Frame) (c : Nat) : Bool := f.fault || !(f.parityOk.getD c false)

/-- The number of words of a frame that fail parity. -/
def badWords (f : Frame) : Nat := ((List.range 7).filter (fun c => !(f.parityOk.getD c false))).length

/-- A frame without fault and with every word of correct parity. -/
def frameGood (f : Frame) : Bool := !f.fault && badWords f = 0

/-- R4: the sample of position `c` as the frame places it. -/
def placedSample (s : State) (l : Fin 4) (k : Link) (f : Frame) (c : Nat) : ChanSample :=
  if chanFails f c then substSample ((k.lastGood.getD c none).getD 0)
  else goodSample s (channelOf l.val c) (f.clips.getD c false) (f.words.getD c 0)

/-- R4: the frame is placed at the next index; the good channels' corrected samples become their last good ones. -/
def placeFrame (s : State) (l : Fin 4) (f : Frame) (k : Link) : Link :=
  let samples := (List.range 7).map (placedSample s l k f)
  { k with
    slots := { subst := !frameGood f, ch := samples } :: k.slots
    lastGood := (List.range 7).map (fun c =>
      if chanFails f c then k.lastGood.getD c none else some (samples.getD c {}).val) }

/-- R12: a link drops to SEEKING: what is unplaced up to c takes the last good samples, which are then cleared; the
reason is recorded, the counter advances, LINK is requested, and the calibrations of the point's channels fail, by
number (log 21). -/
def dropLink (l : Fin 4) (reason : DropReason) (s : State) : State :=
  let k := fillLastGood (s.tb.strobe + 1) (s.link l)
  failCalibrationsOf l (request .link (s.setLink l { k with
    state := .seeking
    dropReason := reason
    drops := k.drops + 1
    failRun := 0
    syncRun := 0
    syncLast := none
    lastGood := List.replicate 7 none }))

/-- R5: a frame with a framing error, at a link in RUNNING. -/
def framingErrorFrame (l : Fin 4) (s : State) : State :=
  let k := s.link l
  let k := { k with framingErrors := k.framingErrors + 1 }
  if k.slots.length ≤ s.tb.strobe then
    let k := { k with slots := lastGoodSlot k :: k.slots, failRun := k.failRun + 1 }
    let s := s.setLink l k
    if dropRun ≤ k.failRun then pushDue [.drop l .framingRun] s else s
  else s.setLink l k

/-- R3, R4, R7: a frame that passed framing and staleness, at a link in RUNNING. A gap that completes the failure run
drops the link before the frame is placed, and the frame is then the link's first in SEEKING. -/
def acceptFrame (l : Fin 4) (f : Frame) (bytes : List Byte) (s : State) : State :=
  let k := s.link l
  let gap := f.index - k.slots.length
  if dropRun ≤ k.failRun + gap then
    pushDue [.drop l .indexGap, .seekFrame l bytes]
      (s.setLink l { fillLastGood f.index k with failRun := k.failRun + gap })
  else
    let k' := placeFrame s l f (fillLastGood f.index k)
    let run := if frameGood f then 0 else k.failRun + gap + 1
    let s := s.setLink l { k' with
      failRun := run
      goodFrames := if frameGood f then k.goodFrames + 1 else k.goodFrames
      parityErrors := k.parityErrors + BitVec.ofNat 32 (badWords f) }
    if dropRun ≤ run then pushDue [.drop l (if f.fault then .moduleFault else .parityRun)] s else s

/-- R3: a frame at a receiver in RUNNING. -/
def runningFrame (l : Fin 4) (bytes : List Byte) (s : State) : State :=
  let k := s.link l
  let f := decodeFrame bytes
  if !frameEnds bytes then framingErrorFrame l s
  else if f.index < k.slots.length || s.tb.strobe < f.index then
    s.setLink l { k with staleFrames := k.staleFrames + 1 }
  else acceptFrame l f bytes s

/-- R11: a well-formed frame continues the sync run. -/
def continuesRun (n : Nat) (k : Link) (index : Nat) : Bool :=
  match k.syncLast with
  | some last => index = last + 1 || (index = 0 && last + 1 = n)
  | none => false

/-- R9, R11: a frame at a receiver in SEEKING. When the sync run reaches 16 the link enters RUNNING at this frame. -/
def seekingFrame (l : Fin 4) (bytes : List Byte) (s : State) : State :=
  let k := s.link l
  let f := decodeFrame bytes
  if !frameEnds bytes then
    s.setLink l { k with framingErrors := k.framingErrors + 1, syncRun := 0, syncLast := none }
  else if s.tb.strobe < f.index then
    s.setLink l { k with staleFrames := k.staleFrames + 1, syncRun := 0, syncLast := none }
  else if !frameGood f then
    s.setLink l { k with
      parityErrors := k.parityErrors + BitVec.ofNat 32 (badWords f), syncRun := 0, syncLast := none }
  else
    let run := if continuesRun (windowLen s.tb.nom60) k f.index then k.syncRun + 1 else 1
    let s := s.setLink l { k with goodFrames := k.goodFrames + 1, syncRun := run, syncLast := some f.index }
    if syncRunGoal ≤ run then pushDue [.enterRunning l bytes] s else s

/-- R11: the link enters RUNNING at a frame of index j: indices j to c are unplaced again, and the frame is placed at j
as the first of the run. A LINK_RESTART in flight completes (R14). -/
def enterRunning (l : Fin 4) (bytes : List Byte) (s : State) : State :=
  let k := s.link l
  let f := decodeFrame bytes
  let k := { k with
    state := .running
    failRun := 0
    syncRun := 0
    syncLast := none
    slots := k.slots.drop (k.slots.length - f.index)
    lastGood := List.replicate 7 none
    enteredAt := some f.index }
  let s' := s.setLink l { placeFrame s l f k with restart := none }
  match k.restart with
  | some r => completeOk r.entry (BitVec.ofNat 64 r.boundaries) (eventTime s) s'
  | none => s'

/-- R3, R9: a frame by the state of its link; a receiver in DOWN ignores it. -/
def frameStep (l : Fin 4) (bytes : List Byte) (s : State) : State :=
  match (s.link l).state with
  | .down => s
  | .seeking => seekingFrame l bytes s
  | .running => runningFrame l bytes s

/-- R6, R7, R11 at a strobe after the window-start strobe, on one link. -/
def strobeLink (l : Fin 4) (s : State) : State :=
  let k := s.link l
  match k.state with
  | .down => s
  | .seeking => s.setLink l (fillZero (s.tb.strobe + 1) k)
  | .running => if dropRun ≤ k.failRun + (s.tb.strobe - k.slots.length) then pushDue [.drop l .silence] s else s

/-- R6 at the window-start strobe of the next window: the ending window is filled, and the failure run advances; a run
of 64 drops the link with SILENCE. -/
def finishLink (l : Fin 4) (s : State) : State :=
  let k := s.link l
  match k.state with
  | .running =>
    let n := windowLen s.tb.nom60
    let run := k.failRun + (n - k.slots.length)
    let s := s.setLink l { fillLastGood n k with failRun := run }
    if dropRun ≤ run then pushDue [.drop l .silence] s else s
  | _ => s

/-- R24: the class of a window that ended. -/
def windowClass (running : Bool) (subst : Nat) (stuck : Bool) : WinClass :=
  if !running || 256 ≤ subst then .missing else if 9 ≤ subst || stuck then .flagged else .clean

/-- R2: the record of a window that begins, c = 0; a link in SEEKING places index 0 as substituted (R11). -/
def openRecord (k : Link) : Link :=
  match k.state with
  | .down => k
  | .seeking => { k with slots := [zeroSlot], enteredAt := none, runningAtStart := false }
  | .running => { k with slots := [], enteredAt := none, runningAtStart := true }

/-- R10: a link goes DOWN at a halt; its counters and drop reason stay. -/
def linkDown (k : Link) : Link :=
  { k with
    state := .down, slots := [], failRun := 0, syncRun := 0, syncLast := none, lastGood := List.replicate 7 none
    runningAtStart := false, enteredAt := none, prevV1 := none, restart := none }

/-- R10: a link enters SEEKING at the first boundary of a run. -/
def linkStart (k : Link) : Link := openRecord { linkDown k with state := .seeking }

/-- R14: a LINK_RESTART in flight fails, and the link keeps looking for sync. -/
def failRestart (l : Fin 4) (code : ResultCode) (s : State) : State :=
  match (s.link l).restart with
  | some r => completeFail r.entry code (eventTime s) (s.setLink l { s.link l with restart := none })
  | none => s

/-- R14: at the 50th boundary after the taking boundary the link is still SEEKING. -/
def restartExpires (k : Link) : Bool :=
  match k.restart with
  | some r => k.state = .seeking && 50 ≤ r.boundaries + 1
  | none => false

/-- R14 at a boundary: one more boundary has passed since the restart was taken. -/
def restartCheck (l : Fin 4) (s : State) : State :=
  let k := s.link l
  if restartExpires k then failRestart l .timeout s
  else s.setLink l { k with restart := k.restart.map (fun r => { r with boundaries := r.boundaries + 1 }) }

/-- R13: a restart puts the link in SEEKING at the taking boundary; it is no drop. -/
def restartLink (l : Fin 4) (e : Fin 16) (s : State) : State :=
  let k := s.link l
  let k' := if k.state = .running then fillLastGood (s.tb.strobe + 1) k else k
  let s' := s.setLink l { k' with
    state := .seeking, failRun := 0, syncRun := 0, syncLast := none, lastGood := List.replicate 7 none
    runningAtStart := false, enteredAt := none, restart := some { entry := e, boundaries := 0 } }
  if k.state = .running then failCalibrationsOf l s' else s'

end Sys2Proof.Machine
end

