-- ==== Sys2Proof/Machine/TimebaseOps.lean ====
section
/-! DEFINITION. The timebase (ch. 2): strobe instants, zero crossings, the measured pace, the frequency verdict, the slew
clamp and the lock machine, and the calendar figures of a time value. -/

namespace Sys2Proof.Machine

/-! ## Calendar figures (R27) -/

/-- R27: the day of week of a time value. -/
def dayOfWeek (dowOffset t : Nat) : Nat := (t / 86400000 + dowOffset) % 7

/-- R27: the minute of day of a time value. -/
def minuteOfDay (t : Nat) : Nat := (t % 86400000) / 60000

/-! ## Strobes (R30) -/

/-- The tick, counted from the first boundary of the run, on which the strobe of index `n` of a window is emitted: the
first at or after its exact instant. -/
def strobeTick (winStart pace n : Nat) : Nat := ceilDiv (winStart + n * pace) 256

/-- The instant of an index: the tick of its strobe times 256 (R35). -/
def indexInstant (winStart pace n : Nat) : Nat := 256 * strobeTick winStart pace n

/-- The instant, in the model's ticks, of strobe `n` of the window in progress; `n = N` is the next boundary. -/
def strobeAt (tb : Timebase) (n : Nat) : Nat := tb.runStart + strobeTick tb.winStart tb.pace n

/-! ## Crossings (R35) -/

/-- The instant of the positive-going crossing between two consecutive indices, where there is one. -/
def crossing (a b : EdgeSample) : Option Nat :=
  if a.good && b.good && a.val < 0 && 0 ≤ b.val then
    some (a.instant + roundHalfUp ((b.instant - a.instant) * (-a.val).toNat) (b.val - a.val).toNat)
  else none

/-- The crossings of a run of consecutive indices, in increasing order. -/
def crossingsOf : List EdgeSample → List Nat
  | a :: b :: rest => (crossing a b).toList ++ crossingsOf (b :: rest)
  | _ => []

/-- The V1 samples of a window with their instants; `slots` newest first. -/
def v1Samples (winStart pace : Nat) (slots : List Slot) : List EdgeSample :=
  slots.reverse.mapIdx (fun n sl =>
    { good := (sl.ch.getD 0 {}).good, val := (sl.ch.getD 0 {}).val, instant := indexInstant winStart pace n })

/-- R35: the crossing list after the scan of the ending window, on the reference link as it stands after the fill. The
list keeps the crossings of the ending window and of the one before it. -/
def scanCrossings (tb : Timebase) (k : Link) : List Nat :=
  let samples := v1Samples tb.winStart tb.pace k.slots
  let kept := match k.state with
    | .running =>
      match k.enteredAt with
      | some j => crossingsOf (samples.drop j)
      | none =>
        if k.runningAtStart then tb.crossings ++ crossingsOf (k.prevV1.toList ++ samples) else []
    | _ => []
  kept.filter (fun c => tb.prevWinStart ≤ c)

/-! ## Measured pace and verdict (R36, R37) -/

/-- R36: the measured pace of the window that began at `winStart`, from the crossing list. -/
def measuredPace (nom60 : Bool) (winStart : Nat) (crossings : List Nat) : Option Nat :=
  let c := cycles nom60
  let n := crossings.length
  if n < c + 1 then none
  else
    let last := crossings.getD (n - 1) 0
    if last < winStart then none
    else some (roundHalfUp (last - crossings.getD (n - 1 - c) 0) (windowLen nom60))

/-- The link was RUNNING at the window's start and still is after the fill (R37, log 17). -/
def linkHeld (k : Link) : Bool := k.state = .running && k.runningAtStart && k.enteredAt.isNone

/-- R37, the tests made at the boundary: the link, the crossings, the range. -/
def boundaryVerdict (nom60 : Bool) (held : Bool) (pace : Option Nat) : Measured :=
  if !held then { verdict := .noLink, pace := pace }
  else
    match pace with
    | none => { verdict := .fewCrossings, pace := none }
    | some p =>
      if p < paceMin nom60 || paceMax nom60 < p then { verdict := .outOfRange, pace := some p }
      else { verdict := .valid, pace := some p }

/-- R37: the least fundamental group RMS of a window that is not WEAK, in fc. -/
def weakLimit : Nat := 52428

/-- R37, the amplitude test, made when the decomposition completes. -/
def amplitudeVerdict (m : Measured) (g1 : Nat) : Measured :=
  if m.verdict = .valid && g1 < weakLimit then { m with verdict := .weak } else m

/-! ## The lock machine (R39 to R43) -/

/-- R39: the slew bound. -/
def slewBound (prev : Nat) : Nat := prev / 256

/-- R39: the measured pace clamped to within the slew bound of `prev`. -/
def clampedPace (prev m : Nat) : Nat := clampNat (prev - slewBound prev) (prev + slewBound prev) m

/-- R39: the deviation. -/
def deviation (prev m : Nat) : Nat := (m - prev) + (prev - m)

/-- R39: the deviation is within the steady limit. -/
def isSteady (prev m : Nat) : Bool := deviation prev m ≤ prev / 2048

/-- The measured pace of a VALID verdict; none for any other verdict. -/
def validPace (m : Measured) : Option Nat := if m.verdict = .valid then m.pace else none

/-- R40: the step in ACQUIRE. -/
def stepAcquire (tb : Timebase) (m : Measured) : Timebase :=
  match validPace m with
  | some p =>
    if isSteady tb.pace p then
      if 3 ≤ tb.steady + 1 then { tb with pace := clampedPace tb.pace p, steady := 0, lock := .locked }
      else { tb with pace := clampedPace tb.pace p, steady := tb.steady + 1 }
    else { tb with pace := clampedPace tb.pace p, steady := 0 }
  | none => { tb with steady := 0, lock := .holdover, hold := 1 }

/-- R41: the step in LOCKED. -/
def stepLocked (tb : Timebase) (m : Measured) : Timebase :=
  match validPace m with
  | some p =>
    if deviation tb.pace p ≤ slewBound tb.pace then { tb with pace := p }
    else { tb with pace := clampedPace tb.pace p, lock := .acquire, steady := 0 }
  | none => { tb with lock := .holdover, hold := 1 }

/-- R42: the step in HOLDOVER. -/
def stepHoldover (tb : Timebase) (m : Measured) : Timebase :=
  match validPace m with
  | some p => { tb with pace := clampedPace tb.pace p, lock := .acquire, steady := 0, hold := 0 }
  | none =>
    if 150 ≤ tb.hold + 1 then { tb with lock := .free, pace := nominalPace tb.nom60, hold := 0 }
    else { tb with hold := tb.hold + 1 }

/-- R43: the step in FREE. -/
def stepFree (tb : Timebase) (m : Measured) : Timebase :=
  match validPace m with
  | some p => { tb with pace := clampedPace (nominalPace tb.nom60) p, lock := .acquire, steady := 0 }
  | none => { tb with pace := nominalPace tb.nom60 }

/-- R38: one lock step with the pending verdict, which it consumes; a boundary without one makes no step. -/
def lockNext (tb : Timebase) : Timebase :=
  match tb.pendingVerdict with
  | none => tb
  | some m =>
    let tb := { tb with pendingVerdict := none }
    match tb.lock with
    | .acquire => stepAcquire tb m
    | .locked => stepLocked tb m
    | .holdover => stepHoldover tb m
    | .free => stepFree tb m

/-- R34: the lock machine returns to its start at a halt. -/
def lockReset (tb : Timebase) : Timebase :=
  { tb with
    lock := .acquire, pace := nominalPace tb.nom60, steady := 0, hold := 0, crossings := [], pendingVerdict := none }

/-- R44: the lock state moves into or out of LOCKED. -/
def lockMoves (a b : LockState) : Bool := (a = .locked) != (b = .locked)

/-- R32, R34, R44: the lock step of a boundary, or the return to ACQUIRE at a halt, with its LOCK request; the lock
state it leaves is the one the window that begins carries (R31). -/
def lockStep (s : State) : State :=
  let tb := if s.halting then lockReset s.tb else lockNext s.tb
  requestIf (lockMoves s.tb.lock tb.lock) .lock { s with tb := { tb with winLocked := tb.lock = .locked } }

/-- R40: the step that the boundary in hand takes enters LOCKED from ACQUIRE. -/
def lockAcquires (s : State) : Bool :=
  !s.halting && s.tb.lock = .acquire && (lockNext s.tb).lock = .locked

/-- R42: the step that the boundary in hand takes expires HOLDOVER. -/
def holdoverExpires (s : State) : Bool :=
  !s.halting && s.tb.lock = .holdover && (lockNext s.tb).lock = .free

end Sys2Proof.Machine
end

