-- ==== Sys2Proof/Machine/SpectralOps.lean ====
section
/-! DEFINITION. The spectral unit (ch. 3): bin phasors, group and band RMS, powers, order values and ratios, and the window
results of the metering points and of the aggregate point. Every figure is an exact integer.

How a phasor part is exact (R51, log 18). With q = N/16, the real part is X/q, X the sum of s_n (cos θ₁ + cos θ₂) over
N-th parts of a turn, since √2 cos θ = cos (θ + π/4) + cos (θ - π/4). X is computed in fixed point from a table of
cosines whose every entry is off by at most 2^24 units, so X is off by at most 2^52 units. Where the rounding could
depend on that error, X is computed again with 16,384 fraction bits. 2X - mq, for an odd integer m, is an algebraic
integer of degree at most 512 whose conjugates are below 2^30, so it is 0 or at least 2^-15,330: what 16,384 bits cannot
tell from a tie is a tie. -/

namespace Sys2Proof.Machine

/-! ## Cosines in fixed point -/

/-- cos (θ/2) from cos θ, both times 2^p. -/
def halfAngle (p : Nat) (c : Int) : Int := (isqrt (((2 ^ p : Nat) + c).toNat * 2 ^ p / 2) : Nat)

/-- Apply a function `n` times. -/
def iterate (f : Int → Int) : Nat → Int → Int
  | 0, x => x
  | n + 1, x => iterate f n (f x)

/-- cos (2π/N) times 2^p: N is 5 × 2^9 (from cos (2π/5) = (√5 - 1)/4) or 3 × 2^10 (from cos (2π/3) = -1/2). -/
def cosFirst (nom60 : Bool) (p : Nat) : Int :=
  if nom60 then iterate (halfAngle p) 10 (-((2 ^ p / 2 : Nat) : Int))
  else iterate (halfAngle p) 9 (((isqrt (5 * 4 ^ p) : Nat) - (2 ^ p : Nat) : Int) / 4)

/-- The cosines of `n` further N-th parts of a turn, by rotation from (c, s) with the first angle (c1, s1). -/
def cosTurns (p : Nat) (c1 s1 : Int) : Nat → Int → Int → List Int
  | 0, _, _ => []
  | n + 1, c, s => c :: cosTurns p c1 s1 n ((c * c1 - s * s1) / (2 ^ p : Nat)) ((s * c1 + c * s1) / (2 ^ p : Nat))

/-- cos (2πj/N) times 2^p for j from 0 to N - 1. -/
def cosTable (nom60 : Bool) (p : Nat) : Array Int :=
  let c1 := cosFirst nom60 p
  let s1 : Int := (isqrt ((4 ^ p : Nat) - c1 * c1).toNat : Nat)
  (cosTurns p c1 s1 (windowLen nom60) (2 ^ p : Nat) 0).toArray

/-- The sum over n of s_n (table[kn + a] + table[kn + b]), indices modulo N. -/
def turnSum (table : Array Int) (n k a b : Nat) : Nat → List Int → Int
  | _, [] => 0
  | j, s :: rest =>
    s * (table.getD ((k * j + a) % n) 0 + table.getD ((k * j + b) % n) 0) + turnSum table n k a b (j + 1) rest

/-! ## Bin phasors (R51) -/

/-- The bound, in units of the fixed point, on what separates a computed sum from the exact one, with room. -/
def sumSlack : Nat := 2 ^ 54

def coarseBits : Nat := 128
def fineBits : Nat := 16384

/-- The rounding of |x| / (q 2^p) could depend on the error of x. -/
def roundingUnclear (q p : Nat) (x : Int) : Bool :=
  let d := 2 * q * 2 ^ p
  let r := (2 * x.natAbs + q * 2 ^ p) % d
  r < sumSlack || d ≤ r + sumSlack

/-- x / (q 2^p) rounded half away from zero, a value within the slack below a half counting as the half. -/
def roundFixed (q p : Nat) (x : Int) : Int :=
  let t := (2 * x.natAbs + q * 2 ^ p + sumSlack) / (2 * q * 2 ^ p)
  if x < 0 then -(t : Int) else t

/-- R51: saturation of a phasor part. -/
def saturatePart (v : Int) : Int := clampInt (-524287) 524287 v

/-- One part of a phasor, from the sum by the two tables. -/
def phasorPart (nom60 : Bool) (coarse fine : Array Int) (k a b : Nat) (samples : List Int) : Int :=
  let n := windowLen nom60
  let q := n / 16
  let x := turnSum coarse n k a b 0 samples
  if roundingUnclear q coarseBits x then saturatePart (roundFixed q fineBits (turnSum fine n k a b 0 samples))
  else saturatePart (roundFixed q coarseBits x)

/-- R51: the phasor X_k of a channel's corrected samples: √2 cos θ and -√2 sin θ are each a sum of two cosines. -/
def phasor (nom60 : Bool) (coarse fine : Array Int) (samples : List Int) (k : Nat) : Int × Int :=
  let n := windowLen nom60
  (phasorPart nom60 coarse fine k (n / 8) (7 * n / 8) samples,
   -(phasorPart nom60 coarse fine k (7 * n / 8) (5 * n / 8) samples))

/-- The phasors of a channel, k = 0 to N/2. -/
def phasors (nom60 : Bool) (samples : List Int) : List (Int × Int) :=
  let coarse := cosTable nom60 coarseBits
  let fine := cosTable nom60 fineBits
  (List.range (windowLen nom60 / 2 + 1)).map (phasor nom60 coarse fine samples)

/-- |X_k|² (R51). -/
def squared (x : Int × Int) : Nat := (x.1 * x.1 + x.2 * x.2).toNat

/-! ## RMS (R52 to R54) -/

/-- The sum of |X_k|² over bins lo to hi. -/
def bandSum (spec : List (Int × Int)) (lo hi : Nat) : Nat :=
  (((spec.drop lo).take (hi + 1 - lo)).map squared).sum

/-- R52: the window total RMS. -/
def totalRms (nom60 : Bool) (spec : List (Int × Int)) : Nat := isqrt (bandSum spec 1 (windowLen nom60 / 2))

/-- R53: S2_h. -/
def groupSum (nom60 : Bool) (spec : List (Int × Int)) (h : Nat) : Nat :=
  let c := cycles nom60
  let lo := h * c - c / 2
  let hi := h * c + c / 2
  2 * bandSum spec (lo + 1) (hi - 1) + squared (spec.getD lo (0, 0)) + squared (spec.getD hi (0, 0))

/-- R53: the group RMS G_h. -/
def groupRms (nom60 : Bool) (spec : List (Int × Int)) (h : Nat) : Nat := isqrt (groupSum nom60 spec h / 2)

/-- The harmonic orders, 1 to 50. -/
def orderNumbers : List Nat := (List.range 50).map (· + 1)

/-- The group RMS of orders 1 to 50. -/
def groupList (nom60 : Bool) (spec : List (Int × Int)) : List Nat := orderNumbers.map (groupRms nom60 spec)

/-- R54: the band RMS of a channel. -/
def bandRms (spec : List (Int × Int)) (lo hi : Nat) : Nat := isqrt (bandSum spec lo hi)

/-- R54: the band value of a monitor, from the spectra of its source point's seven channels. -/
def bandValue (specs : List (List (Int × Int))) (m : MonSettings) : Nat :=
  let first := if m.kind = 1 then 0 else 3
  let rms := fun pos => bandRms (specs.getD pos []) m.lo m.hi
  if m.phase = 4 then (if m.kind = 1 then 0 else rms 6)
  else if m.phase = 5 then max (rms first) (max (rms (first + 1)) (rms (first + 2)))
  else rms (first + m.phase - 1)

/-- R121: a monitor is in force as enabled: its enable is set and its low bin is not above its high bin. -/
def MonSettings.inForce (m : MonSettings) : Bool := m.enable = 1 && m.lo ≤ m.hi

/-! ## Power (R55 to R57) -/

/-- R55: the active power of a bin at one phase. -/
def activePower (v i : Int × Int) : Int := v.1 * i.1 + v.2 * i.2

/-- R55: the reactive power of a bin at one phase. -/
def reactivePower (v i : Int × Int) : Int := v.2 * i.1 - v.1 * i.2

/-- The sum over the three phases of a power at bin k (R56). -/
def threePhase (power : Int × Int → Int × Int → Int) (specs : List (List (Int × Int))) (k : Nat) : Int :=
  ((List.range 3).map (fun p =>
    power ((specs.getD p []).getD k (0, 0)) ((specs.getD (p + 3) []).getD k (0, 0)))).sum

/-- R54: the band power of a monitor. -/
def bandPower (specs : List (List (Int × Int))) (lo hi : Nat) : Int :=
  ((List.range (hi + 1 - lo)).map (fun j => threePhase activePower specs (lo + j))).sum

/-- R57: the weighted powers of orders 1 to 50. -/
def weightedPowers (nom60 : Bool) (power : Int × Int → Int × Int → Int) (specs : List (List (Int × Int)))
    (weight : Nat) : List Int :=
  orderNumbers.map (fun h => threePhase power specs (h * cycles nom60) * weight)

/-! ## Order values and ratios (R60 to R62) -/

/-- R60: v_h for orders 1 to 50. -/
def orderValues (groups : List (List Nat)) : List Nat :=
  (List.range 50).map (fun j => (groups.map (fun g => g.getD j 0)).foldl max 0)

/-- The sum of the squares of orders 2 to 50. -/
def harmonicSquares (g : List Nat) : Nat := ((g.drop 1).map (fun x => x * x)).sum

/-- R61: the THD of one phase. -/
def phaseThd (g : List Nat) : Nat :=
  if g.getD 0 0 < 16 then 65535 else min 65534 (isqrt (1000000 * harmonicSquares g) / g.getD 0 0)

/-- R61: the window THD: the largest phase THD below 65,535, or 65,535 where there is none. -/
def windowThd (groups : List (List Nat)) : Nat :=
  let defined := (groups.map phaseThd).filter (fun t => t < 65535)
  if defined = [] then 65535 else defined.foldl max 0

/-- R62: the TDD. -/
def tddOf (values : List Nat) (contracted : Nat) : Nat :=
  min 65534 (isqrt (1000000 * harmonicSquares values) / contracted)

/-! ## Window results (R58, R59, R63, R64) -/

/-- The corrected samples of a position, oldest first. -/
def samplesOf (w : PointWindow) (pos : Nat) : List Int := w.slots.reverse.map (fun sl => (sl.ch.getD pos {}).val)

/-- The spectra of a point's seven channels. -/
def pointSpectra (nom60 : Bool) (w : PointWindow) : List (List (Int × Int)) :=
  (List.range 7).map (fun pos => phasors nom60 (samplesOf w pos))

/-- R54: the band values that a point's result carries. -/
def pointBands (cap : Captured) (point : Nat) (specs : List (List (Int × Int))) : List BandValue :=
  allMonitors.filterMap (fun m =>
    let st := cap.mons.getD m.val {}
    if st.inForce && st.source = point then
      some { mon := m, value := bandValue specs st
             power := if st.emission = 1 then some (bandPower specs st.lo st.hi) else none }
    else none)

/-- R63: the window result of a metering point. -/
def pointResult (nom60 : Bool) (d : DecompWindow) (w : PointWindow) (specs : List (List (Int × Int))) : WinResult :=
  let groupV := (List.range 3).map (fun p => groupList nom60 (specs.getD p []))
  let groupI := (List.range 3).map (fun p => groupList nom60 (specs.getD (p + 3) []))
  let values := orderValues groupI
  let cfg := d.cap.cfg.point w.point
  { point := w.point, record := d.record, generation := d.cap.cfg.generation, cls := w.cls
    subst := w.subst, stuck := w.stuck, mark := w.mark
    p3 := weightedPowers nom60 activePower specs cfg.weight
    q3 := weightedPowers nom60 reactivePower specs cfg.weight
    groupI, groupV, orderVals := values
    thdI := windowThd groupI, thdV := windowThd groupV, tdd := tddOf values cfg.contracted
    bands := pointBands d.cap w.point specs }

/-- R58: the class of the aggregate window, from its members' classes. -/
def aggregateClass (classes : List WinClass) : WinClass :=
  if classes.all (· = .clean) then .clean
  else if classes.all (· = .missing) then .missing
  else .flagged

/-- R58: the aggregate window is partial. -/
def aggregatePartial (classes : List WinClass) : Bool :=
  classes.any (· = .missing) && classes.any (· ≠ .missing)

/-- R59: the sum, order by order, of the members' weighted powers. -/
def sumOrders (lists : List (List Int)) : List Int :=
  (List.range 50).map (fun j => (lists.map (fun l => l.getD j 0)).sum)

/-- R58, R59, R64: the window result of the aggregate point, where the configuration names members. -/
def aggregateResult (d : DecompWindow) (results : List WinResult) : Option WinResult :=
  let members := results.filter (fun r => d.cap.cfg.memberMask.testBit r.point)
  if members = [] then none
  else
    let classes := members.map (fun r => r.cls)
    let present := members.filter (fun r => r.cls ≠ .missing)
    some { point := 4, record := d.record, generation := d.cap.cfg.generation
           cls := aggregateClass classes, partialFlag := aggregatePartial classes
           p3 := sumOrders (present.map (fun r => r.p3)), q3 := sumOrders (present.map (fun r => r.q3)) }

/-- The points that a window's results, or its discard notices, cover (R47, R50). -/
def coveredPoints (d : DecompWindow) : List Nat :=
  d.points.map (fun w => w.point) ++
    (if d.points.any (fun w => d.cap.cfg.memberMask.testBit w.point) then [4] else [])

end Sys2Proof.Machine
end

