-- ==== Sys2Proof/Machine/AccountingOps.lean ====
section
/-! DEFINITION. The accounting unit (ch. 4): classification of a window's powers, the register update, the opening counts and
the measured duration, close parts, interval demand and the demand table, and the snapshot image (11.7). -/

namespace Sys2Proof.Machine

/-! ## Classification (R69 to R71) -/

/-- R69: the register of point p, tariff slot t, quantity q. -/
def regIndex (p t q : Nat) : Nat := (p * 4 + t) * 9 + q

/-- R70: what the fundamental feeds, as (quantity, value). -/
def fundamentalFeeds (p1 q1 : Int) : List (Nat × Nat) :=
  let importing := 0 ≤ p1
  let active := if importing then (0, p1.toNat) else (1, (-p1).toNat)
  let reactive :=
    if 0 < q1 then [(if importing then 2 else 3, q1.toNat)]
    else if q1 < 0 then [(if importing then 5 else 4, (-q1).toNat)]
    else []
  active :: reactive

/-- R71: HP+, HP- and HQ, from the powers of orders 2 to 50. -/
def harmonicFeeds (p3 q3 : List Int) : List (Nat × Nat) :=
  [(6, (p3.map Int.toNat).sum), (7, (p3.map (fun p => (-p).toNat)).sum), (8, (q3.map Int.natAbs).sum)]

/-- R70, R71: every quantity that a window result feeds, with its value. -/
def feeds (r : WinResult) : List (Nat × Nat) :=
  fundamentalFeeds (r.p3.getD 0 0) (r.q3.getD 0 0) ++ harmonicFeeds (r.p3.drop 1) (r.q3.drop 1)

/-! ## The register update (R72 to R74) -/

/-- R74: a contribution of `e` reu at divisor `d`. -/
def Reg.add (d e : Nat) (r : Reg) : Reg :=
  { count := r.count + BitVec.ofNat 64 ((r.residue + e) / d), residue := (r.residue + e) % d }

/-- R73, R74: one quantity of a result into its register. -/
def feedRegister (d point slot duration : Nat) (regs : List Reg) (f : Nat × Nat) : List Reg :=
  regs.modify (regIndex point slot f.1) (Reg.add d (f.2 * duration))

/-- R72: a result contributes when its class is CLEAN or FLAGGED. -/
def contributes (r : WinResult) : Bool := r.cls ≠ .missing

/-- R72: one result into the registers. -/
def takeEnergy (d : Nat) (regs : List Reg) (r : WinResult) : List Reg :=
  if contributes r then (feeds r).foldl (feedRegister d r.point r.record.slot r.record.duration) regs else regs

/-- The divisor D (R75). While it is unfixed no register is updated: measurement cannot run. -/
def State.divisor (s : State) : Nat := s.store.divisor.getD 1

/-- R72, R77: the accounting unit takes the results of a window, which becomes the most recent one that an image includes
(R85). A window known by discard notices alone does not come here (log 46). -/
def acctTakeWindow (d : DecompWindow) (results : List WinResult) (s : State) : State :=
  { s with acct := { s.acct with
      regs := results.foldl (takeEnergy s.divisor) s.acct.regs
      measured := s.acct.measured + d.record.duration
      lastSeq := d.record.seq
      lastEnd := d.record.endTime } }

/-! ## Opening (R76, R87) -/

/-- R76, R77: an interval opens at the accounting unit. -/
def acctOpen (a : Accounting) : Accounting :=
  { a with opening := a.regs.map (fun r => r.count), measured := 0, openDue := false }

/-- R76: the first interval of a run opens here at the first boundary, or once the close before it has finished. -/
def acctStart (a : Accounting) : Accounting := if a.closes = [] then acctOpen a else { a with openDue := true }

/-! ## Close parts and demand (R79 to R83) -/

/-- R76: the energy delta of a register. -/
def delta (a : Accounting) (r : Nat) : Word64 := (a.regs.getD r {}).count - a.opening.getD r 0

/-- R77: the interval's duration in milliseconds. -/
def durationMs (a : Accounting) : Nat := a.measured / 2560000

/-- R80: an interval demand. -/
def intervalDemand (delta : Word64) (ms : Nat) : Nat :=
  if ms = 0 then 0 else min (delta.toNat * 3600000 / ms) (2 ^ 64 - 1)

/-- R81: the demand of an interval is excluded. -/
def demandExcluded (ms lengthMs : Nat) : Bool := ms = 0 || ms * 2 < lengthMs

/-- R79: the close part of one point. -/
def acctPart (a : Accounting) (c : Close) (p : Nat) : AcctPart :=
  { point := p
    deltas := (List.range 36).map (fun i => delta a (p * 36 + i))
    cumulative := (List.range 9).map (fun q => (a.regs.getD (regIndex p c.slot q) {}).count)
    demandQI := intervalDemand (delta a (regIndex p c.slot 2)) (durationMs a)
    demandA := intervalDemand (delta a (regIndex p c.slot 0)) (durationMs a)
    excluded := demandExcluded (durationMs a) c.lengthMs }

/-- R82: the demand entry of point p, tariff slot t and quantity d (QI 0, A+ 1). -/
def demandIndex (p t d : Nat) : Nat := (p * 4 + t) * 2 + d

/-- R82: an entry takes a demand that is strictly greater. -/
def DemandEntry.raise (demand : Nat) (seq : Word64) (e : DemandEntry) : DemandEntry :=
  if e.max < demand then { max := demand, seq := seq } else e

/-- R82: the demand table after the parts of a close. -/
def raiseDemand (c : Close) (table : List DemandEntry) (p : AcctPart) : List DemandEntry :=
  if p.excluded then table
  else
    (table.modify (demandIndex p.point c.slot 0) (DemandEntry.raise p.demandQI c.seq)).modify
      (demandIndex p.point c.slot 1) (DemandEntry.raise p.demandA c.seq)

/-- R83: the demand-close part of one point. -/
def demandPart (table : List DemandEntry) (p : Nat) : DemandPart :=
  { point := p, entries := (List.range 8).map (fun i => table.getD (p * 8 + i) {}) }

/-- A cause is in a cause set. -/
def hasCause (c : Cause) (cs : CauseSet) : Bool := cs.getLsbD c.bit

/-- The close ends its run: no interval opens after it (R97, R98). -/
def endsRun (c : Close) : Bool := hasCause .halt c.causes || hasCause .reset c.causes

/-- The points of a close's file. -/
def Close.points (c : Close) : List Nat := filePoints c.enabledMask c.memberMask

/-- What the accounting unit makes of a close it finishes: its parts, the demand-close parts, and what it holds
afterwards (R78 to R83, R76, R87). -/
def acctFinish (a : Accounting) (c : Close) : (List AcctPart × List DemandPart) × Accounting :=
  let parts := c.points.map (acctPart a c)
  let table := parts.foldl (raiseDemand c) a.demand
  let reset := hasCause .demandReset c.causes
  let demandParts := if reset then c.points.map (demandPart table) else []
  let a := { a with
    demand := if reset then List.replicate 40 ({} : DemandEntry) else table
    closes := a.closes.drop 1 }
  ((parts, demandParts), if endsRun c && !a.openDue then a else acctOpen a)

/-! ## The snapshot image (R85, 11.7) -/

/-- The 64-byte image header, but for the figures of the most recent window (bytes 32 to 47), fixed at the taking
event. The divisor field is 0 while D is unfixed, and the generation field while no configuration is active
(log 34). -/
def snapshotHead (s : State) (time : Nat) : List Byte :=
  leBytes 4 s.store.factory.epoch.toNat
    ++ leBytes 4 (match s.store.active with | some c => c.generation.toNat | none => 0)
    ++ leBytes 8 time ++ leBytes 8 (s.store.divisor.getD 0) ++ leBytes 8 s.ic.seq.toNat

/-- R85: the image of the registers and the demand table as they stand. -/
def snapshotImage (a : Accounting) (head : List Byte) : List Byte :=
  head ++ leBytes 8 a.lastSeq.toNat ++ leBytes 8 a.lastEnd ++ zeros 16
    ++ (a.regs.map (fun r => leBytes 8 r.count.toNat ++ leBytes 8 r.residue)).flatten
    ++ (a.demand.map (fun e => leBytes 8 e.max ++ leBytes 8 e.seq.toNat)).flatten

end Sys2Proof.Machine
end

