-- ==== Sys2Proof/Machine/IntervalOps.lean ====
section
/-! DEFINITION. The interval controller (5.1 to 5.6, 5.8): tariff evaluation, close causes, the close and the opening of
intervals, and demand resets. -/

namespace Sys2Proof.Machine

/-! ## Interval figures (R89, R92, R93) -/

/-- R89: the least multiple of the length greater than a time. -/
def nextAlignedAfter (lengthMs t : Nat) : Nat := (t / lengthMs + 1) * lengthMs

/-- R93: an interval that opens at a first boundary or a TIME_STEP close is partial under SYNC, or off the grid of
aligned instants under CLOCK. -/
def opensPartial (afterStep closeSync : Bool) (lengthMs start : Nat) : Bool :=
  afterStep && (closeSync || start % lengthMs ≠ 0)

/-- R89: milliseconds since the opening boundary, by the reference oscillator. -/
def elapsedMs (o : OpenInterval) (tick : Nat) : Nat := (tick - o.openTick) / 10000

/-! ## Tariff evaluation (R100 to R104) -/

/-- The number of tariff slots: of the active configuration, 1 where there is none (R103). -/
def tariffSlots (st : ConfigStore) : Nat := match st.active with | some c => c.slots | none => 1

/-- The tariff source is SYNC; without a configuration the manual names no source (log 16). -/
def tariffSync (st : ConfigStore) : Bool :=
  match st.active with
  | some c => c.tariffSource = 1
  | none => Config.unconfiguredTariffIsSync

/-- R101: the instances of the calendar in force, as (day, minute, slot). -/
def calendarInstances (st : ConfigStore) : List (Nat × Nat × Nat) :=
  match st.active with
  | none => []
  | some c =>
    (c.calendar.take c.calendarCount).flatMap (fun e =>
      (List.range 7).filterMap (fun d => if e.dayMask.testBit d then some (d, e.minute, e.slot) else none))

/-- The minute of the week of an instance. -/
def weekMinute (day minute : Nat) : Nat := day * 1440 + minute

/-- The instance latest in the week among a list. -/
def latestInstance (l : List (Nat × Nat × Nat)) : Option (Nat × Nat × Nat) :=
  l.foldl (fun best i =>
    match best with
    | none => some i
    | some b => if weekMinute b.1 b.2.1 < weekMinute i.1 i.2.1 then some i else some b) none

/-- R101: the governing instance at a day and minute: the latest at or before it in the week, else the last of the
week. -/
def governingInstance (st : ConfigStore) (day minute : Nat) : Option (Nat × Nat × Nat) :=
  let l := calendarInstances st
  match latestInstance (l.filter (fun i => weekMinute i.1 i.2.1 ≤ weekMinute day minute)) with
  | some i => some i
  | none => latestInstance l

/-- What a tariff evaluation finds: the slot, the force that still holds, and the governing switch point. -/
structure TariffView where
  slot : Nat
  forced : Option Nat
  governing : Option (Nat × Nat)
  deriving DecidableEq, Repr

/-- R100: the tariff evaluation at an event whose standing time value is `t`. `setHere`: a TARIFF_SET was taken at the
event, so a switch point passing there does not release the force (R103, R104). -/
def evaluateTariff (st : ConfigStore) (ic : IntervalControl) (dowOffset t : Nat) (setHere : Bool) : TariffView :=
  if tariffSync st then
    { slot := ic.forced.getD ic.stepped, forced := ic.forced, governing := none }
  else
    let inst := governingInstance st (dayOfWeek dowOffset t) (minuteOfDay t)
    let governing := inst.map (fun i => (i.1, i.2.1))
    let forced := if !setHere && governing ≠ ic.governing then none else ic.forced
    { slot := forced.getD (match inst with | some i => i.2.2 | none => 0), forced := forced, governing := governing }

/-- The evaluation at the event in hand. -/
def tariffView (s : State) : TariffView :=
  match s.event with
  | some ev => evaluateTariff s.store s.ic s.tb.dowOffset ev.tNew ev.tariffSet.isSome
  | none => evaluateTariff s.store s.ic s.tb.dowOffset s.tb.timeValue false

/-- The evaluation stands: the active slot, the force and the governing switch point follow it. -/
def commitTariff (s : State) : State :=
  let v := tariffView s
  { s with ic := { s.ic with activeSlot := v.slot, forced := v.forced, governing := v.governing } }

/-- R102: a TARIFF_STEP in SYNC source: the stepped slot advances, from the forced slot where one holds, and the force
ends. In CALENDAR source it is counted as ignored. -/
def takeTariffStep (s : State) : State :=
  if tariffSync s.store then
    { s with ic := { s.ic with
        stepped := ((s.ic.forced.getD s.ic.stepped) + 1) % tariffSlots s.store, forced := none } }
  else { s with ic := { s.ic with ignoredSteps := s.ic.ignoredSteps + 1 } }

/-- R103: a valid TARIFF_SET: a slot forces and, in SYNC source, becomes the stepped slot; AUTO clears the force. -/
def setTariff (slot : Option Nat) (s : State) : State :=
  let stepped := match slot with
    | some n => if tariffSync s.store then n else s.ic.stepped
    | none => s.ic.stepped
  modEvent (fun ev => { ev with tariffSet := some slot })
    { s with ic := { s.ic with forced := slot, stepped := stepped } }

/-- R102, R104: what an activation does to the force and the stepped slot: a TARIFF_SET of the same event stands over it
unless its slot is out of range; otherwise the force is released. The new configuration is already active in `s`. The
active slot is that from before the event, for a second activation at one free tick too (R185, log 31). -/
def activateTariff (s : State) : State :=
  let n := tariffSlots s.store
  let setHere := match s.event with | some ev => ev.tariffSet | none => none
  let kept := match setHere with
    | some (some slot) => if slot < n then some slot else none
    | _ => none
  let start := if s.ic.activeSlot < n then s.ic.activeSlot else 0
  let stepped := if tariffSync s.store then kept.getD start else s.ic.stepped
  { s with ic := { s.ic with forced := kept, stepped := stepped } }

/-! ## Close causes (R92 to R99, R108) -/

/-- A cause joins the close of the event in hand. -/
def addCause (c : Cause) (s : State) : State := modEvent (fun ev => { ev with causes := ev.causes ||| c.set }) s

/-- The event in hand can close an interval (R91), with the interval. -/
def closable (s : State) : Option (Event × OpenInterval) :=
  match s.event, s.ic.current with
  | some ev, some o => if ev.kind = .boundary then some (ev, o) else none
  | _, _ => none

/-- R92: the cause CLOCK arises. -/
def clockArises (s : State) : Bool :=
  match closable s with
  | some (ev, o) => !o.closeSync && o.nextAligned ≤ ev.tOld
  | none => false

/-- R95: the cause SYNC_TIMEOUT arises: 110 % of the length has elapsed and no INTERVAL_END is taken here. -/
def timeoutArises (s : State) : Bool :=
  match closable s with
  | some (ev, o) => o.closeSync && !ev.intervalEnd && o.lengthMs * 11 / 10 ≤ elapsedMs o ev.tick
  | none => false

/-- R99: the cause TIME_STEP arises: a SET_TIME went backward or into another aligned interval, or the time value has
wrapped since the last boundary. -/
def timeStepArises (s : State) : Bool :=
  match closable s with
  | some (ev, o) =>
    ev.tNew < ev.tOld || ev.tNew / o.lengthMs ≠ ev.tOld / o.lengthMs
      || (match s.ic.lastTime with | some t => ev.tOld < t | none => false)
  | none => false

/-- R108: a pending demand reset is applied at the event in hand. -/
def demandApplies (s : State) : Bool :=
  match closable s with
  | some (ev, _) => ev.demand && !ev.unfiled
  | none => false

/-- R94: a pending INTERVAL_END is taken: the cause SYNC at a boundary that can close in SYNC source, else it is counted
as unexpected, and the open interval's flag is set at such a boundary. -/
def takeIntervalEnd (s : State) : State :=
  match closable s with
  | some (_, o) =>
    if o.closeSync then addCause .sync s
    else { s with ic := { s.ic with
        unexpectedEnds := s.ic.unexpectedEnds + 1, current := some { o with unexpected := true } } }
  | none => { s with ic := { s.ic with unexpectedEnds := s.ic.unexpectedEnds + 1 } }

/-- R95: the SYNC_TIMEOUT close: the timeout flag, the counter and the SYNC request. -/
def takeTimeout (s : State) : State :=
  request .sync (addCause .syncTimeout { s with ic := { s.ic with
    timeouts := s.ic.timeouts + 1
    current := s.ic.current.map (fun o => { o with timeout := true }) } })

/-- A reset has arrived from the sync line since the event in hand fell. -/
def demandArrivedLate (s : State) : Bool := s.event.any (fun ev => ev.lateDemand)

/-- R108, R109: the demand reset is applied: DEMAND_RESET joins the close, the unfiled flag is set, and every order that
joined completes with the close's sequence number, in the order in which they joined (log 41). A reset that arrived
since the event fell stays pending (log 9). -/
def applyDemandReset (s : State) : State :=
  let done := s.ic.demandOrders
  let s := addCause .demandReset { s with ic := { s.ic with
    demandPending := demandArrivedLate s, unfiled := true, demandOrders := [] } }
  done.foldl (fun s e => completeOk e s.ic.seq (eventTime s) s) s

/-! ## Opening and closing (R89, R90, R96, R97) -/

/-- R89: an interval opens at the event in hand, under the configuration now active. -/
def openInterval (afterStep : Bool) (s : State) : State :=
  match s.event, s.store.active with
  | some ev, some c =>
    let closeSync := c.closeSource = 1
    { s with ic := { s.ic with
        seq := s.ic.seq + 1
        current := some {
          startTime := ev.tNew
          slot := s.ic.activeSlot
          partialMark := opensPartial afterStep closeSync c.lengthMs ev.tNew
          nextAligned := nextAlignedAfter c.lengthMs ev.tNew
          openTick := ev.tick
          generation := c.generation
          lengthMs := c.lengthMs
          closeSync := closeSync
          enabledMask := c.enabledMask
          memberMask := c.memberMask } } }
  | _, _ => s

/-- R90: the close of an open interval. -/
def closeOf (seq : Word64) (o : OpenInterval) (causes : CauseSet) (endTime : Nat) : Close :=
  { seq, slot := o.slot, causes, startTime := o.startTime, endTime, partialMark := o.partialMark
    unexpected := o.unexpected, malformed := o.malformed, timeout := o.timeout, generation := o.generation
    enabledMask := o.enabledMask, memberMask := o.memberMask, lengthMs := o.lengthMs }

/-- R90: a close is passed to the accounting, statistics and filing units; no interval is open after it, until one
opens. -/
def passClose (causes : CauseSet) (endTime : Nat) (s : State) : State :=
  match s.ic.current with
  | none => s
  | some o =>
    let c := closeOf s.ic.seq o causes endTime
    { s with
      ic := { s.ic with current := none }
      acct := { s.acct with closes := s.acct.closes ++ [c] }
      stats := { s.stats with closes := s.stats.closes ++ [c] }
      filing := { s.filing with assemblies := s.filing.assemblies ++ [{ close := c }] } }

/-- R96, R97, R99, R100: the causes of the event in hand once every source has been heard: TIME_STEP and HALT join; where
no other cause arises, a slot that differs makes TARIFF by itself. -/
def decidedCauses (s : State) : CauseSet :=
  match closable s with
  | none => 0
  | some (ev, o) =>
    let cs := ev.causes ||| (if timeStepArises s then Cause.timeStep.set else 0)
      ||| (if ev.halting then Cause.halt.set else 0)
    if cs ≠ 0 then cs
    else if (tariffView s).slot ≠ o.slot then Cause.tariff.set
    else 0

/-- R90, R96: the close decision. A close with a configuration pending activates it first, and CONFIG joins. Without a
close the tariff evaluation stands. -/
def decideClose (s : State) : State :=
  let cs := decidedCauses s
  if cs = 0 then pushDue [.settleTariff] s
  else
    match s.store.pend with
    | some (cfg, e) =>
      pushDue [.activate cfg e, .close] (modEvent (fun ev => { ev with causes := cs ||| Cause.config.set }) s)
    | none => pushDue [.close] (modEvent (fun ev => { ev with causes := cs }) s)

/-- R90, R97, R100: the close takes place: the slot is evaluated under the configuration now in force, TARIFF joins
where the slot of the next window differs and a window begins, and the next interval opens unless measurement halts. -/
def closeEvent (s : State) : State :=
  match s.event, s.ic.current with
  | some ev, some o =>
    let s := commitTariff s
    let cs := if !ev.halting && s.ic.activeSlot ≠ o.slot then ev.causes ||| Cause.tariff.set else ev.causes
    let s := passClose cs ev.tOld s
    if ev.halting then s else openInterval (hasCause .timeStep cs) s
  | _, _ => s

/-- R91, R100: an event without a close: the evaluation stands; at the first boundary of a run the first interval
opens. -/
def settleTariff (s : State) : State :=
  let s := commitTariff s
  match s.event with
  | some ev => if ev.kind = .first then openInterval true s else s
  | none => s

end Sys2Proof.Machine
end

