-- ==== Sys2Proof/Machine/StatisticsOps.lean ====
section
/-! DEFINITION. The statistics unit (ch. 6): the interval accumulators, the limit test, the means and the order list, and
the band monitors with their events. -/

namespace Sys2Proof.Machine

/-! ## Opening the accumulators (R112) -/

/-- R112: the accumulators of an interval open, empty, with the report floor captured. -/
def emptyAcc (floor p : Nat) : Acc := { point := p, floor := floor }

/-- R112: an interval opens at the statistics unit under the active configuration. -/
def statOpen (s : State) : State :=
  match s.store.active with
  | some c => { s with stats := { s.stats with
      accs := (filePoints c.enabledMask c.memberMask).map (emptyAcc c.reportFloor)
      limits := c.limits
      openDue := false } }
  | none => s

/-- R112: the first interval of a run opens here at the first boundary, or once the close before it has finished. -/
def statStart (s : State) : State :=
  if s.stats.closes = [] then statOpen s else { s with stats := { s.stats with openDue := true } }

/-- The accumulators of a point, where it has any. -/
def State.acc (s : State) (p : Nat) : Option Acc := s.stats.accs.find? (fun a => a.point = p)

/-- Change the accumulators of a point; nothing where it has none. -/
def modAcc (p : Nat) (f : Acc → Acc) (s : State) : State :=
  { s with stats := { s.stats with accs := s.stats.accs.map (fun a => if a.point = p then f a else a) } }

/-! ## Window counts and accumulators (R113 to R116) -/

def orBools (a b : List Bool) : List Bool := List.zipWith (fun x y => x || y) a b

/-- R113: the counts of a window result. -/
def countWindow (r : WinResult) (a : Acc) : Acc :=
  { a with
    total := a.total + 1
    clean := a.clean + (if r.cls = .clean then 1 else 0)
    flagged := a.flagged + (if r.cls = .flagged then 1 else 0)
    missing := a.missing + (if r.cls = .missing then 1 else 0)
    partials := a.partials + (if r.partialFlag then 1 else 0)
    unlocked := a.unlocked + (if r.record.locked then 0 else 1)
    subst := a.subst + r.subst
    stuck := orBools a.stuck r.stuck
    offsetUpdates := a.offsetUpdates + (if r.mark then 1 else 0)
    minFreq := if a.total = 0 then r.record.freq else min a.minFreq r.record.freq
    maxFreq := if a.total = 0 then r.record.freq else max a.maxFreq r.record.freq }

/-- R114, R116: a window result is included. -/
def included (r : WinResult) : Bool := r.cls = .clean && r.record.locked

/-- R115: the limit test fails. -/
def limitFails (limit v contracted : Nat) : Bool := 0 < limit && limit * contracted < v * 10000

/-- R114: one order of an included window of a metering point. -/
def addOrder (limit contracted v : Nat) (p3 : Int) (o : OrderAcc) : OrderAcc :=
  { sum := o.sum + v
    max := max o.max v
    exceed := o.exceed + (if limitFails limit v contracted then 1 else 0)
    emission := o.emission + (if p3 < 0 then 1 else 0) }

/-- R114: an included window of a metering point; `j` runs over orders 2 to 50. -/
def includeWindow (limits : List Nat) (contracted : Nat) (r : WinResult) (a : Acc) : Acc :=
  { a with
    included := a.included + 1
    orders := a.orders.mapIdx (fun j o =>
      addOrder (limits.getD j 0) contracted (r.orderVals.getD (j + 1) 0) (r.p3.getD (j + 1) 0) o)
    fundSum := a.fundSum + r.orderVals.getD 0 0
    thdISum := if r.thdI < 65535 then a.thdISum + r.thdI else a.thdISum
    thdICount := if r.thdI < 65535 then a.thdICount + 1 else a.thdICount
    thdVSum := if r.thdV < 65535 then a.thdVSum + r.thdV else a.thdVSum
    thdVCount := if r.thdV < 65535 then a.thdVCount + 1 else a.thdVCount
    tddSum := a.tddSum + r.tdd }

/-- R116: an included window of the aggregate point. -/
def includeAggregate (r : WinResult) (a : Acc) : Acc :=
  { a with
    included := a.included + 1
    orders := a.orders.mapIdx (fun j o =>
      { o with emission := o.emission + (if r.p3.getD (j + 1) 0 < 0 then 1 else 0) }) }

/-- R113 to R116: one result into the accumulators of its point. -/
def takeResult (limits : List Nat) (cfg : Cfg) (r : WinResult) (a : Acc) : Acc :=
  let a := countWindow r a
  if !included r then a
  else if r.point = 4 then includeAggregate r a
  else includeWindow limits (cfg.point r.point).contracted r a

/-- R113: the statistics unit takes the results of a window. -/
def statTakeWindow (cfg : Cfg) (results : List WinResult) (s : State) : State :=
  results.foldl (fun s r => modAcc r.point (takeResult s.stats.limits cfg r) s) s

/-- R113: a discard notice for a point. -/
def takeDiscard (p : Nat) (s : State) : State := modAcc p (fun a => { a with discarded := a.discarded + 1 }) s

/-- R127: the position of the next window among the windows of the interval at a point. -/
def windowIndex (s : State) (p : Nat) : Nat :=
  match s.acc p with
  | some a => a.total + a.discarded
  | none => 0

/-! ## Means and the order list (R119, R120) -/

/-- A mean, or a stated value where its count is 0. -/
def meanOr (none sum count : Nat) : Nat := if count = 0 then none else sum / count

def orderMean (a : Acc) (o : OrderAcc) : Nat := meanOr 0 o.sum a.included

/-- R120: order h has an entry. -/
def listed (a : Acc) (o : OrderAcc) : Bool :=
  if a.point = 4 then 0 < o.emission
  else a.floor ≤ orderMean a o || 0 < o.exceed || 0 < o.emission

/-- R120: the selected orders, with their numbers, in ascending order. -/
def orderList (a : Acc) : List (Nat × OrderAcc) :=
  (a.orders.mapIdx (fun j o => (j + 2, o))).filter (fun e => listed a e.2)

/-! ## Band monitors (R121 to R129) -/

/-- R122: the release level. -/
def releaseLevel (m : MonSettings) : Nat := m.threshold * m.ratio / 100

/-- R122: a window of the source point that carries a band value is eligible. -/
def eligibleWindow (m : MonSettings) (r : WinResult) (b : BandValue) : Bool :=
  r.cls = .clean && r.record.locked &&
    (m.emission ≠ 1 || (match b.power with | some p => p < 0 | none => false))

/-- R127, R128: an event enters the event list of a point, or is counted as dropped; a point without accumulators has
no list (R126). -/
def enterEvent (p : Nat) (e : EventEntry) (s : State) : State :=
  modAcc p (fun a =>
    if a.events.length < 8 then { a with events := a.events ++ [e] } else { a with dropped := a.dropped + 1 }) s

/-- R128, R129: an event is made. -/
def makeEvent (p : Nat) (e : EventEntry) (s : State) : State := request .monitor (enterEvent p e s)

/-- R123: the eligible window that a monitor steps by makes it ACTIVE. -/
def turnsOn (k : Monitor) (value : Nat) (eligible : Bool) : Bool :=
  eligible && k.cur.threshold ≤ value &&
    (match k.state with
     | .quiet => k.cur.persistence ≤ 1
     | .rising => k.cur.persistence ≤ k.count + 1
     | _ => false)

/-- R123: one step of a monitor with a window result that carries a band value for it. -/
def monitorStep (m : Fin 4) (value : Nat) (eligible : Bool) (point index : Nat) (s : State) : State :=
  let k := s.monitor m
  if k.state = .off || !eligible then s
  else
    let k := { k with last := value }
    let high := k.cur.threshold ≤ value
    if turnsOn k value eligible then
      makeEvent point { mon := m, on := true, reconfigured := false, index, value }
        (s.setMonitor m { k with state := .active, count := k.cur.persistence })
    else
      match k.state with
      | .quiet => s.setMonitor m (if high then { k with state := .rising, count := 1 } else k)
      | .rising =>
        s.setMonitor m (if high then { k with count := k.count + 1 } else { k with state := .quiet, count := 0 })
      | .active =>
        if high || releaseLevel k.cur ≤ value then s.setMonitor m k
        else
          makeEvent point { mon := m, on := false, reconfigured := false, index, value }
            (s.setMonitor m { k with state := .quiet, count := 0 })
      | .off => s

/-- R125: a monitor under new settings, before any event. -/
def restarted (k : Monitor) (new : MonSettings) : Monitor :=
  { k with cur := new, restartDue := false, count := 0, state := if new.inForce then .quiet else .off }

/-- R125 to R127: the settings in force are applied at the statistics unit and the monitor restarts; one that was ACTIVE
records an OFF event with reason RECONFIGURED at its former source point. -/
def monitorRestart (m : Fin 4) (s : State) : State :=
  let k := s.monitor m
  let s' := s.setMonitor m (restarted k k.force)
  if k.state = .active then
    makeEvent k.cur.source
      { mon := m, on := false, reconfigured := true, index := windowIndex s k.cur.source - 1, value := k.last } s'
  else s'

/-- R121: the stored settings of a monitor that was written to come into force. -/
def settingsEffect (k : Monitor) : Monitor :=
  if k.dirty then { k with force := k.stored, dirty := false, restartDue := true } else k

/-- R121: some monitor's stored settings wait for their effect. -/
def settingsWait (s : State) : Bool := s.stats.monitors.any (fun k => k.dirty)

/-- The monitors that wait for their restart. R125 gives several restarts of one event no order: they come in increasing
monitor number (log 21). -/
def restartsDue (s : State) : List Due :=
  (allMonitors.filter (fun m => (s.monitor m).restartDue)).map (fun m => Due.monitorRestart m)

/-- R121, R125: the settings come into force at a boundary or free tick. Where no window is still to be taken, the
monitors restart at once; otherwise upon its results. -/
def monitorEffect (s : State) : State :=
  let s := { s with stats := { s.stats with monitors := s.stats.monitors.map settingsEffect } }
  if s.spectral.decomposing.isNone then pushDue (restartsDue s) s else s

/-! ## The close at the statistics unit (R117, R118, R131) -/

/-- R118: the statistics unit after it finishes a close: the accumulators of the next interval open, unless the run ends
with it. -/
def statAfterClose (c : Close) (s : State) : State :=
  let s' := { s with stats := { s.stats with accs := [], limits := [], closes := s.stats.closes.drop 1 } }
  if endsRun c && !s.stats.openDue then s' else statOpen s'

/-- R131: the restart of a monitor at a soft reset: the stored settings take effect, and no event is recorded. -/
def softRestart (k : Monitor) : Monitor :=
  { restarted { k with force := k.stored, dirty := false } k.stored with last := 0 }

/-- R131, R132: the statistics unit after the RESET close, or at a soft reset that finds no interval open. -/
def statReset (s : State) : State :=
  { s with stats := { s.stats with
      accs := [], limits := [], openDue := false, monitors := s.stats.monitors.map softRestart } }

end Sys2Proof.Machine
end

