-- ==== Sys2Proof/Machine/Pages.lean ====
section
/-! DEFINITION. The bytes of a record page (7.2, 11.6): interval records with their means and order lists, demand-close
records, and the page header. -/

namespace Sys2Proof.Machine

/-! ## Records (R213, R211) -/

/-- The flag byte of an interval record. -/
def recordFlags (r : IntervalRecord) : Nat :=
  maskOf [r.partialMark, r.excluded, r.unexpected, r.malformed, r.timeout]

/-- An order entry: order, mean (u24), maximum, exceed and emission counts (R211). -/
def orderEntryBytes (a : Acc) (e : Nat × OrderAcc) : List Byte :=
  leBytes 1 e.1 ++ leBytes 3 (if a.point = 4 then 0 else orderMean a e.2)
    ++ leBytes 4 (if a.point = 4 then 0 else e.2.max)
    ++ leSat 4 (if a.point = 4 then 0 else e.2.exceed) ++ leSat 4 e.2.emission

/-- An event entry. -/
def eventBytes (e : EventEntry) : List Byte :=
  leBytes 1 (e.mon.val + (if e.on then 4 else 0) + (if e.reconfigured then 8 else 0))
    ++ leBytes 3 e.index ++ leBytes 4 e.value

/-- The four means of a record (R119): 0 for the aggregate point. -/
def meanBytes (a : Acc) : List Byte :=
  if a.point = 4 then zeros 10
  else
    leBytes 4 (meanOr 0 a.fundSum a.included) ++ leBytes 2 (meanOr 65535 a.thdISum a.thdICount)
      ++ leBytes 2 (meanOr 65535 a.thdVSum a.thdVCount) ++ leBytes 2 (meanOr 0 a.tddSum a.included)

/-- R213: an interval record as it is written. -/
def recordBytes (r : IntervalRecord) : List Byte :=
  let a := r.stats
  let list := orderList a
  leBytes 1 1 ++ leBytes 1 r.point ++ leBytes 1 (recordFlags r)
    ++ leBytes 1 (r.tariffMask.toNat + 16 * r.tariffAtClose) ++ leBytes 2 r.causes.toNat
    ++ leBytes 1 list.length ++ leBytes 1 a.events.length
    ++ leBytes 8 r.firstSeq.toNat ++ leBytes 8 r.lastSeq.toNat ++ leBytes 6 r.startTime ++ leBytes 6 r.endTime
    ++ leBytes 4 r.genFirst.toNat ++ leBytes 4 r.genLast.toNat ++ leSat 4 r.merges
    ++ leSat 4 a.total ++ leSat 4 a.clean ++ leSat 4 a.flagged ++ leSat 4 a.missing ++ leSat 4 a.partials
    ++ leSat 4 a.unlocked ++ leSat 4 a.discarded ++ leSat 4 a.included
    ++ leSat 4 a.subst ++ leBytes 4 a.minFreq ++ leBytes 4 a.maxFreq ++ meanBytes a
    ++ leSat 2 a.offsetUpdates ++ leSat 2 a.dropped ++ leBytes 1 (maskOf a.stuck) ++ zeros 1
    ++ (r.cumulative.map (fun c => leBytes 4 c.toNat)).flatten
    ++ leBytes 8 r.demandQI ++ leBytes 8 r.demandA
    ++ (r.deltas.map (fun d => leBytes 8 d.toNat)).flatten
    ++ (list.map (orderEntryBytes a)).flatten ++ (a.events.map eventBytes).flatten

/-- R135, R213: a demand-close record. -/
def demandRecordBytes (r : DemandRecord) : List Byte :=
  leBytes 1 2 ++ leBytes 1 r.point ++ zeros 2 ++ leBytes 4 r.generation.toNat ++ leBytes 8 r.seq.toNat
    ++ leBytes 8 r.endTime ++ (r.entries.map (fun e => leBytes 8 e.max ++ leBytes 8 e.seq.toNat)).flatten ++ zeros 8

/-- R136, R139: the body of a file's page. -/
def bodyBytes (f : IntervalFile) : List Byte :=
  (f.records.map recordBytes).flatten ++ (f.demand.map demandRecordBytes).flatten

/-! ## The page header (R139, R213) -/

/-- The smallest first and the largest last sequence of a file's interval records. -/
def firstSequence (f : IntervalFile) : Nat :=
  (f.records.map (fun r => r.firstSeq.toNat)).foldl min (match f.records with | r :: _ => r.firstSeq.toNat | [] => 0)
def lastSequence (f : IntervalFile) : Nat := (f.records.map (fun r => r.lastSeq.toNat)).foldl max 0

/-- The union of the cause sets of a file's records. -/
def fileCauses (f : IntervalFile) : CauseSet := f.records.foldl (fun cs r => cs ||| r.causes) 0

/-- R139, R213: the page header. The owner word is HOST (2). -/
def headerBytes (f : IntervalFile) (epoch : Word32) (seqNo : Word32) (bodyLength : Nat) : List Byte :=
  leBytes 4 2 ++ leBytes 4 epoch.toNat ++ leBytes 4 seqNo.toNat
    ++ leBytes 2 (f.records.length + f.demand.length) ++ leBytes 2 (64 + bodyLength)
    ++ leBytes 8 (firstSequence f) ++ leBytes 8 (lastSequence f) ++ leBytes 2 (fileCauses f).toNat ++ zeros 2
    ++ leSat 4 f.merges ++ zeros 24

end Sys2Proof.Machine
end

