-- ==== Sys2Proof/Machine/FilingOps.lean ====
section
/-! DEFINITION. The filing unit (ch. 7): joining a file, merging, placing, transits and their return, and the reports of
placed closes. -/

namespace Sys2Proof.Machine

/-! ## Joining a file (R133 to R135) -/

/-- The bit of a tariff slot in a tariff mask (R134). -/
def slotBit (slot : Nat) : BitVec 4 := 1#4 <<< slot

/-- R134: an unmerged interval record. -/
def joinRecord (c : Close) (p : AcctPart) (a : Acc) : IntervalRecord :=
  { point := p.point, firstSeq := c.seq, lastSeq := c.seq, merges := 0, startTime := c.startTime, endTime := c.endTime
    causes := c.causes, partialMark := c.partialMark, unexpected := c.unexpected, malformed := c.malformed
    timeout := c.timeout, tariffMask := slotBit c.slot, tariffAtClose := c.slot, genFirst := c.generation
    genLast := c.generation, stats := a, deltas := p.deltas, cumulative := p.cumulative, demandQI := p.demandQI
    demandA := p.demandA, excluded := p.excluded }

/-- R135: a demand-close record. -/
def joinDemand (c : Close) (p : DemandPart) : DemandRecord :=
  { point := p.point, seq := c.seq, endTime := c.endTime, generation := c.generation, entries := p.entries }

/-- R133: the interval file of a close both of whose sets of parts have arrived. -/
def joinFile (c : Close) (parts : List AcctPart) (demand : List DemandPart) (stats : List Acc) : IntervalFile :=
  { records := parts.filterMap (fun p => (stats.find? (fun a => a.point = p.point)).map (joinRecord c p))
    demand := demand.map (joinDemand c), merges := 0, unreported := [c.seq] }

/-! ## Merging (R146 to R150) -/

/-- R147: a frequency extreme over the records that have a window. -/
def mergeFreq (pick : Nat → Nat → Nat) (older newer : Acc) (f : Acc → Nat) : Nat :=
  if older.total = 0 then f newer else if newer.total = 0 then f older else pick (f older) (f newer)

/-- R149: the figures of one order. -/
def mergeOrder (a b : OrderAcc) : OrderAcc :=
  { sum := a.sum + b.sum, max := max a.max b.max, exceed := a.exceed + b.exceed, emission := a.emission + b.emission }

/-- R147 to R149: the statistics of two records. The event list keeps its first 8 entries; the others are dropped. -/
def mergeAcc (a b : Acc) : Acc :=
  let events := a.events ++ b.events
  { point := a.point, total := a.total + b.total, clean := a.clean + b.clean, flagged := a.flagged + b.flagged
    missing := a.missing + b.missing, partials := a.partials + b.partials, unlocked := a.unlocked + b.unlocked
    discarded := a.discarded + b.discarded, subst := a.subst + b.subst, stuck := orBools a.stuck b.stuck
    offsetUpdates := a.offsetUpdates + b.offsetUpdates
    minFreq := mergeFreq min a b (fun x => x.minFreq), maxFreq := mergeFreq max a b (fun x => x.maxFreq)
    included := a.included + b.included, orders := List.zipWith mergeOrder a.orders b.orders
    fundSum := a.fundSum + b.fundSum, thdISum := a.thdISum + b.thdISum, thdICount := a.thdICount + b.thdICount
    thdVSum := a.thdVSum + b.thdVSum, thdVCount := a.thdVCount + b.thdVCount, tddSum := a.tddSum + b.tddSum
    floor := b.floor, events := events.take 8, dropped := a.dropped + b.dropped + (events.length - 8) }

/-- R150: one demand of a merged record. -/
def mergeDemand (aEx bEx : Bool) (a b : Nat) : Nat := if aEx = bEx then max a b else if aEx then b else a

/-- R146 to R150: an older and a newer record of one point. -/
def mergeRecord (a b : IntervalRecord) : IntervalRecord :=
  { point := a.point, firstSeq := a.firstSeq, lastSeq := b.lastSeq, merges := a.merges + b.merges + 1
    startTime := a.startTime, endTime := b.endTime, causes := a.causes ||| b.causes
    partialMark := a.partialMark || b.partialMark, unexpected := a.unexpected || b.unexpected
    malformed := a.malformed || b.malformed, timeout := a.timeout || b.timeout
    tariffMask := a.tariffMask ||| b.tariffMask, tariffAtClose := b.tariffAtClose, genFirst := a.genFirst
    genLast := b.genLast, stats := mergeAcc a.stats b.stats, deltas := List.zipWith (· + ·) a.deltas b.deltas
    cumulative := b.cumulative, demandQI := mergeDemand a.excluded b.excluded a.demandQI b.demandQI
    demandA := mergeDemand a.excluded b.excluded a.demandA b.demandA, excluded := a.excluded && b.excluded }

/-- The record of a point in a file. -/
def recordOf (f : IntervalFile) (p : Nat) : Option IntervalRecord := f.records.find? (fun r => r.point = p)

/-- R146: an older and a newer file. A point of one file alone keeps its record unchanged. -/
def mergeFiles (older newer : IntervalFile) : IntervalFile :=
  { records := (List.range 5).filterMap (fun p =>
      match recordOf older p, recordOf newer p with
      | some a, some b => some (mergeRecord a b)
      | some a, none => some a
      | none, b => b)
    demand := older.demand ++ newer.demand
    merges := older.merges + newer.merges + 1
    unreported := older.unreported ++ newer.unreported }

/-! ## Reports (R152) -/

/-- R110, R152: a close is reported as placed: its CLOSE_INTERVAL orders complete. R168 has them complete together: they
join the completion queue in the order in which they were accepted (log 41). -/
def reportClose (s : State) (seq : Word64) : State :=
  let done := s.ic.closeOrders.filter (fun o => o.2 = seq)
  done.foldl (fun s o => completeOk o.1 seq (partTime s) s)
    { s with ic := { s.ic with closeOrders := s.ic.closeOrders.filter (fun o => o.2 ≠ seq) } }

/-- R152: every close of a file that has not been reported is. -/
def reportFile (f : IntervalFile) (s : State) : State := f.unreported.foldl reportClose s

/-- A file whose closes have been reported. -/
def reported (f : IntervalFile) : IntervalFile := { f with unreported := [] }

/-! ## Placing, transits and their return (R138, R141 to R145) -/

/-- R138: a transit begins: the owner word of the next page is read. -/
def beginTransit (f : IntervalFile) (fromHeld : Bool) (s : State) : State :=
  let cfg := s.store.active
  { s with filing := { s.filing with transit := some {
      file := f, fromHeld, base := s.port.exbase
      pageBase := match cfg with | some c => c.pageBase | none => 0
      page := s.filing.nextPage, issuedAt := s.tick } } }

/-- R141, R143: a file becomes the held file of an empty holding file: HOLD is requested (R145) and its closes are
reported (R152). -/
def holdFile (f : IntervalFile) (s : State) : State :=
  request .hold (reportFile f { s with filing := { s.filing with held := some (reported f) } })

/-- R141: a completed file is placed. -/
def placeFile (f : IntervalFile) (s : State) : State :=
  match s.filing.held with
  | some h => reportFile f { s with filing := { s.filing with held := some (reported (mergeFiles h f)) } }
  | none => if s.filing.transit.isNone && canAccess s then beginTransit f false s else holdFile f s

/-- R144, R145: a transit ends without a page: the file returns to the holding file, merged with a file that was held.
HOLD is requested where the holding file was empty and the file came straight from its completion, but not at a soft
reset (`quiet`). A layout change that waited for the transit takes effect (R153). -/
def returnTransit (quiet : Bool) (s : State) : State :=
  match s.filing.transit with
  | none => s
  | some t =>
    let file := match s.filing.held with | some h => mergeFiles t.file h | none => t.file
    let filing := { s.filing with
      held := some (reported file)
      transit := none
      nextPage := if s.filing.layoutDue then 0 else s.filing.nextPage
      pageSeq := if s.filing.layoutDue then 0 else s.filing.pageSeq
      layoutDue := false }
    requestIf (!quiet && s.filing.held.isNone && !t.fromHeld) .hold (reportFile t.file { s with filing := filing })

/-- A file was in transit as the event in hand fell. -/
def transitAtEvent (s : State) : Bool := s.event.any (fun ev => ev.inTransit)

/-- R142: the held file is retried at a boundary or free tick. One at which a file was in transit leaves it waiting, even
where that transit ends while the event waits for its reads. -/
def canRetry (s : State) : Bool :=
  canAccess s && s.filing.held.isSome && s.filing.transit.isNone && !transitAtEvent s

/-- R142: the held file leaves the holding file and its transit begins. -/
def retryHeld (s : State) : State :=
  match s.filing.held with
  | some f => beginTransit f true { s with filing := { s.filing with held := none } }
  | none => s

/-- R139: the page write: the written form is fixed and the body is written. -/
def writeBody (t : Transit) (s : State) : State :=
  let seqNo := s.filing.pageSeq + 1
  let body := bodyBytes t.file
  { s with filing := { s.filing with transit := some { t with
      stage := .body, seqNo := seqNo, body := body, issuedAt := s.tick
      header := headerBytes t.file s.store.factory.epoch seqNo body.length } } }

/-- R138: the owner word is answered: ENGINE (1) begins the page write, anything else returns the file. -/
def ownerAnswer (word : Word32) (s : State) : State :=
  match s.filing.transit with
  | some t =>
    if t.stage = .owner then (if word = 1 then writeBody t s else returnTransit false s) else s
  | none => s

/-- R139: the body is answered: the header is written in one write. -/
def bodyAnswer (s : State) : State :=
  match s.filing.transit with
  | some t =>
    if t.stage = .body then
      { s with filing := { s.filing with transit := some { t with stage := .header, issuedAt := s.tick } } }
    else s
  | none => s

/-- R137: the page after one in the ring. -/
def nextIndex (k page : Nat) : Nat := if page + 1 < k then page + 1 else 0

/-- R140, R152, R153: the page write is complete. -/
def pageComplete (s : State) : State :=
  match s.filing.transit with
  | some t =>
    if t.stage = .header then
      let k := match s.store.active with | some c => c.pageCount | none => 0
      let filing := { s.filing with
        pageSeq := if s.filing.layoutDue then 0 else t.seqNo
        nextPage := if s.filing.layoutDue then 0 else nextIndex k t.page
        layoutDue := false
        transit := none }
      let s := request .filed { s with filing := filing }
      let s := if t.file.demand = [] then s else { s with ic := { s.ic with unfiled := false } }
      reportFile t.file s
    else s
  | none => s

/-- R153: the page layout changes: index and counter return to the start, at once or when the transit ends. -/
def changeLayout (s : State) : State :=
  if s.filing.transit.isSome then { s with filing := { s.filing with layoutDue := true } }
  else { s with filing := { s.filing with nextPage := 0, pageSeq := 0 } }

/-! ## Gathering the parts of a close (R133) -/

/-- Put parts with their assembly. -/
def addParts (seq : Word64) (f : Assembly → Assembly) (s : State) : State :=
  { s with filing := { s.filing with
      assemblies := s.filing.assemblies.map (fun a => if a.close.seq = seq then f a else a) } }

/-- Both sets of parts of a close have arrived. -/
def assemblyReady (s : State) (seq : Word64) : Bool :=
  s.filing.assemblies.any (fun a => a.close.seq = seq && a.acct.isSome && a.stat.isSome)

/-- R133: once both sets of parts have arrived the file is complete. -/
def fileReady (seq : Word64) (s : State) : State :=
  if assemblyReady s seq then pushDue [.fileComplete seq] s else s

/-- R133, R141: the completed file is joined and placed. -/
def completeFile (seq : Word64) (s : State) : State :=
  match s.filing.assemblies.find? (fun a => a.close.seq = seq) with
  | some a =>
    match a.acct, a.stat with
    | some (parts, demand), some stats =>
      placeFile (joinFile a.close parts demand stats)
        { s with filing := { s.filing with assemblies := s.filing.assemblies.filter (fun b => b.close.seq ≠ seq) } }
    | _, _ => s
  | none => s

/-! ## Finishing a close (R78, R117) -/

/-- The window that ended with a close's sequence number is still in decomposition. -/
def windowAwaited (s : State) (seq : Word64) : Bool :=
  match s.spectral.decomposing with
  | some w => w.record.seq = seq
  | none => false

/-- R78: the accounting unit can finish its next close. -/
def acctCanFinish (s : State) : Bool :=
  match s.acct.closes with
  | c :: _ => !windowAwaited s c.seq
  | [] => false

/-- R117: the statistics unit can finish its next close. -/
def statCanFinish (s : State) : Bool :=
  match s.stats.closes with
  | c :: _ => !windowAwaited s c.seq
  | [] => false

/-- R78 to R83: the accounting unit finishes its next close and hands its parts to the filing unit. -/
def acctFinishStep (s : State) : State :=
  match s.acct.closes with
  | c :: _ =>
    let r := acctFinish s.acct c
    fileReady c.seq (addParts c.seq (fun a => { a with acct := some r.1 }) { s with acct := r.2 })
  | [] => s

/-- R117, R118: the statistics unit finishes its next close and hands its parts to the filing unit. -/
def statFinishStep (s : State) : State :=
  match s.stats.closes with
  | c :: _ =>
    let parts := s.stats.accs
    fileReady c.seq (addParts c.seq (fun a => { a with stat := some parts }) (statAfterClose c s))
  | [] => s

end Sys2Proof.Machine
end

