-- ==== Sys2Proof/Machine/SyncLine.lean ====
section
/-! DEFINITION. The sync line and its decoder (5.7): low periods, bursts, the stuck-low fault and its recovery. All times are
in reference ticks of 100 ns. -/

namespace Sys2Proof.Machine

/-- R105: 20 ms, below which a low period is a glitch. -/
def glitchTicks : Nat := 200000

/-- R105: 500 ms, the longest valid pulse. -/
def pulseTicks : Nat := 5000000

/-- R105, R106: 400 ms, after which a burst ends or a stuck-low fault is over. -/
def quietTicks : Nat := 4000000

/-- Change the decoder. -/
def modDecoder (f : Decoder → Decoder) (s : State) : State := { s with ic := { s.ic with decoder := f s.ic.decoder } }

/-- R105, R106: the malformed flag of the open interval, if one is open, and the SYNC request. -/
def markMalformed (s : State) : State :=
  request .sync { s with ic := { s.ic with current := s.ic.current.map (fun o => { o with malformed := true }) } }

/-- R106 to R108: a burst of `n` pulses selects its action. A demand reset that arrives while a boundary waits for its
reads is one for a later boundary (log 9). -/
def burstAction (n : Nat) (s : State) : State :=
  if n = 0 then s
  else if n = 1 then { s with ic := { s.ic with pendingEnd := true } }
  else if n ≤ 3 then { s with ic := { s.ic with pendingStep := true } }
  else if n ≤ 6 then modEvent (fun ev => { ev with lateDemand := true }) { s with ic := { s.ic with demandPending := true } }
  else markMalformed { s with ic := { s.ic with malformedBursts := s.ic.malformedBursts + 1 } }

/-- R106: the burst in progress ends. -/
def endBurst (s : State) : State :=
  burstAction s.ic.decoder.pulses (modDecoder (fun d => { d with pulses := 0 }) s)

/-- R106: the instant at which the burst in progress ends, while the line is high. -/
def burstEndAt (d : Decoder) : Option Nat :=
  if 0 < d.pulses && !d.lineLow && !d.recovering then some (d.lastPulseEnd + quietTicks) else none

/-- R105: a low period in progress exceeds 500 ms: the burst is abandoned and nothing is decoded until recovery. -/
def stuckLow (s : State) : State :=
  markMalformed
    (modDecoder (fun d => { d with declared := true, recovering := true, pulses := 0 })
      { s with ic := { s.ic with stuckLows := s.ic.stuckLows + 1 } })

/-- R105: the first instant at which the low period in progress exceeds 500 ms (log 26). -/
def stuckLowAt (d : Decoder) : Option Nat :=
  match d.lowSince with
  | some t => if d.lineLow && !d.declared then some (t + pulseTicks + 1) else none
  | none => none

/-- R105: the line has been high for 400 ms without a break after a stuck-low fault. -/
def recover (s : State) : State := modDecoder (fun d => { d with recovering := false }) s

/-- R105: the instant at which a recovery is complete, while the line stays high. -/
def recoveryAt (d : Decoder) : Option Nat :=
  if d.recovering && !d.lineLow then some (d.highSince + quietTicks) else none

/-- Carry out what the decoder's own timer has due by now. -/
def overdue (at? : Option Nat) (f : State → State) (s : State) : State :=
  match at? with
  | some t => if t ≤ s.tick then f s else s
  | none => s

/-- What the timers of a high line have due: the end of a recovery, the end of a burst. -/
def overdueHigh (s : State) : State :=
  overdue (burstEndAt s.ic.decoder) endBurst (overdue (recoveryAt s.ic.decoder) recover s)

/-- R105: the line falls and a low period begins. A line already low does not fall. -/
def lineFall (s : State) : State :=
  if s.ic.decoder.lineLow then s
  else
    let s := overdueHigh s
    modDecoder (fun d => { d with lineLow := true, lowSince := some s.tick, declared := false }) s

/-- The line stands high from now on; the low period in progress is over. -/
def lineHigh (s : State) : State :=
  modDecoder (fun d => { d with lineLow := false, lowSince := none, declared := false, highSince := s.tick }) s

/-- R105, R106: a low period that lasted `low` ticks, outside recovery, is a glitch or a valid pulse. A glitch that
delayed the end of a burst ends it at the rise. -/
def judgeLow (low : Nat) (s : State) : State :=
  if low < glitchTicks then
    let s := { s with ic := { s.ic with glitches := s.ic.glitches + 1 } }
    overdue (burstEndAt s.ic.decoder) endBurst s
  else modDecoder (fun d => { d with pulses := d.pulses + 1, lastPulseEnd := s.tick }) s

/-- R105: the line rises and the low period in progress is settled. -/
def lineRise (s : State) : State :=
  if !s.ic.decoder.lineLow then s
  else
    let s := overdue (stuckLowAt s.ic.decoder) stuckLow s
    match s.ic.decoder.lowSince with
    | some t => if s.ic.decoder.recovering then lineHigh s else judgeLow (s.tick - t) (lineHigh s)
    | none => lineHigh s

/-- R105, R111: the decoder starts idle; a line already low begins a low period at that instant. -/
def restartDecoder (s : State) : State :=
  modDecoder (fun d =>
    { lineLow := d.lineLow, lowSince := if d.lineLow then some s.tick else none, highSince := s.tick }) s

end Sys2Proof.Machine
end

