-- ==== Sys2Proof/Machine/ConfigOps.lean ====
section
/-! DEFINITION. The configuration store (ch. 9): the judgement of a configuration block, and activation. -/

namespace Sys2Proof.Machine

/-! ## The fields (R181 to R183) -/

/-- A value lies in a range, its ends included. -/
def inRange (lo hi v : Nat) : Bool := lo ≤ v && v ≤ hi

/-- Every member of one mask is in another. -/
def subMask (a b : Nat) : Bool := a &&& b = a

/-- R181: the engine-wide fields, with their numbers, and whether each is valid. -/
def engineFields (c : Cfg) : List (Nat × Bool) :=
  [ (2, inRange 1 15 c.enabledMask),
    (3, inRange 0 15 c.memberMask && subMask c.memberMask c.enabledMask),
    (4, inRange 0 3 c.refPoint && c.enabledMask.testBit c.refPoint),
    (5, inRange (2 ^ 32) (2 ^ 60) c.divisor),
    (6, [1, 5, 10, 15, 30, 60].contains c.lengthMinutes),
    (7, inRange 0 1 c.closeSource),
    (8, inRange 0 1 c.tariffSource),
    (9, inRange 1 4 c.slots),
    (10, inRange 0 6 c.dow),
    (12, inRange 0 1 c.idleTracking),
    (13, inRange 0 524287 c.idleFloor),
    (14, c.pageBase % 8192 = 0 && 16384 ≤ c.pageBase && c.pageBase + c.pageCount * 8192 ≤ 2 ^ 32),
    (15, inRange 8 256 c.pageCount),
    (16, c.memberMask = 0 || inRange 16 524287 c.aggContracted),
    (17, inRange 0 32 c.calendarCount) ]

/-- R182: the fields of one channel of a point. -/
def chanFields (p c : Nat) (k : ChanCfg) : List (Nat × Bool) :=
  [ (22 + 23 * p + 3 * c, k.useFactory = 1 || inRange 16384 49151 k.gain),
    (23 + 23 * p + 3 * c, k.useFactory = 1 || (-2047 ≤ k.offset && k.offset ≤ 2047)),
    (24 + 23 * p + 3 * c, inRange 0 1 k.useFactory) ]

/-- R182: the fields of one metering point. -/
def pointFields (cfg : Cfg) (p : Nat) : List (Nat × Bool) :=
  let k := cfg.point p
  [(20 + 23 * p, inRange 1 65535 k.weight), (21 + 23 * p, inRange 16 524287 k.contracted)]
    ++ (List.range 7).flatMap (fun c => chanFields p c (k.chans.getD c {}))

/-- R183: two calendar entries have an instance in common. -/
def collide (a b : CalEntry) : Bool := a.minute = b.minute && a.dayMask &&& b.dayMask ≠ 0

/-- R183: the calendar entries that are checked. -/
def checkedEntries (cfg : Cfg) : List CalEntry :=
  if cfg.tariffSource = 0 then cfg.calendar.take cfg.calendarCount else []

/-- R183: the fields of one checked calendar entry. -/
def calendarFields (cfg : Cfg) (e : Nat) : List (Nat × Bool) :=
  let entries := checkedEntries cfg
  let k := entries.getD e {}
  [ (120 + 3 * e, inRange 1 127 k.dayMask && !(entries.take e).any (fun a => collide a k)),
    (121 + 3 * e, inRange 0 1439 k.minute),
    (122 + 3 * e, k.slot < cfg.slots) ]

/-- R183: the limits of orders 2 to 50. -/
def limitFields (cfg : Cfg) : List (Nat × Bool) :=
  (List.range 49).map (fun j => (232 + j, inRange 0 10000 (cfg.limits.getD j 0)))

/-- Every checked field of a block in increasing number. -/
def checkedFields (cfg : Cfg) : List (Nat × Bool) :=
  engineFields cfg ++ (List.range 4).flatMap (pointFields cfg)
    ++ (List.range (checkedEntries cfg).length).flatMap (calendarFields cfg) ++ limitFields cfg

/-- R180: the lowest number of a field that fails. -/
def failingField (cfg : Cfg) : Option Nat := ((checkedFields cfg).find? (fun f => !f.2)).map (fun f => f.1)

/-! ## The judgement (R180) -/

/-- R180, step 1: D is fixed and the block names another. -/
def divisorClash (st : ConfigStore) (cfg : Cfg) : Bool :=
  match st.divisor with
  | some d => cfg.divisor ≠ d
  | none => false

/-- R180, step 3: the layout or the enabled mask differs from the active configuration's. -/
def layoutDiffers (st : ConfigStore) (cfg : Cfg) : Bool :=
  match st.active with
  | some a => cfg.pageBase ≠ a.pageBase || cfg.pageCount ≠ a.pageCount || cfg.enabledMask ≠ a.enabledMask
  | none => false

/-- R180: why a block fails, with the result value; none for a valid block. `running`: the taking event is a
boundary. -/
def judge (st : ConfigStore) (running : Bool) (cfg : Cfg) : Option (ResultCode × Word64) :=
  if divisorClash st cfg then some (.divisorFixed, 0)
  else
    match failingField cfg with
    | some n => some (.badConfig, BitVec.ofNat 64 n)
    | none => if running && layoutDiffers st cfg then some (.badState, 0) else none

/-! ## Activation (R184) -/

/-- The day-of-week offset of an activation, unless a SET_TIME of the same event stands over it (R27). -/
def activateClock (cfg : Cfg) (s : State) : State :=
  if (match s.event with | some ev => ev.timeSet | none => false) then s
  else { s with tb := { s.tb with dowOffset := cfg.dow } }

/-- R35: the crossing list is emptied where the reference point changes. -/
def activateReference (old : Option Cfg) (cfg : Cfg) (s : State) : State :=
  if old.any (fun a => a.refPoint = cfg.refPoint) then s else { s with tb := { s.tb with crossings := [] } }

/-- R153: the page index and counter return to the start where the layout changes. -/
def activateLayout (old : Option Cfg) (cfg : Cfg) (s : State) : State :=
  if old.any (fun a => a.pageBase = cfg.pageBase && a.pageCount = cfg.pageCount) then s else changeLayout s

/-- R184: the store itself: the new configuration is active, none is pending, D is fixed. -/
def activateStore (cfg : Cfg) (s : State) : State :=
  { s with store := { s.store with active := some cfg, pend := none, divisor := some (s.store.divisor.getD cfg.divisor) } }

/-- R184, R185: a configuration becomes active, at every block that acts on it, and its LOAD_CONFIG completes. -/
def activate (cfg : Cfg) (e : Fin 16) (s : State) : State :=
  let old := s.store.active
  let s := activateStore cfg s
  let s := (List.range 28).foldl activateOffset s
  let s := activateLayout old cfg (activateReference old cfg (activateClock cfg s))
  completeOk e (cfg.generation.zeroExtend 64) (eventTime s) (activateTariff s)

/-- R167: a valid block taken at a boundary becomes pending; the one it replaces is superseded. -/
def makePending (cfg : Cfg) (e : Fin 16) (s : State) : State :=
  let s' := { s with store := { s.store with pend := some (cfg, e) } }
  match s.store.pend with
  | some (_, older) => complete older true .superseded (cfg.generation.zeroExtend 64) (eventTime s) s'
  | none => s'

/-- R166: the outcome of a block that has been read, at the event in hand. A block taken at a free tick activates even if
RUN has been set since the tick (log 36). -/
def judgeBlock (block : List Byte) (e : Fin 16) (s : State) : State :=
  let cfg := decodeCfg block
  let running := match s.event with | some ev => ev.kind ≠ .tick | none => false
  match judge s.store running cfg with
  | some (code, value) => complete e true code value (eventTime s) s
  | none => if running then makePending cfg e s else pushDue [.activate cfg e] s

end Sys2Proof.Machine
end

