-- ==== Sys2Proof/Machine/Params.lean ====
section
/-! DEFINITION. Parameter memory (9.3): what each numbered parameter reads, and what a PARAM_WRITE stores. -/

namespace Sys2Proof.Machine

/-! ## Read-only figures (R187, R188) -/

/-- A 32-bit figure in the low half of a result value (R172). -/
def unsignedValue (n : Nat) : Word64 := BitVec.ofNat 64 (n % 2 ^ 32)

/-- A signed figure, its sign extended (R172). -/
def signedValue (v : Int) : Word64 := BitVec.ofInt 64 v

def flag (b : Bool) : Nat := if b then 1 else 0

/-- R187: the parameters of the part, its configuration and its timebase. -/
def engineParam (s : State) (n : Nat) : Option Nat :=
  let st := s.store
  if n = 0 then some (st.factory.serial.toNat % 2 ^ 32)
  else if n = 1 then some (st.factory.serial.toNat / 2 ^ 32)
  else if n = 2 then some st.factory.revision.toNat
  else if n = 3 then some st.factory.epoch.toNat
  else if n = 4 then some (flag st.factory.missing + 2 * flag st.factory.unsaved)
  else if n = 5 then some (if s.tb.nom60 then 60 else 50)
  else if n = 6 then some (flag st.divisor.isSome)
  else if n = 7 then some (st.divisor.getD 0 % 2 ^ 32)
  else if n = 8 then some (st.divisor.getD 0 / 2 ^ 32)
  else if n = 9 then some (flag st.active.isSome + flag st.pend.isSome)
  else if n = 10 then some (match st.active with | some c => c.generation.toNat | none => 0)
  else if n = 11 then some (match st.pend with | some c => c.1.generation.toNat | none => 0)
  else if n = 12 then some (match st.active with | some c => if c.memberMask = 0 then 0 else c.aggContracted | none => 0)
  else if n = 16 then some s.tb.lock.code
  else if n = 17 then some s.tb.steady
  else if n = 18 then some s.tb.hold
  else if n = 19 then some s.tb.pace
  else if n = 20 then some s.tb.lastVerdict.code
  else if n = 21 then some s.tb.lastMeasured
  else none

/-- R188: the parameters of a link, by their offset. -/
def linkParam (k : Link) (o : Nat) : Nat :=
  if o = 0 then k.state.code
  else if o = 1 then k.dropReason.code
  else if o = 2 then k.goodFrames.toNat
  else if o = 3 then k.parityErrors.toNat
  else if o = 4 then k.framingErrors.toNat
  else if o = 5 then k.staleFrames.toNat
  else if o = 6 then k.substituted.toNat
  else k.drops.toNat

/-! ## Band monitors (R190) -/

/-- R190: a setting of a monitor, by its offset 0 to 9. -/
def MonSettings.get (m : MonSettings) (o : Nat) : Nat :=
  if o = 0 then m.enable
  else if o = 1 then m.source
  else if o = 2 then m.kind
  else if o = 3 then m.phase
  else if o = 4 then m.lo
  else if o = 5 then m.hi
  else if o = 6 then m.threshold
  else if o = 7 then m.ratio
  else if o = 8 then m.persistence
  else m.emission

/-- A monitor's settings with one of them changed. -/
def MonSettings.put (m : MonSettings) (o v : Nat) : MonSettings :=
  if o = 0 then { m with enable := v }
  else if o = 1 then { m with source := v }
  else if o = 2 then { m with kind := v }
  else if o = 3 then { m with phase := v }
  else if o = 4 then { m with lo := v }
  else if o = 5 then { m with hi := v }
  else if o = 6 then { m with threshold := v }
  else if o = 7 then { m with ratio := v }
  else if o = 8 then { m with persistence := v }
  else { m with emission := v }

/-- R190: the range of a setting. -/
def settingRange (nom60 : Bool) (o : Nat) : Nat × Nat :=
  if o = 1 then (0, 3)
  else if o = 3 then (1, 5)
  else if o = 4 then (1, windowLen nom60 / 2)
  else if o = 5 then (1, windowLen nom60 / 2)
  else if o = 6 then (1, 33554431)
  else if o = 7 then (50, 100)
  else if o = 8 then (1, 15)
  else (0, 1)

/-- R190: the parameters of a monitor, by their offset. -/
def monitorParam (k : Monitor) (o : Nat) : Option Nat :=
  if o < 10 then some (k.stored.get o)
  else if o = 10 then some k.state.code
  else if o = 11 then some k.count
  else if o = 12 then some k.last
  else none

/-- The monitor of a parameter number from 256 to 319. -/
def paramMonitor (n : Nat) : Fin 4 := Fin.ofNat 4 ((n - 256) / 16)

/-- The link of a parameter number from 32 to 63. -/
def paramLink (n : Nat) : Fin 4 := Fin.ofNat 4 ((n - 32) / 8)

/-! ## Reading and writing (R172, R173, R186, R189) -/

/-- R172, R186 to R190: the value of a parameter; none where parameter memory holds no parameter. -/
def paramValue (s : State) (n : Nat) : Option Word64 :=
  if n < 32 then (engineParam s n).map unsignedValue
  else if n < 64 then some (unsignedValue (linkParam (s.link (paramLink n)) ((n - 32) % 8)))
  else if n < 92 then some (unsignedValue (flag (s.channel (n - 64)).stuck))
  else if n < 96 then none
  else if n < 124 then some (unsignedValue (s.channel (n - 96)).lastRms)
  else if n < 128 then none
  else if n < 156 then some (unsignedValue (s.store.factory.gains.getD (n - 128) 32768))
  else if n < 160 then none
  else if n < 188 then some (signedValue (s.store.factory.offsets.getD (n - 160) 0))
  else if n < 192 then none
  else if n < 220 then some (unsignedValue (activeGain s (n - 192)))
  else if n < 224 then none
  else if n < 252 then some (signedValue (storedOffset (s.channel (n - 224))))
  else if n < 256 then none
  else if n < 320 then (monitorParam (s.monitor (paramMonitor n)) ((n - 256) % 16)).map unsignedValue
  else none

/-- R189: an active offset. -/
def isOffsetParam (n : Nat) : Bool := 224 ≤ n && n < 252

/-- R190: a monitor setting. -/
def isSettingParam (n : Nat) : Bool := 256 ≤ n && n < 320 && (n - 256) % 16 < 10

/-- R186: a read-write parameter. -/
def isReadWrite (n : Nat) : Bool := isOffsetParam n || isSettingParam n

/-- R173, R189: a PARAM_WRITE to an active offset: it is clamped and requested. -/
def writeOffset (e : Fin 16) (ch value : Nat) (s : State) : State :=
  let w := signed 32 value
  let v := clampInt (-2047) 2047 w
  complete e false (if v = w then .ok else .clamped) (signedValue v) (eventTime s) (requestOffset ch v false true s)

/-- R173, R121, R190: a PARAM_WRITE to a monitor setting: it is clamped and stored, and awaits its effect. -/
def writeSetting (e : Fin 16) (m : Fin 4) (o value : Nat) (s : State) : State :=
  let r := settingRange s.tb.nom60 o
  let v := clampNat r.1 r.2 value
  complete e false (if v = value then .ok else .clamped) (unsignedValue v) (eventTime s)
    (s.setMonitor m { s.monitor m with stored := (s.monitor m).stored.put o v, dirty := true })

/-- R173: a PARAM_WRITE. -/
def writeParam (e : Fin 16) (n value : Nat) (s : State) : State :=
  if isOffsetParam n then writeOffset e (n - 224) value s
  else if isSettingParam n then writeSetting e (paramMonitor n) ((n - 256) % 16) value s
  else if (paramValue s n).isSome then completeFail e .readOnly (eventTime s) s
  else completeFail e .badParam (eventTime s) s

/-- R172: a PARAM_READ completes with the value that its parameter has now. -/
def completeRead (e : Fin 16) (n : Nat) (s : State) : State :=
  match paramValue s n with
  | some v => completeOk e v (eventTime s) s
  | none => completeFail e .badParam (eventTime s) s

/-- The boundary in hand can decide a close, and so activate a configuration (R91, R96). -/
def mayActivate (s : State) : Bool := s.event.any (fun ev => ev.kind = .boundary)

/-- The close of the boundary in hand has activated a configuration (R96). -/
def activatedHere (s : State) : Bool := s.event.any (fun ev => hasCause .config ev.causes)

/-- R17, R189: a PARAM_READ of an active offset. At a boundary an activating configuration arrives before the PARAM_WRITE
orders, so unless one of those has written the offset already, the value is known once the close is decided. -/
def readOffset (e : Fin 16) (ch : Nat) (s : State) : State :=
  let c := s.channel ch
  if mayActivate s && !writtenHere c then finishLater (.offset e ch (storedOffset c)) s
  else completeOk e (signedValue (storedOffset c)) (eventTime s) s

/-- R172, R186: a PARAM_READ as it is handed over. A monitor setting reads as written; a read-only parameter reads as the
event leaves it, so its order finishes with the event (log 11); a number that names no parameter fails at once. -/
def readParam (e : Fin 16) (n : Nat) (s : State) : State :=
  if isSettingParam n || (paramValue s n).isNone then completeRead e n s
  else if isOffsetParam n then readOffset e (n - 224) s
  else finishLater (.read e n) s

end Sys2Proof.Machine
end

