-- ==== Sys2Proof/Machine/OrderOps.lean ====
section
/-! DEFINITION. The order unit (ch. 8): taking entries, the checks and effects of the ten kinds at their taking event, and the
answers to the writes of the completion queue. -/

namespace Sys2Proof.Machine

/-! ## The event in hand waits for reads -/

/-- What is still due waits until the reads in progress are answered. -/
def pauseEvent (s : State) : State :=
  { modEvent (fun ev => { ev with todo := s.due }) s with due := [] }

/-- What waited is due again. -/
def resumeEvent (s : State) : State :=
  match s.event with
  | some ev => { modEvent (fun ev => { ev with todo := [] }) s with due := s.due ++ ev.todo }
  | none => s

/-- The event in hand waits for reads: of its scan or of a configuration block. -/
def waitsForReads (s : State) : Bool := s.event.isSome && s.due.isEmpty

/-! ## Taking (R159, R177) -/

/-- R177: the orders that a soft reset ended complete with RESET, in increasing index order, at the first scan whose reads
are answered (log 35). -/
def resetCompletions (s : State) : State :=
  if s.orders.resetDue then
    let ended := (List.finRange 16).filter (fun e => s.orders.inFlight.any (fun f => f.entry = e && f.ended))
    let s := ended.foldl (fun s e => completeFail e .reset (eventTime s) s) s
    { s with orders := { s.orders with resetDue := false } }
  else s

/-- R159: entry `e` of the table as read is taken: it reads POSTED and its index is not in flight. -/
def takes (s : State) (table : List Byte) (e : Fin 16) : Bool :=
  entryState (tableEntry table e.val) = 1 && (s.inFlight e).isNone

/-- R159: an entry is taken. -/
def takeEntry (table : List Byte) (s : State) (e : Fin 16) : State :=
  let entry := tableEntry table e.val
  pump { s with orders := { s.orders with
    inFlight := s.orders.inFlight ++
      [{ entry := e, kind := entryKind entry, tag := entryTag entry, params := entryParams entry }]
    queue := s.orders.queue ++ [.taken e] } }

/-- The entries that a scan takes. -/
def takenEntries (s : State) (table : List Byte) : List (Fin 16) := (List.finRange 16).filter (takes s table)

/-- R159: the scan's entries are taken and handed over in increasing index order. -/
def takeOrders (table : List Byte) (s : State) : State :=
  let s := resetCompletions s
  let taken := takenEntries s table
  let s := taken.foldl (takeEntry table) s
  pushDue (taken.map Due.handOver) s

/-! ## The ten kinds at their taking event (R166 to R176) -/

/-- The event in hand is a boundary, the first of a run included. -/
def atBoundary (s : State) : Bool :=
  match s.event with
  | some ev => ev.kind ≠ .tick
  | none => false

/-- R166: a LOAD_CONFIG reads the configuration block; the event waits for it. Where the exchange area cannot be reached
the read faults at once (log 12). -/
def orderLoadConfig (f : InFlight) (s : State) : State :=
  if canAccess s then
    pauseEvent { s with port := { s.port with
      configRead := some { entry := f.entry, access := { base := s.port.exbase, issuedAt := s.tick } } } }
  else completeFail f.entry .busFault (eventTime s) s

/-- R168, R110: a CLOSE_INTERVAL. -/
def orderCloseInterval (f : InFlight) (s : State) : State :=
  if (closable s).isSome then
    addCause .order { s with ic := { s.ic with closeOrders := s.ic.closeOrders ++ [(f.entry, s.ic.seq)] } }
  else completeFail f.entry .badState (eventTime s) s

/-- R28: the clock is loaded at the reference tick of the event in hand. -/
def loadClock (time offset : Nat) (s : State) : State :=
  match s.event with
  | some ev =>
    let late := s.tick - ev.tick
    modEvent (fun ev => { ev with tNew := time, timeSet := true })
      { s with tb := ({ s.tb with timeValue := time, subMs := 0, dowOffset := offset } : Timebase).advance late }
  | none => s

/-- R169, R28: a SET_TIME. Its result is the time value that the event had before its own load. -/
def orderSetTime (f : InFlight) (s : State) : State :=
  let time := param64 f.params 16
  let offset := param32 f.params 24
  if 2 ^ 48 ≤ time || 6 < offset then completeFail f.entry .badParam (eventTime s) s
  else
    let before := match s.event with | some ev => ev.tNew | none => s.tb.timeValue
    loadClock time offset (completeOk f.entry (BitVec.ofNat 64 before) (eventTime s) s)

/-- R170, R109: a DEMAND_RESET joins the pending demand reset. -/
def orderDemandReset (f : InFlight) (s : State) : State :=
  if atBoundary s then
    modEvent (fun ev => { ev with demand := true })
      { s with ic := { s.ic with demandPending := true, demandOrders := s.ic.demandOrders ++ [f.entry] } }
  else completeFail f.entry .badState (eventTime s) s

/-- R84: the image is captured and its writes are issued. While the exchange is FAULTED the order fails (R86). The buffer
lies outside the exchange area, so the base plays no part (R196). -/
def captureSnapshot (e : Fin 16) (s : State) : State :=
  match s.port.snapshots.find? (fun p => p.entry = e && p.image.isNone) with
  | some _ =>
    if s.port.exchange = .online then
      { s with port := { s.port with snapshots := s.port.snapshots.map (fun p =>
          if p.entry = e then
            { p with image := some (snapshotImage s.acct p.head), issuedAt := s.tick, seq := s.acct.lastSeq }
          else p) } }
    else
      completeFail e .busFault (eventTime s)
        { s with port := { s.port with snapshots := s.port.snapshots.filter (fun p => p.entry ≠ e) } }
  | none => s

/-- R84: the capture waits for the decomposition of the previous run's last window. -/
def captureWaits (s : State) : Bool :=
  s.spectral.decomposing.isSome &&
    (match s.event with | some ev => ev.kind ≠ .boundary | none => false)

/-- The time value of the event in hand as it stands after any SET_TIME. -/
def standingTime (s : State) : Nat :=
  match s.event with
  | some ev => ev.tNew
  | none => s.tb.timeValue

/-- R171, R84: a SNAPSHOT is checked as it is handed over; the image is that of the event once its other actions are done
(log 11). -/
def orderSnapshot (f : InFlight) (s : State) : State :=
  let addr := param64 f.params 16
  let length := param32 f.params 24
  if length < 3584 then completeFail f.entry .shortBuffer (eventTime s) s
  else if addr % 64 ≠ 0 then completeFail f.entry .badParam (eventTime s) s
  else
    finishLater (.image f.entry) { s with port := { s.port with snapshots := s.port.snapshots ++
      [{ entry := f.entry, addr := BitVec.ofNat 64 addr, head := [], image := none, issuedAt := s.tick, seq := 0 }] } }

/-- R85: the header of an image is fixed. Its time value is the one that stands after any SET_TIME of the event
(log 40). -/
def fixHead (e : Fin 16) (s : State) : State :=
  { s with port := { s.port with snapshots := s.port.snapshots.map (fun p =>
      if p.entry = e && p.image.isNone then { p with head := snapshotHead s (standingTime s) } else p) } }

/-- R84: the image of an order of the event in hand: its header, and, unless the capture waits, the capture. -/
def finishSnapshot (e : Fin 16) (s : State) : State :=
  let s := fixHead e s
  if captureWaits s then s else captureSnapshot e s

/-- R172: a PARAM_READ. -/
def orderParamRead (f : InFlight) (s : State) : State := readParam f.entry (param32 f.params 16) s

/-- R173: a PARAM_WRITE. -/
def orderParamWrite (f : InFlight) (s : State) : State :=
  writeParam f.entry (param32 f.params 16) (param32 f.params 20) s

/-- R174, R103: a TARIFF_SET. It completes once the slot that stands after the event is known (log 11). -/
def orderTariffSet (f : InFlight) (s : State) : State :=
  let v := param32 f.params 16
  let accept := fun slot => finishLater (.tariff f.entry) (setTariff slot s)
  if v = 0xFFFFFFFF then accept none
  else if v < 4 && v < tariffSlots s.store then accept (some v)
  else completeFail f.entry .badParam (eventTime s) s

/-- R22, R175: measurement is RUNNING at the event in hand: a boundary, the first of a run included, that does not halt.
A RUN_CLEAR that is received while the boundary waits for its reads comes after it. -/
def runningHere (s : State) : Bool := atBoundary s && !s.halting

/-- R175, R22: a CALIBRATE. -/
def orderCalibrate (f : InFlight) (s : State) : State :=
  let ch := param32 f.params 16
  if 27 < ch then completeFail f.entry .badParam (eventTime s) s
  else if !runningHere s then completeFail f.entry .badState (eventTime s) s
  else if (s.channel ch).calibration.isSome then completeFail f.entry .busy (eventTime s) s
  else if (s.channel ch).stuck || (s.link (Fin.ofNat 4 (ch / 7))).state ≠ .running then
    completeFail f.entry .badState (eventTime s) s
  else
    s.setChannel ch { s.channel ch with
      calibration := some { entry := f.entry, firstWindow := s.tb.winNo, sum := 0 } }

/-- R176, R13: a LINK_RESTART. -/
def orderLinkRestart (f : InFlight) (s : State) : State :=
  let n := param32 f.params 16
  let l : Fin 4 := Fin.ofNat 4 n
  if 3 < n then completeFail f.entry .badParam (eventTime s) s
  else if (s.link l).restart.isSome then completeFail f.entry .busy (eventTime s) s
  else if (s.link l).state = .down then completeFail f.entry .badState (eventTime s) s
  else restartLink l f.entry s

/-- R160: a captured order goes to the block that owns its kind; an unknown kind fails with BAD_KIND. -/
def carryOut (f : InFlight) (s : State) : State :=
  if f.kind = 1 then orderLoadConfig f s
  else if f.kind = 2 then orderCloseInterval f s
  else if f.kind = 3 then orderSetTime f s
  else if f.kind = 4 then orderDemandReset f s
  else if f.kind = 5 then orderSnapshot f s
  else if f.kind = 6 then orderParamRead f s
  else if f.kind = 7 then orderParamWrite f s
  else if f.kind = 8 then orderTariffSet f s
  else if f.kind = 9 then orderCalibrate f s
  else if f.kind = 10 then orderLinkRestart f s
  else completeFail f.entry .badKind (eventTime s) s

/-- R160: the captured order of an entry is handed over. -/
def handOver (e : Fin 16) (s : State) : State :=
  match s.inFlight e with
  | some f => carryOut f s
  | none => s

/-- The kind of the captured order of an entry; 0 where there is none. -/
def State.orderKind (s : State) (e : Fin 16) : Nat :=
  match s.inFlight e with
  | some f => f.kind
  | none => 0

/-- R103, R174, R186, R189, R84: one order of the event finishes, once the event's other actions are done. -/
def finishOrder (s : State) (f : Finishing) : State :=
  match f with
  | .tariff e => completeOk e (BitVec.ofNat 64 s.ic.activeSlot) (eventTime s) s
  | .read e n => completeRead e n s
  | .offset e ch stored =>
    completeOk e (signedValue (if activatedHere s then configuredOffset s.store ch else stored)) (eventTime s) s
  | .image e => finishSnapshot e s

/-- The orders that finish with the event do so in the order in which they were handed over (log 11). -/
def finishOrders (s : State) : State :=
  match s.event with
  | some ev => ev.finishing.foldl finishOrder (modEvent (fun ev => { ev with finishing := [] }) s)
  | none => s

/-! ## Answers to the writes of the queue (R164) -/

/-- R201: an answer arrives in time: before 2 ms have passed since the issue (log 14). -/
def inTime (a : Access) (s : State) : Bool := s.tick < a.issuedAt + 20000

/-- The write at the head of the queue is in progress and its answer is in time. -/
def headAnswered (s : State) : Bool :=
  match s.orders.head with
  | some a => inTime a s
  | none => false

/-- R164: the head of the queue leaves it and the next write is issued. -/
def popQueue (s : State) : State :=
  pump { s with orders := { s.orders with queue := s.orders.queue.drop 1, head := none } }

/-- R164: the answer to a TAKEN write. -/
def takenAnswered (s : State) : State :=
  match s.orders.queue with
  | .taken _ :: _ => if headAnswered s then popQueue s else s
  | _ => s

/-- R164: the answer to a completion's first write: its state write is issued. -/
def resultAnswered (s : State) : State :=
  match s.orders.queue with
  | .completion e c false :: rest =>
    if headAnswered s then
      pump { s with orders := { s.orders with queue := .completion e c true :: rest, head := none } }
    else s
  | _ => s

/-- R164, R161: the answer to a completion's state write: the completion is delivered, ORDER is requested, and the index
leaves the in-flight list. -/
def delivered (s : State) : State :=
  match s.orders.queue with
  | .completion e _ true :: _ =>
    if headAnswered s then
      let s := request .order s
      popQueue { s with orders := { s.orders with
        inFlight := s.orders.inFlight.filter (fun f => f.entry ≠ e) } }
    else s
  | _ => s

/-- R84 to R86, R171: every write of an image is answered. -/
def imageWritten (e : Fin 16) (s : State) : State :=
  match s.port.snapshots.find? (fun p => p.entry = e && p.image.isSome && decide (s.tick < p.issuedAt + 20000)) with
  | some p =>
    completeOk e p.seq s.tb.timeValue
      { s with port := { s.port with snapshots := s.port.snapshots.filter (fun q => q.entry ≠ e) } }
  | none => s

end Sys2Proof.Machine
end

