-- ==== Sys2Proof/Machine/Exchange.lean ====
section
/-! DEFINITION. The exchange port (ch. 10): the scan, the header block, bus faults, and the registers. -/

namespace Sys2Proof.Machine

/-! ## The scan (R157, R158) -/

/-- R157, R158: the scan reads the order table; the event waits for it. Where the exchange area cannot be reached no scan is
made. -/
def beginScan (s : State) : State :=
  if canAccess s then
    pauseEvent { s with port := { s.port with scan := some { base := s.port.exbase, issuedAt := s.tick } } }
  else s

/-! ## The header block (R206, R207, 11.3) -/

/-- 11.3: the flags byte. -/
def headerFlags (s : State) : Nat :=
  maskOf [s.port.startRefused, s.store.factory.missing, s.store.factory.unsaved, s.ic.current.isSome,
    s.ic.forced.isSome, s.ic.demandPending, s.store.active.isSome, s.store.pend.isSome]

/-- The code of the fault record's operation. -/
def faultOpCode (f : FaultRecord) : Nat := match f.op with | some op => busOpCode op | none => 0

/-- The code of a direction (R211). -/
def busDirCode : BusDir → Nat | .read => 0 | .write => 1

/-- 11.3: the fields of the header block, from byte 4. The pace is that of the window in progress, nominal while halted
(R207). -/
def headerFields (s : State) : List Byte :=
  leBytes 1 s.port.meas.code ++ leBytes 1 s.port.exchange.code ++ leBytes 1 s.tb.lock.code
    ++ leBytes 1 (headerFlags s) ++ leBytes 1 s.port.resetCause.code ++ leBytes 1 s.ic.activeSlot
    ++ leBytes 1 (holding s.filing).code
    ++ leBytes 1 s.port.fault.kind.code ++ leBytes 1 (busDirCode s.port.fault.dir) ++ leBytes 1 (faultOpCode s.port.fault)
    ++ zeros 2 ++ leBytes 8 s.port.fault.addr.toNat
    ++ leBytes 8 (standingTime s) ++ leBytes 8 s.ic.seq.toNat
    ++ leBytes 4 s.tb.pace ++ leBytes 4 (paceFrequency s.tb.pace)
    ++ leBytes 2 s.filing.nextPage ++ zeros 2 ++ leBytes 4 s.filing.pageSeq.toNat
    ++ leSat 4 (holdingMerges s.filing) ++ leBytes 4 s.store.factory.epoch.toNat
    ++ leBytes 4 (match s.store.active with | some c => c.generation.toNat | none => 0)
    ++ leBytes 4 (match s.store.pend with | some c => c.1.generation.toNat | none => 0)
    ++ (s.links.map (fun k => leBytes 1 k.state.code)).flatten
    ++ (s.links.map (fun k => leBytes 1 k.dropReason.code)).flatten
    ++ leBytes 4 (maskOf (s.channels.map (fun c => c.stuck))) ++ zeros 4
    ++ leBytes 4 s.ic.glitches.toNat ++ leBytes 4 s.ic.unexpectedEnds.toNat ++ leBytes 4 s.ic.ignoredSteps.toNat
    ++ leBytes 4 s.ic.malformedBursts.toNat ++ leBytes 4 s.ic.stuckLows.toNat ++ leBytes 4 s.ic.timeouts.toNat

/-- 11.3: the 112 bytes of the header image. -/
def headerImage (s : State) : List Byte := leBytes 4 s.port.updateCount.toNat ++ headerFields s

/-- R206: the header image is assembled, which raises the update count, and its field writes are issued. -/
def beginHeader (s : State) : State :=
  if canAccess s then
    let s := { s with port := { s.port with updateCount := s.port.updateCount + 1 } }
    { s with port := { s.port with header := some {
        access := { base := s.port.exbase, issuedAt := s.tick }, image := headerImage s, counting := false } } }
  else s

/-- R206: the field writes are answered, and the update count is written in a write of its own. -/
def headerFieldsAnswer (s : State) : State :=
  match s.port.header with
  | some h =>
    if !h.counting && inTime h.access s then
      { s with port := { s.port with
          header := some { h with access := { h.access with issuedAt := s.tick }, counting := true } } }
    else s
  | none => s

/-- R206: the update count write is answered: the header block is written. -/
def updateCountAnswer (s : State) : State :=
  match s.port.header with
  | some h => if h.counting && inTime h.access s then { s with port := { s.port with header := none } } else s
  | none => s

/-! ## Bus faults (R201, R202) -/

/-- 11.2: the bus address of a page of a layout. -/
def pageAddress (base : Word64) (pageBase page : Nat) : Word64 := base + BitVec.ofNat 64 (pageBase + 8192 * page)

/-- The issue and the first bus address of the operation an access belongs to, where it is in progress. `entry` tells
the SNAPSHOTs apart. Every access of an operation counts from the issue of its group (log 23).
DESIGN CHOICE (log 13): a TAKEN write, for which R202 names no operation, counts as COMPLETION. -/
def operation (op : BusOp) (entry : Fin 16) (s : State) : Option Access :=
  match op with
  | .scan => s.port.scan.map (fun a => { a with base := a.base + 4096 })
  | .completion =>
    match s.orders.head, s.orders.queue with
    | some a, .taken e :: _ => some { a with base := a.base + BitVec.ofNat 64 (4096 + 64 * e.val) }
    | some a, .completion e _ _ :: _ => some { a with base := a.base + BitVec.ofNat 64 (4096 + 64 * e.val) }
    | _, _ => none
  | .header => s.port.header.map (fun h => h.access)
  | .ownerRead =>
    match s.filing.transit with
    | some t =>
      if t.stage = .owner then some { base := pageAddress t.base t.pageBase t.page, issuedAt := t.issuedAt } else none
    | none => none
  | .pageWrite =>
    match s.filing.transit with
    | some t =>
      if t.stage = .owner then none else some { base := pageAddress t.base t.pageBase t.page, issuedAt := t.issuedAt }
    | none => none
  | .configRead => s.port.configRead.map (fun r => { r.access with base := r.access.base + 8192 })
  | .snapshot =>
    match s.port.snapshots.find? (fun p => p.entry = entry && p.image.isSome) with
    | some p => some { base := p.addr, issuedAt := p.issuedAt }
    | none => none

/-- R201: the runs of bytes, as offset and length from the operation's first byte, that the group of accesses in progress
reads or writes: the whole of a read; of a write, those of the one group that is issued (R164, 11.4; R206, 11.3; R139,
11.6; R86, 11.7). -/
def groupRuns (op : BusOp) (s : State) : List (Nat × Nat) :=
  match op with
  | .completion =>
    match s.orders.queue with
    | .completion _ _ false :: _ => [(4, 12), (48, 16)]
    | _ => [(0, 2)]
  | .header =>
    match s.port.header with
    | some h => if h.counting then [(0, 4)] else [(4, 108)]
    | none => []
  | .pageWrite =>
    match s.filing.transit with
    | some t => if t.stage = .body then [(64, t.body.length)] else [(0, 64)]
    | none => []
  | .scan => [(0, 1024)]
  | .ownerRead => [(0, 4)]
  | .configRead => [(0, 544)]
  | .snapshot => [(0, 3584)]

/-- R201: where the confirming read of a group of writes goes: the last bytes of its last run. How many is a free value,
at least 1 and at most the run (log 38). -/
def confirmingPlace (run : Nat × Nat) : Nat := run.1 + run.2 - clampNat 1 run.2 (Config.confirmingReadBytes run.2)

/-- The operation reads host memory; the others write, and confirm by a read (R201). -/
def readsOnly (op : BusOp) : Bool :=
  match op with
  | .scan | .ownerRead | .configRead => true
  | .completion | .header | .pageWrite | .snapshot => false

/-- R201, R202: the place of an access of the group in progress, in bytes from the operation's first. A read or a write of
the group lies at the offset given, inside its runs; the confirming read of a group of writes lies where it goes. None:
the group makes no such access. -/
def accessPlace (op : BusOp) (dir : BusDir) (off : Nat) (s : State) : Option Nat :=
  let runs := groupRuns op s
  match readsOnly op, dir with
  | false, .read => runs.getLast?.map confirmingPlace
  | true, .write => none
  | _, _ => if runs.any (fun r => r.1 ≤ off && off < r.1 + r.2) then some off else none

/-- The issue of an access of an operation in progress, and its bus address (R202). -/
def accessInProgress (op : BusOp) (dir : BusDir) (off : Nat) (entry : Fin 16) (s : State) : Option Access :=
  match operation op entry s, accessPlace op dir off s with
  | some a, some p => some { a with base := a.base + BitVec.ofNat 64 p }
  | _, _ => none

/-- R158: the scan is abandoned and nothing is taken; the event goes on. -/
def abandonScan (s : State) : State :=
  if s.port.scan.isSome then resumeEvent { s with port := { s.port with scan := none } } else s

/-- R166: the block read of a LOAD_CONFIG faults; the event goes on. -/
def faultConfigRead (s : State) : State :=
  match s.port.configRead with
  | some r =>
    completeFail r.entry .busFault (eventTime s) (resumeEvent { s with port := { s.port with configRead := none } })
  | none => s

/-- R86, R202: every SNAPSHOT whose image is not yet written fails, in increasing index order. -/
def faultSnapshots (s : State) : State :=
  let failed := (List.finRange 16).filter (fun e => s.port.snapshots.any (fun p => p.entry = e))
  failed.foldl (fun s e => completeFail e .busFault s.tb.timeValue s) { s with port := { s.port with snapshots := [] } }

/-- R165, R206: the queue's write in progress is to be issued again, and the header block write ends. -/
def dropWrites (s : State) : State :=
  { s with orders := { s.orders with head := none }, port := { s.port with header := none } }

/-- R202: the exchange enters FAULTED: the fault record is filled and BUSFAULT is requested. -/
def recordFault (kind : FaultKind) (dir : BusDir) (op : BusOp) (addr : Word64) (s : State) : State :=
  request .busfault { s with port := { s.port with
    exchange := .faulted, fault := { kind, dir, op := some op, addr } } }

/-- R202: the entry to FAULTED, with the end of every operation in progress. -/
def enterFaulted (kind : FaultKind) (dir : BusDir) (op : BusOp) (addr : Word64) (s : State) : State :=
  faultSnapshots (faultConfigRead (abandonScan (returnTransit false (dropWrites (recordFault kind dir op addr s)))))

/-- R201, R202: an access of an operation in progress is answered with an error, in time. -/
def accessError (op : BusOp) (dir : BusDir) (off : Nat) (entry : Fin 16) (s : State) : State :=
  match accessInProgress op dir off entry s with
  | some a =>
    if s.port.exchange = .online && inTime a s then enterFaulted .error dir op a.base s
    else s
  | none => s

/-- R201, R202: 2 ms pass without an answer to an access of an operation in progress. -/
def accessTimeout (op : BusOp) (dir : BusDir) (off : Nat) (entry : Fin 16) (s : State) : State :=
  match accessInProgress op dir off entry s with
  | some a =>
    if s.port.exchange = .online then enterFaulted .timeout dir op a.base (waitUntil (a.issuedAt + 20000) s)
    else s
  | none => s

/-- R203: a RESUME. -/
def resumeExchange (s : State) : State :=
  if s.port.exchange = .faulted && !causeSet .busfault s then
    pump { s with port := { s.port with exchange := .online } }
  else s

/-! ## The registers (R196 to R200, R204, R205) -/

/-- R196: a write to half of EXBASE, while HALTED. A queue that waited for a base goes on (log 20). -/
def writeExbase (hi : Bool) (value : Word32) (s : State) : State :=
  if s.port.meas = .halted then
    let old := s.port.exbase
    let base : Word64 :=
      if hi then (value ++ old.truncate 32 : BitVec 64)
      else ((old >>> 32).truncate 32 ++ (value &&& 0xFFFFF000#32) : BitVec 64)
    pump { s with port := { s.port with exbase := base } }
  else s

/-- R198 to R200: RUN is set. -/
def setRun (s : State) : State :=
  if s.port.run then s
  else
    match s.port.meas with
    | .halted =>
      if s.store.active.isSome then
        request .start { s with port := { s.port with run := true, meas := .starting, startRefused := false } }
      else request .start { s with port := { s.port with startRefused := true } }
    | .stopping => request .start { s with port := { s.port with run := true, meas := .running } }
    | _ => { s with port := { s.port with run := true } }

/-- R199, R200: RUN is cleared. -/
def clearRun (s : State) : State :=
  if !s.port.run then s
  else
    match s.port.meas with
    | .starting => request .start { s with port := { s.port with run := false, meas := .halted } }
    | .running => request .start { s with port := { s.port with run := false, meas := .stopping } }
    | _ => { s with port := { s.port with run := false } }

/-- R197: the RUN field of a write of ENGCTL. -/
def writeRun (run : Bool) (s : State) : State := if run then setRun s else clearRun s

/-- R197: a write of ENGCTL without SRST acts on RUN and on RESUME. The two affect different state, so neither has to come
first (`resumeExchange_writeRun`). -/
def writeControl (run resume : Bool) (s : State) : State :=
  if resume then resumeExchange (writeRun run s) else writeRun run s

/-- R204: a write to INTCAUSE clears the causes whose positions hold 1. -/
def clearCauses (value : Word32) (s : State) : State :=
  { s with port := { s.port with intcause := s.port.intcause &&& ~~~(value.truncate 9) } }

/-- R205: a write to INTMASK stores the nine enables. -/
def writeMask (value : Word32) (s : State) : State :=
  { s with port := { s.port with intmask := value.truncate 9 } }

end Sys2Proof.Machine
end

