-- ==== Sys2Proof/Machine/Decomposition.lean ====
section
/-! DEFINITION. The completion of a window's decomposition (R47): its results and figures go to every consumer, and what follows
from them becomes due. -/

namespace Sys2Proof.Machine

/-- A window of the decomposing half with the spectra of its seven channels. -/
abbrev PointSpectra := PointWindow × List (List (Int × Int))

/-- The total RMS of a position (R52). -/
def positionRms (nom60 : Bool) (p : PointSpectra) (pos : Nat) : Nat := totalRms nom60 (p.2.getD pos [])

/-- Run an action for each position of each point of a window, by point and then by position (log 21). -/
def forPositions (specs : List PointSpectra) (positions : List Nat) (f : PointSpectra → Nat → State → State) (s : State) :
    State :=
  specs.foldl (fun s p => positions.foldl (fun s pos => f p pos s) s) s

/-- R47, R189: the last window RMS of each channel. -/
def takeRms (p : PointSpectra) (pos : Nat) (s : State) : State :=
  let ch := channelOf p.1.point pos
  s.setChannel ch { s.channel ch with lastRms := positionRms s.tb.nom60 p pos }

/-- R37: the amplitude test completes the frequency verdict, which becomes the pending one; a verdict of an ended run is
discarded (R34, R49).
DESIGN CHOICE (log 48): a discarded verdict leaves the last verdict and the last measured pace of R187 as they were. -/
def takeVerdict (d : DecompWindow) (results : List WinResult) (s : State) : State :=
  match d.verdict with
  | none => s
  | some m =>
    let g1 := match results.find? (fun r => r.point = d.cap.cfg.refPoint) with
      | some r => (r.groupV.getD 0 []).getD 0 0
      | none => 0
    let m := amplitudeVerdict m g1
    { s with tb := { s.tb with
        pendingVerdict := some m, lastVerdict := m.verdict, lastMeasured := m.pace.getD 0 } }

/-- R23: one measured window of a calibration. -/
def takeCalibration (d : DecompWindow) (p : PointSpectra) (pos : Nat) (s : State) : State :=
  calibrationStep (channelOf p.1.point pos) d.number (windowLen s.tb.nom60) (positionRms s.tb.nom60 p pos)
    d.cap.cfg.idleFloor (rawSum p.1 pos) s

/-- R21: the channel's window is idle. -/
def windowIdle (nom60 : Bool) (floor : Nat) (p : PointSpectra) (pos : Nat) : Bool :=
  positionRms nom60 p pos < floor && !anySubstituted p.1 pos && !(p.1.stuck.getD pos false)

/-- R21: the idle steps that a window brings, over the current channels of its points. -/
def idleSteps (nom60 : Bool) (d : DecompWindow) (specs : List PointSpectra) : List Due :=
  specs.flatMap (fun p =>
    [3, 4, 5, 6].map (fun pos =>
      Due.idle (Fin.ofNat 28 (channelOf p.1.point pos)) (windowIdle nom60 d.cap.cfg.idleFloor p pos)
        (roundHalfAway (rawSum p.1 pos) (windowLen nom60))))

/-- R123: the steps that a window's results bring to the monitors, in increasing monitor number. The window index is that
before the window is counted (R127). -/
def monitorSteps (d : DecompWindow) (results : List WinResult) (s : State) : List Due :=
  allMonitors.flatMap (fun m =>
    results.flatMap (fun r =>
      (r.bands.filter (fun b => b.mon = m)).map (fun b =>
        Due.monitorStep m b.value (eligibleWindow (d.cap.mons.getD m.val {}) r b) r.point (windowIndex s r.point))))

/-- The captures that wait for a decomposition (R84). -/
def waitingCaptures (s : State) : List Due :=
  (s.port.snapshots.filter (fun p => p.image.isNone)).map (fun p => Due.snapCapture p.entry)

/-- What the completion makes due once the results are taken: the idle steps, the monitor steps and the restarts that
waited for the window (R125), then the closes it completes (R78, R117), then the captures that waited (R84). -/
def dueAfterResults (d : DecompWindow) (specs : List PointSpectra) (steps : List Due) (s : State) : List Due :=
  idleSteps s.tb.nom60 d specs ++ steps ++ restartsDue s
    ++ List.replicate s.acct.closes.length Due.acctFinish ++ List.replicate s.stats.closes.length Due.statFinish
    ++ waitingCaptures s

/-- R47: the decomposition of the window in the decomposing half completes, in one event.
DESIGN CHOICE (log 21): its consumers act in this order, and calibrations that end here do so by point and then by
position, which R23 does not say. -/
def decompose (s : State) : State :=
  match s.spectral.decomposing with
  | none => s
  | some d =>
    let specs := d.points.map (fun w => (w, pointSpectra s.tb.nom60 w))
    let metering := specs.map (fun p => pointResult s.tb.nom60 d p.1 p.2)
    let results := metering ++ (aggregateResult d metering).toList
    let steps := monitorSteps d results s
    let s := { s with spectral := { s.spectral with decomposing := none } }
    let s := takeVerdict d results (forPositions specs (List.range 7) takeRms s)
    let s := statTakeWindow d.cap.cfg results (acctTakeWindow d results s)
    let s := forPositions specs (List.range 7) (takeCalibration d) s
    pushDue (dueAfterResults d specs steps s) s

/-- R50: a decomposition in progress is discarded: a discard notice reaches every point its results would have
covered. A notice carries no end time: the most recent window of R85 and R86 (`lastSeq`, `lastEnd`) stays the last one
whose results were taken (DESIGN CHOICE, log 46). -/
def discardWindow (s : State) : State :=
  match s.spectral.decomposing with
  | none => { s with spectral := {} }
  | some d => (coveredPoints d).foldl (fun s p => takeDiscard p s) { s with spectral := {} }

end Sys2Proof.Machine
end

