-- ==== Sys2Proof/Machine/Resets.lean ====
section
/-! DEFINITION. The three resets (R208): power-on and pin reset with the factory store load (R191 to R193), and what a soft
reset keeps and clears in each block (R25, R45, R67, R88, R111, R132, R155, R178, R194, R209). -/

namespace Sys2Proof.Machine

/-! ## Power-on and pin reset -/

/-- R121: the settings of a band monitor after power-on or pin reset. -/
def defaultSettings (nom60 : Bool) : MonSettings := { hi := windowLen nom60 / 2 }

/-- A band monitor after power-on or pin reset. -/
def defaultMonitor (nom60 : Bool) : Monitor :=
  let m := defaultSettings nom60
  { stored := m, force := m, cur := m }

/-- Every block at its power-on values, on a nominal system. The queue of commands and the level of the sync line are not
the engine's to reset. -/
def freshState (nom60 : Bool) (phase : ResetPhase) (cause : ResetCause) (s : State) : State :=
  { pending := s.pending
    phase := phase
    tb := { nom60 := nom60, pace := nominalPace nom60 }
    stats := { monitors := List.replicate 4 (defaultMonitor nom60) }
    ic := { decoder := { lineLow := s.ic.decoder.lineLow } }
    port := { resetCause := cause } }

/-- 10 ms: the limit of a transfer to or from the factory store (R191). -/
def transferTicks : Nat := 100000

/-- R192: the factory gains and offsets are those of every channel while no configuration is active. -/
def factoryChannels (f : Factory) : List Channel :=
  (List.range 28).map (fun ch => { offset := f.offsets.getD ch 0 })

/-- R191: the load has ended and the reset with it: the reset cause is set, and the free tick, the channels and the sync
decoder start. -/
def endLoad (cause : ResetCause) (s : State) : State :=
  restartDecoder { s with
    phase := .running
    channels := factoryChannels s.store.factory
    tb := { s.tb with freeTickAt := s.tick + 2000000 }
    port := { s.port with resetCause := cause } }

/-- Change what the load leaves. -/
def modFactory (f : Factory → Factory) (s : State) : State :=
  { s with store := { s.store with factory := f s.store.factory } }

/-- The next transfer of the load is issued. -/
def nextTransfer (stage : LoadStage) (cause : ResetCause) (s : State) : State :=
  { s with phase := .loading stage s.tick cause }

/-- R191 to R193: a transfer has ended, with the words it returned, or none where it failed. -/
def loadStep (stage : LoadStage) (cause : ResetCause) (words : Option (List Word32)) (s : State) : State :=
  match stage with
  | .identity => nextTransfer .epochRead cause (modFactory (judgeIdentity (words.getD [])) s)
  | .epochRead => nextTransfer .epochWrite cause (modFactory (fun f => { f with epoch := nextEpoch (words.getD []) }) s)
  | .epochWrite => nextTransfer .epochVerify cause (modFactory (fun f => { f with unsaved := words.isNone }) s)
  | .epochVerify =>
    endLoad cause (modFactory (fun f => { f with
      unsaved := f.unsaved || words ≠ some (epochBlock f.epoch) }) s)

/-! ## The soft reset -/

/-- The event in hand keeps no order still to be handed over or to finish, no retry and no header write; its close and
its tariff evaluation are still decided (log 35). -/
def withoutOrders (ds : List Due) : List Due :=
  ds.filter (fun d =>
    match d with
    | .handOver _ | .finishOrders | .heldRetry | .header => false
    | _ => true)

/-- R177: the reads that the event in hand waits for are abandoned, and the event goes on without further orders. -/
def abandonReads (s : State) : State :=
  let s := { s with port := { s.port with scan := none, configRead := none } }
  if waitsForReads s then
    let s := resumeEvent s
    { s with due := withoutOrders s.due }
  else s

/-- R177, R178: the order unit: what has no completion is ended, and the write in progress is issued again. -/
def softOrders (s : State) : State :=
  { s with
    orders := { s.orders with
      inFlight := s.orders.inFlight.map (fun f => { f with ended := !f.completed })
      head := none
      resetDue := true }
    ic := { s.ic with closeOrders := [], demandOrders := [] }
    port := { s.port with snapshots := [] } }

/-- R25: the links and the channels. -/
def softLinks (s : State) : State :=
  { s with
    links := List.replicate 4 ({} : Link)
    channels := (List.range 28).map (fun ch => { offset := configuredOffset s.store ch }) }

/-- R45: the timebase. The clock counts on. -/
def softTimebase (s : State) : State :=
  { s with tb := { lockReset s.tb with
      lastVerdict := .none, lastMeasured := 0, strobe := 0, winStart := 0, prevWinStart := 0, winLocked := false
      freeTickAt := s.tick + 2000000 } }

/-- R98: the RESET close of an open interval, at the reset itself. -/
def softClose (s : State) : State := passClose Cause.reset.set s.tb.timeValue s

/-- R111: the interval controller. -/
def softIntervals (s : State) : State :=
  restartDecoder { s with ic := { s.ic with pendingEnd := false, pendingStep := false, lastTime := none } }

/-- R194, R208, R209: the configuration store and the exchange port. A header block write in progress is abandoned
(log 42). -/
def softPort (s : State) : State :=
  { s with
    store := { s.store with pend := none }
    port := { s.port with
      run := false, meas := .halted, intcause := 0, startRefused := false, resetCause := .soft, header := none } }

/-- What a soft reset leaves to finish: the closes not yet finished (R98), then the statistics unit (R131). -/
def softDue (s : State) : List Due :=
  List.replicate s.acct.closes.length Due.acctFinish ++ List.replicate s.stats.closes.length Due.statFinish
    ++ [.statReset]

/-- R208: a soft reset, once the event in hand has been brought to its end. -/
def softBlocks (s : State) : State :=
  let s := softClose (discardWindow (returnTransit true (softOrders s)))
  let s := softPort (softIntervals (softTimebase (softLinks s)))
  pump (pushDue (softDue s) s)

end Sys2Proof.Machine
end

