-- ==== Sys2Proof/Machine/Boundaries.lean ====
section
/-! DEFINITION. Boundaries and free ticks (2.2, 2.3): the event in hand, the end of a window, the start and the halt of a run,
and the window that begins. -/

namespace Sys2Proof.Machine

/-! ## The event in hand -/

/-- What falls at an event's instant. -/
def newEvent (kind : EventKind) (halting : Bool) (s : State) : Event :=
  { kind, halting, tick := s.tick, tOld := s.tb.timeValue, tNew := s.tb.timeValue, intervalEnd := s.ic.pendingEnd
    tariffStep := s.ic.pendingStep, demand := s.ic.demandPending, unfiled := s.ic.unfiled
    inTransit := s.filing.transit.isSome }

/-- An event falls now: what the sync line left pending is taken with it (R107). -/
def beginEvent (kind : EventKind) (halting : Bool) (ds : List Due) (s : State) : State :=
  { s with
    event := some (newEvent kind halting s)
    ic := { s.ic with pendingEnd := false, pendingStep := false }
    due := ds }

/-- What every event does from its scan on. A TARIFF_STEP is taken once the orders have been handed over, so after an
activation at a free tick and before one at a boundary (log 31). -/
def eventTail : List Due :=
  [.scan, .intervalEnd, .tariffStep, .clockCheck, .timeoutCheck, .demandApply, .decide, .finishOrders, .heldRetry,
    .header, .endEvent]

/-- What a boundary that ends a window does. What ends with the window, a restart at its 50th boundary or a failing
calibration among it, ends before the orders of the boundary's scan (log 44). -/
def boundaryDue : List Due :=
  allLinks.map Due.finishLink ++ [.closeWindow, .lockStep, .monitorEffect] ++ eventTail

/-- What a free tick and the first boundary of a run do. -/
def tickDue : List Due := .monitorEffect :: eventTail

/-! ## The end of a window -/

/-- R31: the record of the window that ends at the event in hand. -/
def windowRecord (ev : Event) (s : State) : WinRecord :=
  { startTime := s.tb.winStartTime, endTime := ev.tOld, pace := s.tb.pace
    duration := windowLen s.tb.nom60 * s.tb.pace, freq := paceFrequency s.tb.pace, locked := s.tb.winLocked
    seq := s.ic.seq, slot := match s.ic.current with | some o => o.slot | none => s.ic.activeSlot }

/-- R20, R24, R46: what the window store holds of one point for the window that ends. -/
def pointWindow (s : State) (p : Nat) : PointWindow :=
  let k := s.link (Fin.ofNat 4 p)
  let stuck := (List.range 7).map (fun pos => (s.channel (channelOf p pos)).stuckAtStart)
  { point := p, slots := k.slots, subst := substCount k.slots
    cls := windowClass (k.state = .running) (substCount k.slots) (stuck.any (fun b => b))
    stuck := stuck, mark := (List.range 7).any (fun pos => (s.channel (channelOf p pos)).mark) }

/-- The settings that govern the window in progress (R48). -/
def governing (s : State) : Captured := s.spectral.cap.getD { cfg := s.store.active.getD {}, mons := [] }

/-- R35 to R37: the crossing list after the scan of the ending window, and the first part of the verdict on it. -/
def refLink (s : State) : Link := s.link (Fin.ofNat 4 (governing s).cfg.refPoint)
def endingCrossings (s : State) : List Nat := scanCrossings s.tb (refLink s)
def endingVerdict (s : State) : Measured :=
  boundaryVerdict s.tb.nom60 (linkHeld (refLink s)) (measuredPace s.tb.nom60 s.tb.winStart (endingCrossings s))

/-- R46: the half that has been filling becomes the decomposing half. At the boundary that halts it carries no verdict, which
R34 and R49 would discard; parameters 20 and 21 then stay as they were (DESIGN CHOICE, log 48). -/
def endingWindow (ev : Event) (s : State) : DecompWindow :=
  { record := windowRecord ev s, cap := governing s
    points := (maskPoints (governing s).cfg.enabledMask).map (pointWindow s)
    verdict := if ev.halting then none else some (endingVerdict s), number := s.tb.winNo }

/-- R35: the sample of V1 at the last index of the window that ends. -/
def lastV1 (tb : Timebase) (k : Link) : Option EdgeSample :=
  k.slots.head?.map (fun sl =>
    { good := (sl.ch.getD 0 {}).good, val := (sl.ch.getD 0 {}).val
      instant := indexInstant tb.winStart tb.pace (windowLen tb.nom60 - 1) })

/-- R2, R8: a link hands its substituted count over and begins the record of the next window. -/
def rollLink (tb : Timebase) (k : Link) : Link :=
  if k.state = .down then k
  else
    openRecord { k with
      substituted := k.substituted + BitVec.ofNat 32 (substCount k.slots), prevV1 := lastV1 tb k }

/-- R30: the window that begins here starts where the one that ends here stops. -/
def rollTimebase (crossings : List Nat) (tb : Timebase) : Timebase :=
  { tb with
    crossings := crossings, strobe := 0, prevWinStart := tb.winStart
    winStart := tb.winStart + windowLen tb.nom60 * tb.pace, winNo := tb.winNo + 1 }

/-- R10, R14, R23, R200: measurement reaches HALTED: restarts and calibrations fail, every link goes DOWN, and the free
tick resumes (R33). A restart whose 50th boundary this is fails as the others do, with BAD_STATE (log 39). -/
def haltRun (s : State) : State :=
  let s := allLinks.foldl (fun s l => failCalibrationsOf l (failRestart l .badState s)) s
  request .start { s with
    links := s.links.map linkDown
    spectral := { s.spectral with cap := none }
    tb := { s.tb with freeTickAt := s.tick + 2000000 }
    port := { s.port with meas := .halted } }

/-- What the end of a window makes due at its boundary: the ends of calibrations (R23), the offset changes that arrived
before it (R17), the clip runs (R18, R19) and the restarts in flight (R14). The runs advance for every point that had a
window there, at the boundary that halts too, where R10 takes the links DOWN (log 33). The completions that these bring
about join the queue in this order, each kind by number (log 21). -/
def afterWindow (d : DecompWindow) (s : State) : List Due :=
  (allChannels.filter (fun ch => (s.channel ch.val).calibration.isSome)).map Due.calibrationCheck
    ++ (allChannels.filter (fun ch => (s.channel ch.val).request.isSome)).map Due.offsetEffect
    ++ d.points.flatMap (fun w =>
        (List.range 7).map (fun pos => Due.clip (Fin.ofNat 28 (channelOf w.point pos)) (windowClipped w pos)))
    ++ (allLinks.filter (fun l => (s.link l).restart.isSome)).map Due.restartCheck

/-- R2, R8, R24, R31, R32, R35, R36, R46: the window in progress ends at the event in hand, once its links have been
finished. Where the boundary halts, the halt comes before the restart checks of `afterWindow` (log 39). -/
def closeWindow (s : State) : State :=
  match s.event with
  | none => s
  | some ev =>
    let d := endingWindow ev s
    let crossings := endingCrossings s
    let s := { s with
      spectral := { s.spectral with decomposing := some d }
      links := s.links.map (rollLink s.tb)
      channels := s.channels.map (fun c => { c with mark := false })
      tb := rollTimebase crossings s.tb }
    let s := if ev.halting then haltRun s else s
    pushDue (afterWindow d s) s

/-! ## The start of a run (R10, R34, R199) -/

/-- R10: the links of enabled points go to SEEKING. -/
def startLinks (mask : Nat) (links : List Link) : List Link :=
  links.mapIdx (fun l k => if mask.testBit l then linkStart k else k)

/-- R34, R199: measurement enters RUNNING at its first boundary, which falls now. -/
def startRun (s : State) : State :=
  request .start { s with
    tb := { lockReset s.tb with
      runStart := s.tick, winStart := 0, prevWinStart := 0, strobe := 0, winNo := s.tb.winNo + 1, winLocked := false }
    links := startLinks (s.store.active.getD {}).enabledMask s.links
    port := { s.port with meas := .running } }

/-- R33, R34: a free tick instant falls now: the first boundary of a run where measurement is found STARTING, else a free
tick, with the next one 2,000,000 ticks away. -/
def tickInstant (s : State) : State :=
  if s.port.meas = .starting then beginEvent .first false tickDue (startRun s)
  else beginEvent .tick false tickDue { s with tb := { s.tb with freeTickAt := s.tick + 2000000 } }

/-! ## The end of an event -/

/-- R20, R31, R48: what the window that begins at the event takes from its start. -/
def startWindow (ev : Event) (s : State) : State :=
  { s with
    spectral := { s.spectral with
      cap := s.store.active.map (fun c => { cfg := c, mons := s.stats.monitors.map (fun k => k.force) }) }
    channels := s.channels.map (fun c => { c with stuckAtStart := c.stuck })
    tb := { s.tb with winStartTime := ev.tNew }
    ic := { s.ic with lastTime := some ev.tNew } }

/-- What fell while the reads of an event were outstanding, as of its ticks, and then what falls now (log 9). -/
def replay (deferred : List Due) : List Due := if deferred = [] then [] else deferred ++ [.asOf none]

/-- The event in hand is over; what fell while its reads were outstanding follows (log 9). -/
def endEvent (s : State) : State :=
  match s.event with
  | none => s
  | some ev =>
    let s := { s with channels := s.channels.map (settleRequest (measuring s)) }
    let s := if measuring s then startWindow ev s else { s with ic := { s.ic with lastTime := none } }
    { s with event := none, due := replay ev.deferred ++ s.due }

/-- R76, R100, R112: an event without a close: the tariff evaluation stands, and at the first boundary of a run the first
interval opens, at the interval controller and at both units. -/
def settleInterval (s : State) : State :=
  let s := settleTariff s
  match s.event with
  | some ev => if ev.kind = .first then statStart { s with acct := acctStart s.acct } else s
  | none => s

end Sys2Proof.Machine
end

