-- ==== Sys2Proof/Machine/Events.lean ====
section
/-! DEFINITION. What is due inside the step in hand (spec/95): each part whole and indivisible, in order. A part whose condition
has arisen and which the command table names as a row waits for that row's command; `settle` brings it about before
anything else happens (log 4). -/

namespace Sys2Proof.Machine

/-! ## Strobes -/

/-- R30, R2, R6, R7, R11: the next strobe of the window in progress, at its instant. Links that drop at it do so by
number (DESIGN CHOICE, log 21). -/
def strobeStep (s : State) : State :=
  let s := waitUntil (strobeAt s.tb (s.tb.strobe + 1)) s
  allLinks.foldr strobeLink { s with tb := { s.tb with strobe := s.tb.strobe + 1 } }

/-! ## Parts that the event in hand asks for -/

/-- R94: a pending INTERVAL_END is taken at the event in hand. -/
def intervalEndDue (s : State) : Bool :=
  match s.event with
  | some ev => ev.intervalEnd
  | none => false

/-- R102, R103: a pending TARIFF_STEP is taken at the event in hand, unless a TARIFF_SET was taken there. -/
def tariffStepDue (s : State) : Bool :=
  match s.event with
  | some ev => ev.tariffStep && ev.tariffSet.isNone
  | none => false

/-- Carry out a part where its condition has arisen. -/
def onlyIf (b : State → Bool) (f : State → State) (s : State) : State := if b s then f s else s

/-- A capture still waits. -/
def capturePending (e : Fin 16) (s : State) : Bool :=
  s.port.snapshots.any (fun p => p.entry = e && p.image.isNone)

/-! ## One part -/

/-- One part of what is due. -/
def microStep (d : Due) (s : State) : State :=
  match d with
  | .frame l bytes => frameStep l bytes s
  | .seekFrame l bytes => seekingFrame l bytes s
  | .enterRunning l bytes => enterRunning l bytes s
  | .drop l reason => dropLink l reason s
  | .strobe => strobeStep s
  | .finishLink l => finishLink l s
  | .closeWindow => closeWindow s
  | .calibrationCheck ch => calibrationCheck ch s
  | .offsetEffect ch => offsetEffect ch s
  | .clip ch clipped => clipStep ch clipped s
  | .restartCheck l => restartCheck l s
  | .lockStep => lockStep s
  | .monitorEffect => monitorEffect s
  | .scan => beginScan s
  | .takeOrders table => takeOrders table s
  | .handOver e => handOver e s
  | .intervalEnd => onlyIf intervalEndDue takeIntervalEnd s
  | .tariffStep => onlyIf tariffStepDue takeTariffStep s
  | .clockCheck => onlyIf clockArises (addCause .clock) s
  | .timeoutCheck => onlyIf timeoutArises takeTimeout s
  | .demandApply => onlyIf demandApplies applyDemandReset s
  | .decide => decideClose s
  | .activate cfg e => activate cfg e s
  | .close => closeEvent s
  | .settleTariff => settleInterval s
  | .finishOrders => finishOrders s
  | .heldRetry => onlyIf canRetry retryHeld s
  | .header => beginHeader s
  | .endEvent => endEvent s
  | .decompose => decompose s
  | .idle ch isIdle mean => idleStep ch isIdle mean s
  | .monitorStep m value eligible point index => monitorStep m value eligible point index s
  | .monitorRestart m => monitorRestart m s
  | .acctFinish => onlyIf acctCanFinish acctFinishStep s
  | .statFinish => onlyIf statCanFinish statFinishStep s
  | .fileComplete seq => completeFile seq s
  | .snapCapture e => captureSnapshot e s
  | .statReset => statReset s
  | .asOf t => { s with asOf := t }

/-- The part is a row of the command table whose condition has arisen. -/
def named (d : Due) (s : State) : Bool :=
  match d with
  | .enterRunning _ _ | .drop _ _ | .activate _ _ | .monitorRestart _ | .fileComplete _ => true
  | .offsetEffect ch => (s.channel ch.val).request.isSome
  | .clip ch clipped => becomesStuck (s.channel ch.val) clipped || becomesNormal (s.channel ch.val) clipped
  | .restartCheck l => restartExpires (s.link l)
  | .lockStep => lockAcquires s || holdoverExpires s
  | .monitorEffect => settingsWait s
  | .handOver e => 1 ≤ s.orderKind e && s.orderKind e ≤ 10
  | .intervalEnd => intervalEndDue s
  | .tariffStep => tariffStepDue s
  | .clockCheck => clockArises s
  | .timeoutCheck => timeoutArises s
  | .demandApply => demandApplies s
  | .heldRetry => canRetry s
  | .idle ch isIdle _ => idleReaches s ch isIdle
  | .monitorStep m value eligible _ _ => turnsOn (s.monitor m) value eligible
  | .acctFinish => acctCanFinish s
  | .statFinish => statCanFinish s
  | .snapCapture e => capturePending e s
  | _ => false

/-! ## Running what is due -/

/-- A bound on the parts still to come: each part brings a bounded number of further parts. -/
def fuelFor (s : State) : Nat :=
  4096 + 128 * (s.due.length + match s.event with | some ev => ev.todo.length + ev.deferred.length | none => 0)

/-- Run what is due up to the first part that a command names. -/
def advanceFor : Nat → State → State
  | 0, s => s
  | fuel + 1, s =>
    match s.due with
    | [] => s
    | d :: ds => if named d { s with due := ds } then s else advanceFor fuel (microStep d { s with due := ds })

/-- Run what is due up to the first part that a command names. -/
def advance (s : State) : State := advanceFor (fuelFor s) s

/-- Run all that is due. -/
def settleFor : Nat → State → State
  | 0, s => s
  | fuel + 1, s =>
    match s.due with
    | [] => s
    | d :: ds => settleFor fuel (microStep d { s with due := ds })

/-- Run all that is due. -/
def settle (s : State) : State := settleFor (fuelFor s) s

/-- Run what is due through the first named part that a command stands for; none where no such part comes. -/
def reachFor (wanted : Due → State → Bool) : Nat → State → Option State
  | 0, _ => none
  | fuel + 1, s =>
    match s.due with
    | [] => none
    | d :: ds =>
      let rest := { s with due := ds }
      if named d rest && wanted d rest then some (microStep d rest)
      else reachFor wanted fuel (microStep d rest)

/-- The command of a part inside the step in hand: the part comes about, and what follows it up to the next named part.
Where no such part is due, nothing changes (log 3). -/
def perform (wanted : Due → State → Bool) (s : State) : State :=
  match reachFor wanted (fuelFor s) s with
  | some s' => advance s'
  | none => s

/-- A command from outside, `dt` ticks after the one before: all that is due comes first, then time passes, then the
command acts. While a power-on or pin reset is in progress only time passes (R195). -/
def fromOutside (dt : Nat) (act : State → State) (s : State) : State :=
  if inReset s then elapse dt s else advance (act (elapse dt (settle s)))

/-- A command of the engine's own timers: all that is due comes first, then time passes up to the instant, then the
command acts. Where it has no instant, nothing changes (log 3). -/
def fromTimer (instant : State → Option Nat) (act : State → State) (s : State) : State :=
  if inReset s then s
  else
    match instant (settle s) with
    | some t => advance (act (waitUntil t (settle s)))
    | none => s

/-! ## Instants and acts of the timed commands -/

/-- R33: the instant of the next free tick, while HALTED or STARTING. -/
def freeTickInstant (s : State) : Option Nat :=
  if !measuring s && s.event.isNone then some s.tb.freeTickAt else none

/-- R47: the instant by which the decomposition of a run's last window has completed: N nominal paces after the boundary
at which measurement reached HALTED. -/
def haltedDeadline (tb : Timebase) : Nat :=
  tb.runStart + ceilDiv (tb.winStart + windowLen tb.nom60 * nominalPace tb.nom60) 256

/-- The decomposition of a run's last window is still in progress past that instant. -/
def overdueDecomposition (s : State) : Bool :=
  !measuring s && s.spectral.decomposing.isSome && haltedDeadline s.tb < s.tick

/-- R33, R47: a free tick instant; a decomposition that is overdue there has completed before it (log 25). -/
def reachTick (s : State) : State :=
  tickInstant (if overdueDecomposition s then settle (pushDue [.decompose] s) else s)

/-- The strobes that wait for the event in hand to end. -/
def waitingStrobes (s : State) : Nat :=
  match s.event with
  | some ev => (ev.deferred.filter (· = .strobe)).length
  | none => 0

/-- R30: the instant of the next strobe of the window in progress. -/
def strobeInstant (s : State) : Option Nat :=
  let n := s.tb.strobe + waitingStrobes s + 1
  if measuring s && n < windowLen s.tb.nom60 then some (strobeAt s.tb n) else none

/-- What falls while the event in hand waits for its reads follows when it ends, as of the tick on which it fell
(log 9). -/
def orDefer (d : Due) (s : State) : State :=
  match s.event with
  | some _ => modEvent (fun ev => { ev with deferred := ev.deferred ++ [.asOf (some s.tick), d] }) s
  | none => pushDue [d] s

/-- R30: the instant from which a boundary ends the window in progress. -/
def boundaryInstant (s : State) : Option Nat := if measuring s && s.event.isNone then some s.tick else none

/-- R30, R47: what the engine does on its own before the boundary: the strobes still to come in the window, and the
decomposition of the window before it (log 25). -/
def beforeBoundary (s : State) : State :=
  let s := settle (pushDue (List.replicate (windowLen s.tb.nom60 - 1 - s.tb.strobe) Due.strobe) s)
  if s.spectral.decomposing.isSome then settle (pushDue [.decompose] s) else s

/-- R30, R32: the boundary that ends the window in progress. -/
def reachBoundary (s : State) : State :=
  let s := beforeBoundary s
  let s := waitUntil (strobeAt s.tb (windowLen s.tb.nom60)) s
  beginEvent .boundary (s.port.meas = .stopping) boundaryDue s

/-- R47: the decomposition in progress completes. -/
def completeDecomposition (s : State) : State :=
  if s.spectral.decomposing.isSome then orDefer .decompose s else s

/-- R159: the reads of the scan are answered in time. -/
def scanAnswered (table : List Byte) (s : State) : State :=
  match s.port.scan with
  | some a =>
    if inTime a s then
      pushDue [.takeOrders table] (resumeEvent { s with port := { s.port with scan := none } })
    else s
  | none => s

/-- R166, R180: the reads of a configuration block are answered in time. -/
def blockAnswered (block : List Byte) (s : State) : State :=
  match s.port.configRead with
  | some r =>
    if inTime r.access s then
      judgeBlock block r.entry (resumeEvent { s with port := { s.port with configRead := none } })
    else s
  | none => s

/-- A transit's access is answered in time. -/
def transitInTime (s : State) : Bool :=
  match s.filing.transit with
  | some t => s.tick < t.issuedAt + 20000
  | none => false

/-- R208: a soft reset. -/
def softReset (s : State) : State := softBlocks (settle (abandonReads s))

/-- R197: a write of ENGCTL acts through its three fields. With SRST it is the soft reset, and RUN and RESUME of the same
write do not act. -/
def writeEngctl (run resume srst : Bool) (s : State) : State :=
  if srst then softReset s else writeControl run resume s

end Sys2Proof.Machine
end

