-- ==== Sys2Proof/Machine/BoundaryCommands.lean ====
section
/-! DEFINITION. The meanings of the commands that come about inside a boundary or free tick before its orders: LOCK_ACQUIRED,
HOLDOVER_EXPIRY, CHANNEL_STUCK, CHANNEL_NORMAL, OFFSET_CHANGE_EFFECT, MONITOR_SETTINGS_EFFECT, LINK_RESTART_TIMEOUT,
and those of the band monitors, MONITOR_ON and MONITOR_RESTART. -/

namespace Sys2Proof.Machine

/-- LOCK_ACQUIRED (R40): the step takes the third consecutive steady verdict. -/
def execLockAcquired (s : State) : Host.Outcome State Fault Refusal :=
  .next (perform (fun d s => match d with | .lockStep => lockAcquires s | _ => false) s)

/-- HOLDOVER_EXPIRY (R42): the step takes the 150th consecutive verdict other than VALID. -/
def execHoldoverExpiry (s : State) : Host.Outcome State Fault Refusal :=
  .next (perform (fun d s => match d with | .lockStep => holdoverExpires s | _ => false) s)

/-- CHANNEL_STUCK (R18): the channel's clip run reaches 200. -/
def execChannelStuck (ch : Fin 28) (s : State) : Host.Outcome State Fault Refusal :=
  .next (perform (fun d s => match d with
    | .clip c clipped => c = ch && becomesStuck (s.channel c.val) clipped
    | _ => false) s)

/-- CHANNEL_NORMAL (R19): the channel's clear run reaches 10. -/
def execChannelNormal (ch : Fin 28) (s : State) : Host.Outcome State Fault Refusal :=
  .next (perform (fun d s => match d with
    | .clip c clipped => c = ch && becomesNormal (s.channel c.val) clipped
    | _ => false) s)

/-- OFFSET_CHANGE_EFFECT (R17): a requested offset takes effect at the boundary. -/
def execOffsetChangeEffect (ch : Fin 28) (s : State) : Host.Outcome State Fault Refusal :=
  .next (perform (fun d _ => match d with | .offsetEffect c => c = ch | _ => false) s)

/-- MONITOR_SETTINGS_EFFECT (R121): stored settings come into force. -/
def execMonitorSettingsEffect (s : State) : Host.Outcome State Fault Refusal :=
  .next (perform (fun d _ => match d with | .monitorEffect => true | _ => false) s)

/-- LINK_RESTART_TIMEOUT (R14): the 50th boundary after the restart was taken. -/
def execLinkRestartTimeout (link : Fin 4) (s : State) : Host.Outcome State Fault Refusal :=
  .next (perform (fun d _ => match d with | .restartCheck l => l = link | _ => false) s)

/-- MONITOR_ON (R123): a monitor becomes ACTIVE. -/
def execMonitorOn (m : Fin 4) (s : State) : Host.Outcome State Fault Refusal :=
  .next (perform (fun d _ => match d with | .monitorStep k _ _ _ _ => k = m | _ => false) s)

/-- MONITOR_RESTART (R125): a monitor restarts under the settings in force. -/
def execMonitorRestart (m : Fin 4) (s : State) : Host.Outcome State Fault Refusal :=
  .next (perform (fun d _ => match d with | .monitorRestart k => k = m | _ => false) s)

end Sys2Proof.Machine
end

