-- ==== Sys2Proof/Machine/BusCommands.lean ====
section
/-! DEFINITION. The meanings of the bus commands (ch. 8, 10): the answers to the scan, to a configuration block read, to the
writes of a header block, of a SNAPSHOT image and of the completion queue, and the two bus faults. -/

namespace Sys2Proof.Machine

/-- HEADER_FIELDS_ANSWERED (R206): the update count is written. -/
def execHeaderFieldsAnswered (dt : Nat) (s : State) : Host.Outcome State Fault Refusal :=
  .next (fromOutside dt headerFieldsAnswer s)

/-- UPDATE_COUNT_WRITE_ANSWERED (R206): the header block is written. -/
def execUpdateCountWriteAnswered (dt : Nat) (s : State) : Host.Outcome State Fault Refusal :=
  .next (fromOutside dt updateCountAnswer s)

/-- BUS_ACCESS_ERROR (R202): an access of an operation in progress is answered with an error. -/
def execBusAccessError (dt : Nat) (op : BusOp) (dir : BusDir) (off : Nat) (entry : Fin 16) (s : State) :
    Host.Outcome State Fault Refusal :=
  .next (fromOutside dt (accessError op dir off entry) s)

/-- BUS_ACCESS_TIMEOUT (R201, R202): an access of an operation in progress is not answered within 2 ms. -/
def execBusAccessTimeout (op : BusOp) (dir : BusDir) (off : Nat) (entry : Fin 16) (s : State) :
    Host.Outcome State Fault Refusal :=
  .next (fromTimer (fun s => some s.tick) (accessTimeout op dir off entry) s)

/-- SCAN_READS_ANSWERED (R159): the entries are taken and their orders handed over. -/
def execScanReadsAnswered (dt : Nat) (table : List Byte) (s : State) : Host.Outcome State Fault Refusal :=
  .next (fromOutside dt (scanAnswered table) s)

/-- CONFIG_BLOCK_READ_DONE (R180): the block is judged. -/
def execConfigBlockReadDone (dt : Nat) (block : List Byte) (s : State) : Host.Outcome State Fault Refusal :=
  .next (fromOutside dt (blockAnswered block) s)

/-- SNAPSHOT_WRITTEN (R86): every write of the image is answered. -/
def execSnapshotWritten (dt : Nat) (entry : Fin 16) (s : State) : Host.Outcome State Fault Refusal :=
  .next (fromOutside dt (imageWritten entry) s)

/-- TAKEN_WRITE_ANSWERED (R164). -/
def execTakenWriteAnswered (dt : Nat) (s : State) : Host.Outcome State Fault Refusal :=
  .next (fromOutside dt takenAnswered s)

/-- COMPLETION_RESULT_WRITTEN (R164): the completion's first write is answered. -/
def execCompletionResultWritten (dt : Nat) (s : State) : Host.Outcome State Fault Refusal :=
  .next (fromOutside dt resultAnswered s)

/-- COMPLETION_DELIVERED (R164): the completion's state write is answered. -/
def execCompletionDelivered (dt : Nat) (s : State) : Host.Outcome State Fault Refusal :=
  .next (fromOutside dt delivered s)

end Sys2Proof.Machine
end

