-- ==== Sys2Proof/Machine/FilingCommands.lean ====
section
/-! DEFINITION. The meanings of the commands that finish a close and file it (ch. 4, 6, 7): ACCOUNTING_CLOSE_FINISH,
STATISTICS_CLOSE_FINISH, FILE_COMPLETE, HELD_FILE_RETRY, OWNER_WORD_ANSWER, PAGE_BODY_ANSWERED and
PAGE_WRITE_COMPLETE. -/

namespace Sys2Proof.Machine

/-- ACCOUNTING_CLOSE_FINISH (R78): the accounting unit finishes a close. -/
def execAccountingCloseFinish (s : State) : Host.Outcome State Fault Refusal :=
  .next (perform (fun d _ => match d with | .acctFinish => true | _ => false) s)

/-- STATISTICS_CLOSE_FINISH (R117): the statistics unit finishes a close. -/
def execStatisticsCloseFinish (s : State) : Host.Outcome State Fault Refusal :=
  .next (perform (fun d _ => match d with | .statFinish => true | _ => false) s)

/-- FILE_COMPLETE (R133): both sets of parts have arrived; the file is joined and placed. -/
def execFileComplete (s : State) : Host.Outcome State Fault Refusal :=
  .next (perform (fun d _ => match d with | .fileComplete _ => true | _ => false) s)

/-- HELD_FILE_RETRY (R142): the held file's transit begins. -/
def execHeldFileRetry (s : State) : Host.Outcome State Fault Refusal :=
  .next (perform (fun d _ => match d with | .heldRetry => true | _ => false) s)

/-- OWNER_WORD_ANSWER (R138): on ENGINE the page write begins, otherwise the file returns to the holding file. -/
def execOwnerWordAnswer (dt : Nat) (word : Word32) (s : State) : Host.Outcome State Fault Refusal :=
  .next (fromOutside dt (onlyIf transitInTime (ownerAnswer word)) s)

/-- PAGE_BODY_ANSWERED (R139): the page header is written. -/
def execPageBodyAnswered (dt : Nat) (s : State) : Host.Outcome State Fault Refusal :=
  .next (fromOutside dt (onlyIf transitInTime bodyAnswer) s)

/-- PAGE_WRITE_COMPLETE (R140): the page write is complete. -/
def execPageWriteComplete (dt : Nat) (s : State) : Host.Outcome State Fault Refusal :=
  .next (fromOutside dt (onlyIf transitInTime pageComplete) s)

end Sys2Proof.Machine
end

