-- ==== Sys2Proof/Machine/HostCommands.lean ====
section
/-! DEFINITION. The meanings of the host's register writes (10.1 to 10.4): EXBASE_WRITE, RUN_SET, RUN_CLEAR, RESUME,
INTCAUSE_CLEAR, INTMASK_WRITE and REGISTER_WRITE_IGNORED. -/

namespace Sys2Proof.Machine

/-- EXBASE_WRITE (R196): stored while HALTED, ignored otherwise. -/
def execExbaseWrite (dt : Nat) (hi : Bool) (value : Word32) (s : State) : Host.Outcome State Fault Refusal :=
  .next (fromOutside dt (writeExbase hi value) s)

/-- RUN_SET (R198, R200): measurement enters STARTING, returns to RUNNING, or the start is refused. A RESUME in the same
write acts too (R197). -/
def execRunSet (w : RunWrite) (s : State) : Host.Outcome State Fault Refusal :=
  .next (fromOutside w.dt (writeEngctl true w.resume false) s)

/-- RUN_CLEAR (R199, R200): measurement enters STOPPING, or returns from STARTING to HALTED. A RESUME in the same write
acts too (R197). -/
def execRunClear (w : RunWrite) (s : State) : Host.Outcome State Fault Refusal :=
  .next (fromOutside w.dt (writeEngctl false w.resume false) s)

/-- RESUME (R203): the exchange returns to ONLINE where BUSFAULT is clear. The RUN field of the same write acts too
(R197). -/
def execResume (w : ResumeWrite) (s : State) : Host.Outcome State Fault Refusal :=
  .next (fromOutside w.dt (writeEngctl w.run true false) s)

/-- INTCAUSE_CLEAR (R204). -/
def execIntcauseClear (dt : Nat) (value : Word32) (s : State) : Host.Outcome State Fault Refusal :=
  .next (fromOutside dt (clearCauses value) s)

/-- INTMASK_WRITE (R205). -/
def execIntmaskWrite (dt : Nat) (value : Word32) (s : State) : Host.Outcome State Fault Refusal :=
  .next (fromOutside dt (writeMask value) s)

/-- REGISTER_WRITE_IGNORED (R195): a write to ENGSTAT, or to an offset that holds no register (log 43); nothing but time
passes. -/
def execRegisterWriteIgnored (dt : Nat) (_offset : Nat) (_value : Word32) (s : State) :
    Host.Outcome State Fault Refusal :=
  .next (fromOutside dt (fun s => s) s)

end Sys2Proof.Machine
end

