-- ==== Sys2Proof/Machine/IntervalCommands.lean ====
section
/-! DEFINITION. The meanings of the interval controller's commands (ch. 5): CLOCK_CLOSE, SYNC_TIMEOUT, INTERVAL_END_TAKEN,
TARIFF_STEP_TAKEN, CONFIG_ACTIVATION, DEMAND_RESET_APPLY, and those of the sync line: SYNC_LINE_FALL, SYNC_LINE_RISE,
STUCK_LOW_FAULT, STUCK_LOW_RECOVERY and SYNC_BURST_END. -/

namespace Sys2Proof.Machine

/-- CLOCK_CLOSE (R92): the cause CLOCK arises at the boundary. -/
def execClockClose (s : State) : Host.Outcome State Fault Refusal :=
  .next (perform (fun d _ => match d with | .clockCheck => true | _ => false) s)

/-- SYNC_TIMEOUT (R95): the cause SYNC_TIMEOUT arises at the boundary. -/
def execSyncTimeout (s : State) : Host.Outcome State Fault Refusal :=
  .next (perform (fun d _ => match d with | .timeoutCheck => true | _ => false) s)

/-- INTERVAL_END_TAKEN (R94): a pending INTERVAL_END is taken. -/
def execIntervalEndTaken (s : State) : Host.Outcome State Fault Refusal :=
  .next (perform (fun d _ => match d with | .intervalEnd => true | _ => false) s)

/-- TARIFF_STEP_TAKEN (R102): a pending TARIFF_STEP is taken. -/
def execTariffStepTaken (s : State) : Host.Outcome State Fault Refusal :=
  .next (perform (fun d _ => match d with | .tariffStep => true | _ => false) s)

/-- CONFIG_ACTIVATION (R184): a configuration becomes active at every block. -/
def execConfigActivation (s : State) : Host.Outcome State Fault Refusal :=
  .next (perform (fun d _ => match d with | .activate _ _ => true | _ => false) s)

/-- DEMAND_RESET_APPLY (R108): the pending demand reset is applied. -/
def execDemandResetApply (s : State) : Host.Outcome State Fault Refusal :=
  .next (perform (fun d _ => match d with | .demandApply => true | _ => false) s)

/-- The sync line changes its level. While a power-on or pin reset is in progress nothing decodes it, and the decoder
finds the level when it starts (R105, R111). -/
def lineChange (dt : Nat) (low : Bool) (act : State → State) (s : State) : State :=
  if inReset s then modDecoder (fun d => { d with lineLow := low }) (elapse dt s) else fromOutside dt act s

/-- SYNC_LINE_FALL (R105): a low period begins. -/
def execSyncLineFall (dt : Nat) (s : State) : Host.Outcome State Fault Refusal := .next (lineChange dt true lineFall s)

/-- SYNC_LINE_RISE (R105, R106): the low period in progress is settled. -/
def execSyncLineRise (dt : Nat) (s : State) : Host.Outcome State Fault Refusal := .next (lineChange dt false lineRise s)

/-- STUCK_LOW_FAULT (R105): the low period in progress exceeds 500 ms. -/
def execStuckLowFault (s : State) : Host.Outcome State Fault Refusal :=
  .next (fromTimer (fun s => stuckLowAt s.ic.decoder) stuckLow s)

/-- STUCK_LOW_RECOVERY (R105): the line has been high for 400 ms without a break. -/
def execStuckLowRecovery (s : State) : Host.Outcome State Fault Refusal :=
  .next (fromTimer (fun s => recoveryAt s.ic.decoder) recover s)

/-- SYNC_BURST_END (R106): 400 ms have passed since the last valid pulse of the burst. -/
def execSyncBurstEnd (s : State) : Host.Outcome State Fault Refusal :=
  .next (fromTimer (fun s => burstEndAt s.ic.decoder) endBurst s)

end Sys2Proof.Machine
end

