-- ==== Sys2Proof/Machine/OrderCommands.lean ====
section
/-! DEFINITION. The meanings of the ten order kinds at their taking event (R160, R166 to R176), and of SNAPSHOT_CAPTURE. -/

namespace Sys2Proof.Machine

/-- The captured order of an entry, of one kind, is handed over to its block. -/
def handsOver (kind : Nat) (entry : Fin 16) (d : Due) (s : State) : Bool :=
  match d with
  | .handOver e => e = entry && s.orderKind e = kind
  | _ => false

/-- LOAD_CONFIG (R166): the configuration block is read. -/
def execLoadConfig (entry : Fin 16) (s : State) : Host.Outcome State Fault Refusal :=
  .next (perform (handsOver 1 entry) s)

/-- CLOSE_INTERVAL (R168, R110). -/
def execCloseInterval (entry : Fin 16) (s : State) : Host.Outcome State Fault Refusal :=
  .next (perform (handsOver 2 entry) s)

/-- SET_TIME (R169, R28). -/
def execSetTime (entry : Fin 16) (s : State) : Host.Outcome State Fault Refusal :=
  .next (perform (handsOver 3 entry) s)

/-- DEMAND_RESET (R170, R109). -/
def execDemandReset (entry : Fin 16) (s : State) : Host.Outcome State Fault Refusal :=
  .next (perform (handsOver 4 entry) s)

/-- SNAPSHOT (R171, R84). -/
def execSnapshot (entry : Fin 16) (s : State) : Host.Outcome State Fault Refusal :=
  .next (perform (handsOver 5 entry) s)

/-- SNAPSHOT_CAPTURE (R84): a capture that waited for a decomposition. -/
def execSnapshotCapture (entry : Fin 16) (s : State) : Host.Outcome State Fault Refusal :=
  .next (perform (fun d _ => match d with | .snapCapture e => e = entry | _ => false) s)

/-- PARAM_READ (R172). -/
def execParamRead (entry : Fin 16) (s : State) : Host.Outcome State Fault Refusal :=
  .next (perform (handsOver 6 entry) s)

/-- PARAM_WRITE (R173). -/
def execParamWrite (entry : Fin 16) (s : State) : Host.Outcome State Fault Refusal :=
  .next (perform (handsOver 7 entry) s)

/-- TARIFF_SET (R174, R103). -/
def execTariffSet (entry : Fin 16) (s : State) : Host.Outcome State Fault Refusal :=
  .next (perform (handsOver 8 entry) s)

/-- CALIBRATE (R175, R22). -/
def execCalibrate (entry : Fin 16) (s : State) : Host.Outcome State Fault Refusal :=
  .next (perform (handsOver 9 entry) s)

/-- LINK_RESTART (R176, R13). -/
def execLinkRestart (entry : Fin 16) (s : State) : Host.Outcome State Fault Refusal :=
  .next (perform (handsOver 10 entry) s)

end Sys2Proof.Machine
end

