-- ==== Sys2Proof/Machine/ResetCommands.lean ====
section
/-! DEFINITION. The meanings of the reset commands: POWER_ON, PIN_RESET_ASSERT, PIN_RESET_RELEASE, SOFT_RESET and the two
of the factory store (R191 to R193, R208). -/

namespace Sys2Proof.Machine

/-- POWER_ON (R208, R209): every block takes its power-on values and the NOMF strap is latched. The factory store load
begins with the read of its first block; where RESET_N is held asserted the engine stays in reset, and the load begins
when the pin is released, with reset cause POWER_ON (log 45). -/
def execPowerOn (nomf60 : Bool) (s : State) : Host.Outcome State Fault Refusal :=
  match s.phase with
  | .held _ => .next (freshState nomf60 (.held .powerOn) .powerOn s)
  | _ => .next (freshState nomf60 (.loading .identity 0 .powerOn) .powerOn s)

/-- PIN_RESET_ASSERT (R208): every block takes its power-on values, and the engine stays in reset. The strap is latched
and the reset cause set later (log 28). -/
def execPinResetAssert (_dt : Nat) (s : State) : Host.Outcome State Fault Refusal :=
  .next (freshState s.tb.nom60 (.held .pin) s.port.resetCause s)

/-- PIN_RESET_RELEASE (R208): where RESET_N is held, the NOMF strap is latched and the factory store load begins. -/
def execPinResetRelease (dt : Nat) (nomf60 : Bool) (s : State) : Host.Outcome State Fault Refusal :=
  let s := elapse dt s
  match s.phase with
  | .held cause =>
    .next { freshState nomf60 (.loading .identity s.tick cause) s.port.resetCause s with tick := s.tick }
  | _ => .next s

/-- FACTORY_TRANSFER_ANSWERED (R191 to R193): the load goes on, where the answer comes within 10 ms. -/
def execFactoryTransferAnswered (dt : Nat) (words : List Word32) (s : State) : Host.Outcome State Fault Refusal :=
  let s := elapse dt s
  match s.phase with
  | .loading stage issuedAt cause =>
    if s.tick < issuedAt + transferTicks then .next (loadStep stage cause (some words) s) else .next s
  | _ => .next s

/-- FACTORY_TRANSFER_TIMEOUT (R191): 10 ms pass without an answer, the transfer fails, and the load goes on. -/
def execFactoryTransferTimeout (s : State) : Host.Outcome State Fault Refusal :=
  match s.phase with
  | .loading stage issuedAt cause => .next (loadStep stage cause none (waitUntil (issuedAt + transferTicks) s))
  | _ => .next s

/-- SOFT_RESET (R208): each block keeps or resets its state as its chapter gives it, whatever RUN and RESUME of the same
write carry (R197). -/
def execSoftReset (w : ResetWrite) (s : State) : Host.Outcome State Fault Refusal :=
  .next (fromOutside w.dt (writeEngctl w.run w.resume true) s)

end Sys2Proof.Machine
end

