-- ==== Sys2Proof/Machine/WindowCommands.lean ====
section
/-! DEFINITION. The meanings of the commands that the sampling brings (ch. 1 to 3): FREE_TICK, SAMPLE_STROBE,
WINDOW_BOUNDARY, FRAME_ARRIVAL, LINK_DROP, LINK_ENTER_RUNNING, DECOMPOSITION_COMPLETE and IDLE_OFFSET_UPDATE. -/

namespace Sys2Proof.Machine

/-- FREE_TICK (R33, R34): a free tick, or the first boundary of a run. -/
def execFreeTick (s : State) : Host.Outcome State Fault Refusal := .next (fromTimer freeTickInstant reachTick s)

/-- SAMPLE_STROBE (R30, R6, R7, R11): the next strobe after the window-start strobe, on all four links. -/
def execSampleStrobe (s : State) : Host.Outcome State Fault Refusal :=
  .next (fromTimer strobeInstant (orDefer .strobe) s)

/-- WINDOW_BOUNDARY (R32): the window's N strobes have elapsed. -/
def execWindowBoundary (s : State) : Host.Outcome State Fault Refusal :=
  .next (fromTimer boundaryInstant reachBoundary s)

/-- FRAME_ARRIVAL (R3, R9, R11): a frame reaches a receiver. The step is the end of the frame: a frame with a further
data byte where END is due acts as a framing error at its END, on the strobe index that stands there (R5, R214; DESIGN
CHOICE, log 47). -/
def execFrameArrival (dt : Nat) (link : Fin 4) (bytes : List Byte) (s : State) : Host.Outcome State Fault Refusal :=
  .next (fromOutside dt (orDefer (.frame link bytes)) s)

/-- LINK_DROP (R12): the link's failure run has reached 64. -/
def execLinkDrop (link : Fin 4) (s : State) : Host.Outcome State Fault Refusal :=
  .next (perform (fun d _ => match d with | .drop l _ => l = link | _ => false) s)

/-- LINK_ENTER_RUNNING (R11): the link's sync run has reached 16. -/
def execLinkEnterRunning (link : Fin 4) (s : State) : Host.Outcome State Fault Refusal :=
  .next (perform (fun d _ => match d with | .enterRunning l _ => l = link | _ => false) s)

/-- DECOMPOSITION_COMPLETE (R47): the results of a window are handed to every consumer. -/
def execDecompositionComplete (dt : Nat) (s : State) : Host.Outcome State Fault Refusal :=
  .next (fromOutside dt completeDecomposition s)

/-- IDLE_OFFSET_UPDATE (R21): the channel's idle count has reached 50. -/
def execIdleOffsetUpdate (ch : Fin 28) (s : State) : Host.Outcome State Fault Refusal :=
  .next (perform (fun d _ => match d with | .idle c _ _ => c = ch | _ => false) s)

end Sys2Proof.Machine
end

