-- ==== Sys2Proof/Machine/Dispatch.lean ====
section
/-! DEFINITION. One arm for each command: a direct call of its meaning. -/

namespace Sys2Proof.Machine

/-- The effect of a command on everything but the queue. -/
def exec (i : Instr) (s : State) : Host.Outcome State Fault Refusal :=
  match i with
  | .powerOn nomf60 => Sys2Proof.Machine.execPowerOn nomf60 s
  | .pinResetAssert dt => Sys2Proof.Machine.execPinResetAssert dt s
  | .pinResetRelease dt nomf60 => Sys2Proof.Machine.execPinResetRelease dt nomf60 s
  | .factoryTransferAnswered dt words => Sys2Proof.Machine.execFactoryTransferAnswered dt words s
  | .factoryTransferTimeout => Sys2Proof.Machine.execFactoryTransferTimeout s
  | .exbaseWrite dt hi value => Sys2Proof.Machine.execExbaseWrite dt hi value s
  | .runSet w => Sys2Proof.Machine.execRunSet w s
  | .runClear w => Sys2Proof.Machine.execRunClear w s
  | .resume w => Sys2Proof.Machine.execResume w s
  | .softReset w => Sys2Proof.Machine.execSoftReset w s
  | .intcauseClear dt value => Sys2Proof.Machine.execIntcauseClear dt value s
  | .intmaskWrite dt value => Sys2Proof.Machine.execIntmaskWrite dt value s
  | .registerWriteIgnored dt offset value => Sys2Proof.Machine.execRegisterWriteIgnored dt offset value s
  | .freeTick => Sys2Proof.Machine.execFreeTick s
  | .sampleStrobe => Sys2Proof.Machine.execSampleStrobe s
  | .windowBoundary => Sys2Proof.Machine.execWindowBoundary s
  | .lockAcquired => Sys2Proof.Machine.execLockAcquired s
  | .holdoverExpiry => Sys2Proof.Machine.execHoldoverExpiry s
  | .channelStuck ch => Sys2Proof.Machine.execChannelStuck ch s
  | .channelNormal ch => Sys2Proof.Machine.execChannelNormal ch s
  | .offsetChangeEffect ch => Sys2Proof.Machine.execOffsetChangeEffect ch s
  | .clockClose => Sys2Proof.Machine.execClockClose s
  | .syncTimeout => Sys2Proof.Machine.execSyncTimeout s
  | .intervalEndTaken => Sys2Proof.Machine.execIntervalEndTaken s
  | .tariffStepTaken => Sys2Proof.Machine.execTariffStepTaken s
  | .configActivation => Sys2Proof.Machine.execConfigActivation s
  | .demandResetApply => Sys2Proof.Machine.execDemandResetApply s
  | .monitorSettingsEffect => Sys2Proof.Machine.execMonitorSettingsEffect s
  | .headerFieldsAnswered dt => Sys2Proof.Machine.execHeaderFieldsAnswered dt s
  | .frameArrival dt link bytes => Sys2Proof.Machine.execFrameArrival dt link bytes s
  | .linkDrop link => Sys2Proof.Machine.execLinkDrop link s
  | .linkEnterRunning link => Sys2Proof.Machine.execLinkEnterRunning link s
  | .decompositionComplete dt => Sys2Proof.Machine.execDecompositionComplete dt s
  | .idleOffsetUpdate ch => Sys2Proof.Machine.execIdleOffsetUpdate ch s
  | .monitorOn m => Sys2Proof.Machine.execMonitorOn m s
  | .monitorRestart m => Sys2Proof.Machine.execMonitorRestart m s
  | .accountingCloseFinish => Sys2Proof.Machine.execAccountingCloseFinish s
  | .statisticsCloseFinish => Sys2Proof.Machine.execStatisticsCloseFinish s
  | .fileComplete => Sys2Proof.Machine.execFileComplete s
  | .heldFileRetry => Sys2Proof.Machine.execHeldFileRetry s
  | .ownerWordAnswer dt word => Sys2Proof.Machine.execOwnerWordAnswer dt word s
  | .pageBodyAnswered dt => Sys2Proof.Machine.execPageBodyAnswered dt s
  | .pageWriteComplete dt => Sys2Proof.Machine.execPageWriteComplete dt s
  | .busAccessError dt op dir off entry => Sys2Proof.Machine.execBusAccessError dt op dir off entry s
  | .busAccessTimeout op dir off entry => Sys2Proof.Machine.execBusAccessTimeout op dir off entry s
  | .scanReadsAnswered dt table => Sys2Proof.Machine.execScanReadsAnswered dt table s
  | .loadConfig entry => Sys2Proof.Machine.execLoadConfig entry s
  | .configBlockReadDone dt block => Sys2Proof.Machine.execConfigBlockReadDone dt block s
  | .closeInterval entry => Sys2Proof.Machine.execCloseInterval entry s
  | .setTime entry => Sys2Proof.Machine.execSetTime entry s
  | .demandReset entry => Sys2Proof.Machine.execDemandReset entry s
  | .snapshot entry => Sys2Proof.Machine.execSnapshot entry s
  | .snapshotCapture entry => Sys2Proof.Machine.execSnapshotCapture entry s
  | .snapshotWritten dt entry => Sys2Proof.Machine.execSnapshotWritten dt entry s
  | .paramRead entry => Sys2Proof.Machine.execParamRead entry s
  | .paramWrite entry => Sys2Proof.Machine.execParamWrite entry s
  | .tariffSet entry => Sys2Proof.Machine.execTariffSet entry s
  | .calibrate entry => Sys2Proof.Machine.execCalibrate entry s
  | .linkRestart entry => Sys2Proof.Machine.execLinkRestart entry s
  | .linkRestartTimeout link => Sys2Proof.Machine.execLinkRestartTimeout link s
  | .takenWriteAnswered dt => Sys2Proof.Machine.execTakenWriteAnswered dt s
  | .completionResultWritten dt => Sys2Proof.Machine.execCompletionResultWritten dt s
  | .completionDelivered dt => Sys2Proof.Machine.execCompletionDelivered dt s
  | .syncLineFall dt => Sys2Proof.Machine.execSyncLineFall dt s
  | .syncLineRise dt => Sys2Proof.Machine.execSyncLineRise dt s
  | .stuckLowFault => Sys2Proof.Machine.execStuckLowFault s
  | .stuckLowRecovery => Sys2Proof.Machine.execStuckLowRecovery s
  | .syncBurstEnd => Sys2Proof.Machine.execSyncBurstEnd s
  | .updateCountWriteAnswered dt => Sys2Proof.Machine.execUpdateCountWriteAnswered dt s

end Sys2Proof.Machine
end

