-- ==== Sys2Proof/Safety.lean ====
section
/-! DEFINITION. What the statements speak of: an engine with nothing due, the values a power-on leaves, and the bounds that
the rules give figures of the state, kept by every step. -/

namespace Sys2Proof.Machine

/-- No reset is in progress and nothing is due inside the step in hand. -/
def quiet (s : State) : Prop := s.phase = .running ∧ s.due = []

/-- No reset is in progress, nothing is due and no boundary or free tick is in hand. -/
def atRest (s : State) : Prop := quiet s ∧ s.event = none

/-! ## The values after power-on or pin reset -/

/-- R209, R178, R88: the exchange port, with no scan, header block write, block read or image in progress. -/
def freshPort (p : Port) : Prop :=
  p.exbase = 0 ∧ p.run = false ∧ p.intcause = 0 ∧ p.intmask = 0 ∧ p.meas = .halted ∧ p.startRefused = false ∧
    p.exchange = .online ∧ p.fault = { kind := .none, dir := .read, op := none, addr := 0 } ∧ p.updateCount = 0 ∧
    p.scan = none ∧ p.header = none ∧ p.configRead = none ∧ p.snapshots = []

/-- R45: the timebase, on a nominal system. -/
def freshTimebase (nom60 : Bool) (tb : Timebase) : Prop :=
  tb.nom60 = nom60 ∧ tb.timeValue = 0 ∧ tb.subMs = 0 ∧ tb.dowOffset = 0 ∧ tb.pace = nominalPace nom60 ∧
    tb.lock = .acquire ∧ tb.steady = 0 ∧ tb.hold = 0 ∧ tb.crossings = [] ∧ tb.pendingVerdict = none ∧
    tb.lastVerdict = .none ∧ tb.lastMeasured = 0

/-- R25: a link. -/
def freshLink (k : Link) : Prop :=
  k.state = .down ∧ k.slots = [] ∧ k.syncRun = 0 ∧ k.failRun = 0 ∧ k.dropReason = .none ∧ k.goodFrames = 0 ∧
    k.parityErrors = 0 ∧ k.framingErrors = 0 ∧ k.staleFrames = 0 ∧ k.substituted = 0 ∧ k.drops = 0 ∧
    k.lastGood = List.replicate 7 none

/-- R25, R67: a channel, but for the offset that the factory store load supplies. -/
def freshChannel (c : Channel) : Prop :=
  c.stuck = false ∧ c.clipRun = 0 ∧ c.clearRun = 0 ∧ c.idleCount = 0 ∧ c.request = none ∧ c.calibration = none ∧
    c.lastRms = 0

/-- R88: the accounting unit. -/
def freshAccounting (a : Accounting) : Prop :=
  a.regs = List.replicate 180 { count := 0, residue := 0 } ∧ a.opening = List.replicate 180 0 ∧ a.measured = 0 ∧
    a.demand = List.replicate 40 { max := 0, seq := 0 } ∧ a.lastSeq = 0 ∧ a.lastEnd = 0 ∧ a.closes = []

/-- R111: the interval controller. -/
def freshIntervals (c : IntervalControl) : Prop :=
  c.seq = 0 ∧ c.current = none ∧ c.activeSlot = 0 ∧ c.forced = none ∧ c.stepped = 0 ∧ c.governing = none ∧
    c.pendingEnd = false ∧ c.pendingStep = false ∧ c.demandPending = false ∧ c.unfiled = false ∧ c.glitches = 0 ∧
    c.unexpectedEnds = 0 ∧ c.ignoredSteps = 0 ∧ c.malformedBursts = 0 ∧ c.stuckLows = 0 ∧ c.timeouts = 0 ∧
    c.demandOrders = [] ∧ c.closeOrders = []

/-- R111: the sync decoder is idle. -/
def idleDecoder (d : Decoder) : Prop :=
  d.lowSince = none ∧ d.declared = false ∧ d.recovering = false ∧ d.pulses = 0

/-- R121, R132: a band monitor. -/
def freshMonitor (nom60 : Bool) (k : Monitor) : Prop :=
  k.state = .off ∧ k.count = 0 ∧ k.last = 0 ∧ k.force = k.stored ∧
    k.stored = { enable := 0, source := 0, kind := 0, phase := 5, lo := 1, hi := windowLen nom60 / 2
                 threshold := 33554431, ratio := 100, persistence := 1, emission := 0 }

/-- R25, R45, R67, R88, R111, R132, R155, R178, R194, R209: every block after a power-on or pin reset. -/
def freshBlocks (nom60 : Bool) (s : State) : Prop :=
  freshPort s.port ∧ freshTimebase nom60 s.tb ∧
    (s.links.length = 4 ∧ ∀ k ∈ s.links, freshLink k) ∧ (s.channels.length = 28 ∧ ∀ c ∈ s.channels, freshChannel c) ∧
    (s.spectral.decomposing = none ∧ s.spectral.cap = none) ∧ freshAccounting s.acct ∧ freshIntervals s.ic ∧
    idleDecoder s.ic.decoder ∧
    (s.stats.accs = [] ∧ s.stats.limits = [] ∧ s.stats.closes = [] ∧ s.stats.monitors.length = 4 ∧
      ∀ k ∈ s.stats.monitors, freshMonitor nom60 k) ∧
    (s.filing.held = none ∧ s.filing.transit = none ∧ s.filing.nextPage = 0 ∧ s.filing.pageSeq = 0 ∧
      s.filing.assemblies = []) ∧
    (s.orders.inFlight = [] ∧ s.orders.queue = [] ∧ s.orders.head = none) ∧
    (s.store.active = none ∧ s.store.pend = none ∧ s.store.divisor = none)

/-! ## The report of a file's closes -/

/-- R110, R152: from `s` to `t` the unreported closes of a file are reported as placed, at a time value: the CLOSE_INTERVAL
orders that waited for them wait no longer, and each that is in flight without a completion completes DONE with OK and
the number of such a close. The completion queue gains nothing else. -/
def closesReported (f : IntervalFile) (time : Nat) (s t : State) : Prop :=
  t.ic.closeOrders = s.ic.closeOrders.filter (fun o => !f.unreported.contains o.2) ∧
    (∀ q ∈ s.orders.queue, q ∈ t.orders.queue) ∧
    (∀ e g, (∃ seq ∈ f.unreported, (e, seq) ∈ s.ic.closeOrders) → s.inFlight e = some g → g.completed = false →
      ∃ seq ∈ f.unreported, (e, seq) ∈ s.ic.closeOrders ∧
        .completion e { failed := false, code := .ok, value := seq, time, tag := g.tag } false ∈ t.orders.queue) ∧
    (∀ q ∈ t.orders.queue, q ∈ s.orders.queue ∨ ∃ e, ∃ seq ∈ f.unreported, ∃ tag, (e, seq) ∈ s.ic.closeOrders ∧
      q = .completion e { failed := false, code := .ok, value := seq, time, tag } false)

/-! ## What every step keeps -/

/-- R196: the exchange area base is a multiple of 4,096. -/
def baseAligned (s : State) : Prop := s.port.exbase &&& 0xFFF#64 = 0

/-- R1, R69, R76, R82, R121: the numbers of links, channels, registers, opening counts, demand entries and monitors. -/
def shaped (s : State) : Prop :=
  s.links.length = 4 ∧ s.channels.length = 28 ∧ s.acct.regs.length = 180 ∧ s.acct.opening.length = 180 ∧
    s.acct.demand.length = 40 ∧ s.stats.monitors.length = 4

/-- R159: no index is in flight twice. -/
def entriesOnce (s : State) : Prop := (s.orders.inFlight.map (fun f => f.entry)).Nodup

/-- R39: a pace lies in the valid pace range of the nominal system. -/
def paceValid (nom60 : Bool) (p : Nat) : Prop := paceMin nom60 ≤ p ∧ p ≤ paceMax nom60

/-- R37: a VALID verdict has a measured pace in the valid range, if it has one. -/
def verdictSound (nom60 : Bool) (m : Measured) : Prop := m.verdict = .valid → ∀ p, m.pace = some p → paceValid nom60 p

/-- R39, R40, R42: the pace in force, and every verdict that may still set one, lie in the valid pace range; the steady
count is at most 2 and the hold count at most 149. -/
def paceSound (s : State) : Prop :=
  paceValid s.tb.nom60 s.tb.pace ∧ (∀ m, s.tb.pendingVerdict = some m → verdictSound s.tb.nom60 m) ∧
    (∀ d m, s.spectral.decomposing = some d → d.verdict = some m → verdictSound s.tb.nom60 m) ∧
    s.tb.steady ≤ 2 ∧ s.tb.hold ≤ 149

/-- R165, R202: while the exchange is FAULTED nothing is in progress in the exchange area: no scan, header block write, block
read, image write, transit, or write of the completion queue. A SNAPSHOT whose capture still waits has no write. -/
def faultedIdle (s : State) : Prop :=
  s.port.exchange = .faulted → s.port.scan = none ∧ s.port.header = none ∧ s.port.configRead = none ∧
    (∀ p ∈ s.port.snapshots, p.image = none) ∧ s.filing.transit = none ∧ s.orders.head = none

end Sys2Proof.Machine
end

