-- ==== Sys2Proof/Certificates/Slice0/Obligations.lean ====
section
/-! DEFINITION. The statements for the provers, over the model's own names. -/

open Sys2Proof Sys2Proof.Machine

/-- A step runs the command at the front of the queue (the model's own field, log 29). For every command c and state s
whose queue is c followed by rest, step s is exec c on s with the queue rest. The queue of waiting commands is the
model's own field, log 29; the commands are the steps that the manual lists in its chapter "What each step holds".
(The commands are those of spec/95_what_each_step_holds.md; the queue is the DESIGN CHOICE of log 29.) -/
def Obligations.StepRunsTheFrontCommand : Prop :=
  ∀ (s : State) (c : Instr) (rest : List Instr), s.pending = c :: rest → step s = exec c { s with pending := rest }

/-- Reference ticks run the clock, and an empty queue lets one of them pass. Outside a reset, n reference ticks keep
the clock exact: with the time value below 2^48 and the sub-millisecond count below 10,000 before, the sub-millisecond
count stays below 10,000, the time value stays below 2^48, and time value times 10,000 plus the count rises by n
modulo 2^48 times 10,000; n ticks after m ticks are m + n ticks; and nothing but the model tick and the clock changes.
Where no command waits and nothing is due, a step lets one reference tick pass: the model tick and the sub-millisecond
count rise by one, the count wraps at 10,000 into the time value, which wraps at 2^48, and nothing else changes. That
an empty queue stands for one tick is the model's choice, log 2; the clock is that of R26. (R26: each reference tick
raises the sub-millisecond count, which carries into the time value. The clock of R26 over one reference tick. That a
step on an empty queue is one tick is a DESIGN CHOICE (log 2).) -/
def Obligations.ReferenceTicksRunTheClock : Prop :=
  (∀ (s : State) (m n : Nat), s.phase = .running → s.tb.timeValue < 2 ^ 48 → s.tb.subMs < 10000 →
      (elapse n s).tb.subMs < 10000 ∧ (elapse n s).tb.timeValue < 2 ^ 48 ∧
        (elapse n s).tb.timeValue * 10000 + (elapse n s).tb.subMs =
          (s.tb.timeValue * 10000 + s.tb.subMs + n) % (2 ^ 48 * 10000) ∧
        elapse n (elapse m s) = elapse (m + n) s ∧
        elapse n s = { s with
          tick := s.tick + n
          tb := { s.tb with timeValue := (elapse n s).tb.timeValue, subMs := (elapse n s).tb.subMs } }) ∧
  (∀ s : State, s.pending = [] → quiet s →
      step s = .next { s with
        tick := s.tick + 1
        tb := { s.tb with
          timeValue := (if s.tb.subMs + 1 < 10000 then s.tb.timeValue
            else s.tb.timeValue + (s.tb.subMs + 1) / 10000) % 2 ^ 48
          subMs := (s.tb.subMs + 1) % 10000 } })

/-- Power-on, and the assertion and release of RESET_N, leave every block at its power-on values. POWER_ON and
PIN_RESET_ASSERT answer a next state on every state: every block holds the values of R25, R45, R67, R88, R111, R121,
R132, R155, R178, R194 and R209; the queue is kept. POWER_ON latches the strap and, where RESET_N is not held
asserted, begins the read of the identity block; where it is held the engine stays in reset. PIN_RESET_ASSERT holds
the engine in reset. PIN_RESET_RELEASE while RESET_N is held answers a state with every block at its power-on values
on the latched nominal system, the load at the read of the identity block, issued at that instant; while it is not
held only time passes. The model's choices in this: the load after a release sets the cause of the most recent reset,
POWER_ON where POWER_ON came after PIN_RESET_ASSERT and PIN otherwise (log 45); PIN_RESET_ASSERT keeps the nominal
system until the release latches the strap, and POWER_ON sets its reset cause before the load has ended (log 28); the
record of no fault has direction READ and address 0 (log 32); a release while RESET_N is not held lets only time pass
(log 3). (Every block at its power-on values; the factory values follow from the load. R208: the reset ends after the
pin is released and the load has run.) -/
def Obligations.PowerOnAndPinResetLeavePowerOnValues : Prop :=
  (∀ (s : State) (dt : Nat) (nom60 : Bool),
      ((∀ cause, s.phase ≠ .held cause) → ∃ t, exec (.powerOn nom60) s = .next t ∧ freshBlocks nom60 t ∧
        t.phase = .loading .identity 0 .powerOn ∧ t.port.resetCause = .powerOn ∧ t.pending = s.pending ∧
        t.event = none ∧ t.due = [] ∧ interruptLine t = false) ∧
      (∀ cause, s.phase = .held cause → ∃ t, exec (.powerOn nom60) s = .next t ∧ freshBlocks nom60 t ∧
        t.phase = .held .powerOn ∧ t.port.resetCause = .powerOn ∧ t.pending = s.pending ∧
        t.event = none ∧ t.due = [] ∧ interruptLine t = false) ∧
      (∃ t, exec (.pinResetAssert dt) s = .next t ∧ freshBlocks s.tb.nom60 t ∧ t.phase = .held .pin ∧
        t.pending = s.pending ∧ t.event = none ∧ t.due = [] ∧ interruptLine t = false)) ∧
  (∀ (s : State) (dt : Nat) (nom60 : Bool),
      (∀ cause, s.phase = .held cause → ∃ t, exec (.pinResetRelease dt nom60) s = .next t ∧ freshBlocks nom60 t ∧
        t.tick = s.tick + dt ∧ t.phase = .loading .identity t.tick cause ∧ t.pending = s.pending ∧ t.due = [] ∧
        t.event = none) ∧
      ((∀ cause, s.phase ≠ .held cause) → exec (.pinResetRelease dt nom60) s = .next (elapse dt s)))

/-- The state after reset holds the power-on values and meets the invariants. State.reset holds the power-on values of
every block, with the lock machine in ACQUIRE at nominal pace, the base 0 and no command waiting. That it is a 50 Hz
strap with the load about to begin is the model's choice, log 5. State.reset has the shape, the aligned base, the
valid pace and the idle exchange that every step keeps. That the record of no fault has direction READ and address 0
is the DESIGN CHOICE of log 32. (The values of the reset tables; the strap and the instant chosen are a DESIGN CHOICE
(log 5). The invariants at reset.) -/
def Obligations.ResetStateIsThePowerOnState : Prop :=
  (freshBlocks false State.reset ∧ State.reset.phase = .loading .identity 0 .powerOn ∧ State.reset.pending = [] ∧
      State.reset.event = none ∧ State.reset.due = []) ∧
  (shaped State.reset ∧ baseAligned State.reset ∧ entriesOnce State.reset ∧ paceSound State.reset ∧ faultedIdle State.reset)

/-- The four transfers of the factory store load, answered or timed out. FACTORY_TRANSFER_ANSWERED within 10 ms of the
issue: the identity block is judged and the epoch block read next, good or bad; the epoch becomes the stored number
plus one where the block is good and 1 where it is not, and is written back; the write answered, the block is read
again; at that read EPOCH_UNSAVED is set unless the words are the epoch and its checksum word, the reset ends, the
reset cause is set and the first free tick is 2,000,000 ticks away. Outside a load only time passes. That an answer at
exactly 10 ms is late is the model's choice, log 14. FACTORY_TRANSFER_TIMEOUT falls 10 ms after the issue, or now
where that has passed: a failed identity read leaves default gains and offsets, serial and revision 0 and
FACTORY_MISSING; a failed epoch read leaves epoch 1; a failed write or verify read sets EPOCH_UNSAVED. Outside a load
nothing changes. The model's choices besides: the epoch block is the epoch word and its checksum word (log 7); the
verify read follows a failed write too (log 8); "or now" is log 1; that an answer outside a load lets only time pass
is log 3. The identity block is good exactly where it has 32 words (its layout is log 7), their sum is 2^32 - 1, and
every gain lies in 16,384 to 49,151 and every offset in -2,047 to 2,047; a good block supplies serial, revision, gains
and offsets and clears FACTORY_MISSING; any other supplies none of them and sets it. With the end of the load a low
sync line begins a low period. (The four transfers of R191 to R193. R191: the load continues with the next step.) -/
def Obligations.FactoryStoreLoadRuns : Prop :=
  (∀ (s : State) (dt i : Nat) (cause : ResetCause) (words : List Word32), s.tick + dt < i + 100000 →
      (s.phase = .loading .identity i cause → ∃ t, exec (.factoryTransferAnswered dt words) s = .next t ∧
        t.phase = .loading .epochRead (s.tick + dt) cause ∧ t.store.factory = judgeIdentity words s.store.factory) ∧
      (s.phase = .loading .epochRead i cause → ∃ t, exec (.factoryTransferAnswered dt words) s = .next t ∧
        t.phase = .loading .epochWrite (s.tick + dt) cause ∧
        t.store.factory.epoch =
          (if words.length = 2 ∧ words.foldl (· + ·) 0 = 0xFFFFFFFF#32 then words.getD 0 0 + 1 else 1)) ∧
      (s.phase = .loading .epochWrite i cause → ∃ t, exec (.factoryTransferAnswered dt words) s = .next t ∧
        t.phase = .loading .epochVerify (s.tick + dt) cause ∧ t.store.factory.epoch = s.store.factory.epoch ∧
        t.store.factory.unsaved = false) ∧
      (s.phase = .loading .epochVerify i cause → ∃ t, exec (.factoryTransferAnswered dt words) s = .next t ∧
        t.phase = .running ∧ t.port.resetCause = cause ∧ t.tb.freeTickAt = s.tick + dt + 2000000 ∧
        t.store.factory.unsaved =
          (s.store.factory.unsaved || decide (words ≠ [s.store.factory.epoch, 0xFFFFFFFF#32 - s.store.factory.epoch])) ∧
        t.channels = (List.range 28).map (fun ch => { offset := s.store.factory.offsets.getD ch 0 }) ∧
        t.ic.decoder.lowSince = (if s.ic.decoder.lineLow then some (s.tick + dt) else none)) ∧
      (s.phase = .running → exec (.factoryTransferAnswered dt words) s = .next (elapse dt s))) ∧
  (∀ (s : State) (i : Nat) (cause : ResetCause),
      (s.phase = .loading .identity i cause → ∃ t, exec .factoryTransferTimeout s = .next t ∧
        t.tick = max s.tick (i + 100000) ∧ t.phase = .loading .epochRead t.tick cause ∧ t.store.factory.missing = true ∧
        t.store.factory.serial = 0 ∧ t.store.factory.revision = 0 ∧
        t.store.factory.gains = List.replicate 28 32768 ∧ t.store.factory.offsets = List.replicate 28 0) ∧
      (s.phase = .loading .epochRead i cause → ∃ t, exec .factoryTransferTimeout s = .next t ∧
        t.tick = max s.tick (i + 100000) ∧ t.phase = .loading .epochWrite t.tick cause ∧ t.store.factory.epoch = 1) ∧
      (s.phase = .loading .epochWrite i cause → ∃ t, exec .factoryTransferTimeout s = .next t ∧
        t.tick = max s.tick (i + 100000) ∧ t.phase = .loading .epochVerify t.tick cause ∧
        t.store.factory.unsaved = true) ∧
      (s.phase = .loading .epochVerify i cause → ∃ t, exec .factoryTransferTimeout s = .next t ∧
        t.tick = max s.tick (i + 100000) ∧ t.phase = .running ∧ t.port.resetCause = cause ∧
        t.store.factory.unsaved = true ∧ t.store.factory.epoch = s.store.factory.epoch) ∧
      (s.phase = .running → exec .factoryTransferTimeout s = .next s)) ∧
  (∀ (words : List Word32) (old f : Factory) (gain : Nat → Nat) (offset : Nat → Int), f = judgeIdentity words old →
      (∀ ch, gain ch = (words.getD (3 + ch) 0).toNat % 65536) →
      (∀ ch, offset ch = (if (words.getD (3 + ch) 0).toNat / 65536 < 32768
        then ((words.getD (3 + ch) 0).toNat / 65536 : Nat) else ((words.getD (3 + ch) 0).toNat / 65536 : Nat) - 65536 : Int)) →
      (words.length = 32 → words.foldl (· + ·) 0 = 0xFFFFFFFF#32 →
        (∀ ch < 28, 16384 ≤ gain ch ∧ gain ch ≤ 49151 ∧ -2047 ≤ offset ch ∧ offset ch ≤ 2047) →
        f.missing = false ∧ f.serial.toNat = (words.getD 0 0).toNat + 2 ^ 32 * (words.getD 1 0).toNat ∧
        f.revision = words.getD 2 0 ∧ f.gains = (List.range 28).map gain ∧ f.offsets = (List.range 28).map offset ∧
        f.epoch = old.epoch ∧ f.unsaved = old.unsaved) ∧
      ((words.length ≠ 32 ∨ words.foldl (· + ·) 0 ≠ 0xFFFFFFFF#32 ∨
          ∃ ch < 28, gain ch < 16384 ∨ 49151 < gain ch ∨ offset ch < -2047 ∨ 2047 < offset ch) →
        f = { old with
          serial := 0, revision := 0, gains := List.replicate 28 32768, offsets := List.replicate 28 0
          missing := true }))

/-- A soft reset halts measurement, clears INTCAUSE and keeps the exchange state and the clock. SOFT_RESET with
nothing due and no event in hand, whatever RUN and RESUME of the write: measurement is HALTED and RUN is 0; INTCAUSE
is 0 and START_REFUSED clear; the exchange state, the fault record, EXBASE, INTMASK and the update count are kept; the
reset cause is SOFT; the clock counts on; the lock machine is in ACQUIRE at nominal pace; links and channels are as
R25 says; the active configuration, D and the factory values are kept, and no configuration is pending; nothing is in
transit and no decomposition is in progress; a file in transit is back in the holding file; the in-flight orders and
the completion queue are kept, each order without a completion is ended, for the first scan to complete it, and the
write at the head of the queue is issued again where the exchange area can be reached; the first free tick is
2,000,000 ticks away. A decomposition in progress is discarded: each point that its results would have covered, the
aggregate among them, counts one discarded window, and the accounts stand still. The closes still to finish, that of
the reset included, come next, then the reset of the statistics unit, at once where there are none: it empties its
accumulators and captured limits and restarts every monitor under its stored settings, QUIET where they enable it with
lo at or below hi and OFF otherwise, with count and last value 0 and no event. That a header block write in progress
is dropped, t.port.header = none, is the model's choice, log 42. (The soft reset column of the reset tables. R50: the
discard of a decomposition. R131, R132: the statistics unit. The header block write dropped is the DESIGN CHOICE of
log 42.) -/
def Obligations.SoftResetKeepsAndClears : Prop :=
  (∀ (s : State) (dt : Nat) (run resume : Bool), atRest s →
    ∃ t, exec (.softReset ⟨dt, run, resume⟩) s = .next t ∧ t.tick = s.tick + dt ∧
      t.port.meas = .halted ∧ t.port.run = false ∧ t.port.intcause = 0 ∧ t.port.startRefused = false ∧
      t.port.exchange = s.port.exchange ∧ t.port.fault = s.port.fault ∧ t.port.exbase = s.port.exbase ∧
      t.port.intmask = s.port.intmask ∧ t.port.updateCount = s.port.updateCount ∧ t.port.resetCause = .soft ∧
      t.port.snapshots = [] ∧ t.port.header = none ∧ t.port.scan = none ∧ t.port.configRead = none ∧
      t.tb.timeValue = (elapse dt s).tb.timeValue ∧ t.tb.subMs = (elapse dt s).tb.subMs ∧
      t.tb.dowOffset = s.tb.dowOffset ∧ t.tb.nom60 = s.tb.nom60 ∧ t.tb.lock = .acquire ∧
      t.tb.pace = nominalPace s.tb.nom60 ∧ t.tb.steady = 0 ∧ t.tb.hold = 0 ∧ t.tb.crossings = [] ∧
      t.tb.pendingVerdict = none ∧ t.tb.lastVerdict = .none ∧ t.tb.lastMeasured = 0 ∧
      t.tb.freeTickAt = s.tick + dt + 2000000 ∧
      t.links.length = 4 ∧ (∀ k ∈ t.links, freshLink k) ∧ t.channels.length = 28 ∧
      (∀ c ∈ t.channels, freshChannel c) ∧
      (∀ ch < 28, (t.channel ch).offset = configuredOffset s.store ch) ∧
      t.store.active = s.store.active ∧ t.store.pend = none ∧ t.store.divisor = s.store.divisor ∧
      t.store.factory = s.store.factory ∧ t.filing.transit = none ∧ t.spectral.decomposing = none ∧
      t.ic.current = none ∧ t.ic.seq = s.ic.seq ∧ t.ic.activeSlot = s.ic.activeSlot ∧ t.ic.forced = s.ic.forced ∧
      t.ic.demandPending = s.ic.demandPending ∧ t.ic.unfiled = s.ic.unfiled ∧ t.ic.pendingEnd = false ∧
      t.ic.pendingStep = false ∧ t.acct.regs = s.acct.regs ∧ t.acct.demand = s.acct.demand ∧
      t.orders.resetDue = true ∧ t.orders.queue = s.orders.queue ∧
      t.orders.inFlight = s.orders.inFlight.map (fun f => { f with ended := !f.completed }) ∧
      t.orders.head = (if s.orders.queue ≠ [] ∧ s.port.exchange = .online ∧ s.port.exbase ≠ 0 then
        some { base := s.port.exbase, issuedAt := t.tick } else none) ∧
      t.ic.closeOrders = [] ∧ t.ic.demandOrders = [] ∧
      t.filing.held = (match s.filing.transit with
        | none => s.filing.held
        | some x => some { (match s.filing.held with | some h => mergeFiles x.file h | none => x.file) with
            unreported := [] }) ∧
      t.spectral.cap = none ∧ t.acct.opening = s.acct.opening ∧ t.acct.measured = s.acct.measured ∧
      ∀ (due : List Due) (covered : List Nat),
        due = List.replicate (s.acct.closes.length + (if s.ic.current = none then 0 else 1)) Due.acctFinish ++
          List.replicate (s.stats.closes.length + (if s.ic.current = none then 0 else 1)) Due.statFinish →
        covered = (match s.spectral.decomposing with
          | none => []
          | some d => d.points.map (fun w => w.point) ++
            (if d.points.any (fun w => d.cap.cfg.memberMask.testBit w.point) then [4] else [])) →
        (due ≠ [] → t.due = due ++ [.statReset] ∧ t.stats.limits = s.stats.limits ∧
          t.stats.monitors = s.stats.monitors ∧ t.stats.accs = s.stats.accs.map (fun a =>
            { a with discarded := a.discarded + (covered.filter (fun p => a.point = p)).length })) ∧
        (due = [] → t.due = [] ∧ t.stats = (microStep .statReset s).stats)) ∧
  (∀ s : State, microStep .statReset s = { s with
      stats := { s.stats with
        accs := [], limits := [], openDue := false
        monitors := s.stats.monitors.map (fun k => { k with
          force := k.stored, cur := k.stored, dirty := false, restartDue := false, count := 0, last := 0
          state := if k.stored.enable = 1 ∧ k.stored.lo ≤ k.stored.hi then .quiet else .off }) } })

/-- A soft reset closes an open interval with the cause RESET alone, at all three units. A soft reset that finds an
interval open, with nothing due and no event in hand, passes to the accounting, statistics and filing units one close
with the cause set RESET, the open interval's number, slot, start time, partial mark, sync flags, generation, masks
and length, and the time value at the reset as its end; the filing unit begins to gather its parts. A soft reset that
finds none passes none to any of the three units. (R98: the RESET close falls at the reset itself.) -/
def Obligations.SoftResetClosesTheOpenInterval : Prop :=
  ∀ (s : State) (dt : Nat) (run resume : Bool), atRest s →
    (∀ o, s.ic.current = some o → ∃ t c, exec (.softReset ⟨dt, run, resume⟩) s = .next t ∧ t.ic.current = none ∧
      t.acct.closes = s.acct.closes ++ [c] ∧ t.stats.closes = s.stats.closes ++ [c] ∧ c.causes = 1#10 <<< 9 ∧
      c.seq = s.ic.seq ∧ c.slot = o.slot ∧ c.startTime = o.startTime ∧ c.endTime = (elapse dt s).tb.timeValue ∧
      c.generation = o.generation ∧ c.enabledMask = o.enabledMask ∧ c.memberMask = o.memberMask ∧
      c.partialMark = o.partialMark ∧ c.unexpected = o.unexpected ∧ c.malformed = o.malformed ∧
      c.timeout = o.timeout ∧ c.lengthMs = o.lengthMs ∧
      t.filing.assemblies = s.filing.assemblies ++ [{ close := c, acct := none, stat := none }]) ∧
    (s.ic.current = none → ∃ t, exec (.softReset ⟨dt, run, resume⟩) s = .next t ∧ t.ic.current = none ∧
      t.acct.closes = s.acct.closes ∧ t.stats.closes = s.stats.closes ∧
      t.filing.assemblies = s.filing.assemblies)

/-- A write to EXBASE is stored while HALTED with its low 12 bits 0, and ignored otherwise. EXBASE_WRITE with nothing
due: while measurement is HALTED the half written takes the value, EXBASE_LO with its low 12 bits 0, and the other
half is kept; a completion queue that waited for a base goes on (the model's choice, log 20). In STARTING, RUNNING and
STOPPING only time passes. (R196: where a write to the base is stored.) -/
def Obligations.ExbaseIsStoredWhileHalted : Prop :=
  ∀ (s : State) (dt : Nat) (hi : Bool) (v : Word32), quiet s →
    (s.port.meas = .halted → exec (.exbaseWrite dt hi v) s = .next (pump { elapse dt s with
      port := { s.port with
        exbase := BitVec.ofNat 64 (if hi then v.toNat * 2 ^ 32 + s.port.exbase.toNat % 2 ^ 32
          else s.port.exbase.toNat / 2 ^ 32 * 2 ^ 32 + v.toNat / 4096 * 4096) } })) ∧
    (s.port.meas ≠ .halted → exec (.exbaseWrite dt hi v) s = .next (elapse dt s))

/-- RUN set and cleared moves measurement between its states. A write of ENGCTL with RUN 1 and neither RESUME nor
SRST, RUN_SET, with nothing due and RUN 0: HALTED with a configuration active enters STARTING, clears START_REFUSED
and requests START; HALTED with none stays HALTED with RUN 0, sets START_REFUSED and requests START; STOPPING returns
to RUNNING and requests START. With RUN 1 already the write does not act. One with RUN 0 and neither RESUME nor SRST,
RUN_CLEAR, with nothing due and RUN 1: STARTING returns to HALTED at once and RUNNING enters STOPPING, each requesting
START; nothing else changes. With RUN 0 already the write does not act. A write of a whole value to ENGCTL acts by its
bits 0, 1 and 2 alone: with SRST it is the soft reset, whatever RUN and RESUME are; without it, it is RUN_SET or
RUN_CLEAR by RUN, carrying RESUME, and, where RESUME is set, RESUME carrying RUN is the same write. (R198, R200: what
a RUN write of 1 does. R199, R200: what a RUN write of 0 does. R197: the fields of a write. That a write is sent as
one of four commands is the DESIGN CHOICE of log 49; what a write with RESUME does is the statement of RESUME.) -/
def Obligations.RunIsSetAndCleared : Prop :=
  (∀ (s : State) (dt : Nat), quiet s →
      (s.port.run = false → s.port.meas = .halted → s.store.active ≠ none →
        exec (.runSet ⟨dt, false⟩) s = .next (request .start { elapse dt s with
          port := { s.port with run := true, meas := .starting, startRefused := false } })) ∧
      (s.port.run = false → s.port.meas = .halted → s.store.active = none →
        exec (.runSet ⟨dt, false⟩) s = .next (request .start { elapse dt s with
          port := { s.port with startRefused := true } })) ∧
      (s.port.run = false → s.port.meas = .stopping →
        exec (.runSet ⟨dt, false⟩) s = .next (request .start { elapse dt s with
          port := { s.port with run := true, meas := .running } })) ∧
      (s.port.run = true → exec (.runSet ⟨dt, false⟩) s = .next (elapse dt s))) ∧
  (∀ (s : State) (dt : Nat), quiet s →
      (s.port.run = true → s.port.meas = .starting →
        exec (.runClear ⟨dt, false⟩) s = .next (request .start { elapse dt s with
          port := { s.port with run := false, meas := .halted } })) ∧
      (s.port.run = true → s.port.meas = .running →
        exec (.runClear ⟨dt, false⟩) s = .next (request .start { elapse dt s with
          port := { s.port with run := false, meas := .stopping } })) ∧
      (s.port.run = false → exec (.runClear ⟨dt, false⟩) s = .next (elapse dt s))) ∧
  (∀ (s : State) (dt : Nat) (v : Word32) (run resume : Bool), run = v.getLsbD 0 → resume = v.getLsbD 1 →
      (v.getLsbD 2 = true → engctlCommand dt v = .softReset ⟨dt, run, resume⟩) ∧
      (v.getLsbD 2 = false →
        exec (engctlCommand dt v) s = exec (if run then .runSet ⟨dt, resume⟩ else .runClear ⟨dt, resume⟩) s) ∧
      (v.getLsbD 2 = false → resume = true → exec (engctlCommand dt v) s = exec (.resume ⟨dt, run⟩) s))

/-- RESUME returns the exchange to ONLINE where BUSFAULT is clear, and RUN of the same write acts too. A write of
ENGCTL with RESUME and without SRST, with nothing due, sent as RESUME or as RUN_SET or RUN_CLEAR: RUN acts as in a
write without RESUME, and where RUN keeps its level that is only the passing of time. Besides, FAULTED with BUSFAULT
clear becomes ONLINE and the completion queue goes on at its head; FAULTED with BUSFAULT set stays FAULTED; ONLINE is
unchanged. RESUME changes nothing else: the fault record is kept. (R203: the table of RESUME. R197: RUN and RESUME of
one write each act.) -/
def Obligations.ResumeNeedsBusfaultClear : Prop :=
  ∀ (s : State) (dt : Nat) (run : Bool), quiet s →
    ∃ t, exec (if run then .runSet ⟨dt, false⟩ else .runClear ⟨dt, false⟩) s = .next t ∧
      (run = s.port.run → t = elapse dt s) ∧
      ∀ c ∈ [Instr.resume ⟨dt, run⟩, if run then .runSet ⟨dt, true⟩ else .runClear ⟨dt, true⟩],
        (s.port.exchange = .faulted → s.port.intcause.getLsbD 7 = false →
          exec c s = .next (pump { t with port := { t.port with exchange := .online } })) ∧
        (s.port.exchange = .faulted → s.port.intcause.getLsbD 7 = true → exec c s = .next t) ∧
        (s.port.exchange = .online → exec c s = .next t)

/-- A write to INTMASK stores all nine enables, and the line follows cause and enable. INTMASK_WRITE with nothing due
stores the nine low bits of the value and changes nothing else. In every state the interrupt line is asserted exactly
where some cause is both set in INTCAUSE and enabled in INTMASK, so it changes with either and with nothing else.
(R205: the enables and the line.) -/
def Obligations.InterruptMaskAndLine : Prop :=
  (∀ (s : State) (dt : Nat) (v : Word32), quiet s →
      exec (.intmaskWrite dt v) s = .next { elapse dt s with
        port := { s.port with intmask := BitVec.ofNat 9 v.toNat } }) ∧
    (∀ s : State, interruptLine s = true ↔ ∃ i < 9, s.port.intcause.getLsbD i = true ∧ s.port.intmask.getLsbD i = true)

/-- Registers read as their layout says, causes latch and clear, and writes are ignored during a reset and at no
register. A request sets its own cause and leaves the eight others and all other state as they were, whether masked or
not. INTCAUSE_CLEAR with nothing due clears each cause whose position holds 1 and leaves the others. A write to
ENGSTAT or to no register lets time pass and changes nothing else. While a power-on or pin reset is in progress every
write of the host to a register, SRST included, lets time pass and changes nothing else, and the clock stands (the
model's choice, log 6). A read of a register returns its layout: the two halves of the base, RUN alone of ENGCTL, the
measurement, exchange, lock and holding state in ENGSTAT, the nine causes and the nine enables, and 0 at every other
offset. After a power-on or the assertion of RESET_N every register reads 0. That an offset which holds no register
ignores a write and reads 0 is the model's choice, log 43. (R204: each cause is a latch. R195, 11.2: reads return the
registers, or the reset values, and writes are ignored.) -/
def Obligations.HostWritesLatchClearOrAreIgnored : Prop :=
  ((∀ (s : State) (c : IntCause) (i : Nat), i < 9 →
        (request c s).port.intcause.getLsbD i = (s.port.intcause.getLsbD i || decide (i = c.bit)) ∧
          request c s = { s with port := { s.port with intcause := (request c s).port.intcause } }) ∧
      (∀ (s : State) (dt : Nat) (v : Word32), quiet s → ∃ cs : BitVec 9,
        exec (.intcauseClear dt v) s = .next { elapse dt s with port := { s.port with intcause := cs } } ∧
          ∀ i < 9, cs.getLsbD i = (s.port.intcause.getLsbD i && !v.getLsbD i)) ∧
      (∀ (s : State) (dt off : Nat) (v : Word32), quiet s →
        exec (.registerWriteIgnored dt off v) s = .next (elapse dt s))) ∧
  (∀ (s : State) (dt off : Nat) (hi run resume : Bool) (v : Word32), s.phase ≠ .running →
      ∀ c ∈ [Instr.exbaseWrite dt hi v, .runSet ⟨dt, resume⟩, .runClear ⟨dt, resume⟩, .resume ⟨dt, run⟩, .softReset ⟨dt, run, resume⟩,
        .intcauseClear dt v, .intmaskWrite dt v, .registerWriteIgnored dt off v], exec c s = .next { s with tick := s.tick + dt }) ∧
  ((∀ s : State,
      (readRegister s 0x00).toNat = s.port.exbase.toNat % 2 ^ 32 ∧
      (readRegister s 0x04).toNat = s.port.exbase.toNat / 2 ^ 32 ∧
      (readRegister s 0x08).toNat = (if s.port.run then 1 else 0) ∧
      (readRegister s 0x0C).toNat =
        (match s.port.meas with | .halted => 0 | .starting => 1 | .running => 2 | .stopping => 3)
          + 16 * (match s.port.exchange with | .online => 0 | .faulted => 1)
          + 256 * (match s.tb.lock with | .acquire => 0 | .locked => 1 | .holdover => 2 | .free => 3)
          + (if s.filing.held.isSome || s.filing.transit.any (fun t => t.fromHeld) then 4096 else 0) ∧
      (readRegister s 0x10).toNat = s.port.intcause.toNat ∧ (readRegister s 0x14).toNat = s.port.intmask.toNat ∧
      (∀ off, off ∉ [0x00, 0x04, 0x08, 0x0C, 0x10, 0x14] → readRegister s off = 0)) ∧
    (∀ (s : State) (dt : Nat) (nom60 : Bool), ∀ c ∈ [Instr.powerOn nom60, .pinResetAssert dt],
      ∃ t, exec c s = .next t ∧ ∀ off, readRegister t off = 0))

/-- A free tick reads the order table where it can be reached and sets the next tick 2,000,000 ticks on. FREE_TICK
while HALTED with the exchange ONLINE, a base placed, no monitor settings waiting and no decomposition overdue: at the
tick's instant, or now where it has passed, the scan's reads are issued; the next free tick is 2,000,000 ticks later;
a pending INTERVAL_END, TARIFF_STEP and demand reset are taken with the event; and nothing else changes. A
decomposition of the last run that is overdue, N nominal paces after its boundary, has completed before the tick. In
any exchange state the tick is an event that does in order: the monitor settings, the scan, a pending INTERVAL_END and
TARIFF_STEP, the close causes, the decision, the orders' ends, the retry of the held file, the header write and its
own end. With the exchange FAULTED, or base 0, the scan part makes no read and the rest goes on at once: with nothing
pending the whole tick passes, the tariff slot is evaluated, and nothing else changes. "Or now" is the model's choice,
log 1; that the tick itself completes an overdue decomposition is its reading of R47, log 25. The order of the event's
parts is the model's reading: the held file and then the header block last (log 10), the orders' ends after the
decision (log 11), a TARIFF_STEP after the handing over of the orders (log 31). (R33, R157: the free tick and its
scan; R196, R202: no scan; R47: the last decomposition of a run. The order of what is due is that of log 10, log 11
and log 31.) -/
def Obligations.FreeTickScansWhileHalted : Prop :=
  ((∀ s : State, atRest s → s.port.meas = .halted → s.port.exchange = .online → s.port.exbase ≠ 0 →
    (∀ k ∈ s.stats.monitors, k.dirty = false ∧ k.restartDue = false) →
    (s.spectral.decomposing ≠ none → max s.tick s.tb.freeTickAt ≤
      s.tb.runStart + (s.tb.winStart + windowLen s.tb.nom60 * nominalPace s.tb.nom60 + 255) / 256) →
    ∃ w ev, w = elapse (s.tb.freeTickAt - s.tick) s ∧
      exec .freeTick s = .next { w with
        event := some ev
        ic := { w.ic with pendingEnd := false, pendingStep := false }
        tb := { w.tb with freeTickAt := w.tick + 2000000 }
        port := { w.port with scan := some { base := s.port.exbase, issuedAt := w.tick } } } ∧
      ev.kind = .tick ∧ ev.halting = false ∧ ev.tick = w.tick ∧ ev.tOld = w.tb.timeValue ∧ ev.tNew = w.tb.timeValue ∧
      ev.intervalEnd = s.ic.pendingEnd ∧ ev.tariffStep = s.ic.pendingStep ∧ ev.demand = s.ic.demandPending ∧
      ev.unfiled = s.ic.unfiled ∧ ev.inTransit = s.filing.transit.isSome) ∧
  (∀ s w : State, atRest s → measuring s = false → s.spectral.decomposing ≠ none →
    w = elapse (s.tb.freeTickAt - s.tick) s →
    s.tb.runStart + (s.tb.winStart + windowLen s.tb.nom60 * nominalPace s.tb.nom60 + 255) / 256 < w.tick →
    exec .freeTick s = .next (advance (tickInstant (settle { w with due := [.decompose] }))))) ∧
  (∀ (s w : State), atRest s → s.port.meas = .halted → w = elapse (s.tb.freeTickAt - s.tick) s →
    (s.spectral.decomposing ≠ none → w.tick ≤
      s.tb.runStart + (s.tb.winStart + windowLen s.tb.nom60 * nominalPace s.tb.nom60 + 255) / 256) →
    exec .freeTick s = .next (advance { w with
      event := some {
        kind := .tick, halting := false, tick := w.tick, tOld := w.tb.timeValue, tNew := w.tb.timeValue
        intervalEnd := s.ic.pendingEnd, tariffStep := s.ic.pendingStep, demand := s.ic.demandPending
        unfiled := s.ic.unfiled, inTransit := s.filing.transit.isSome }
      ic := { s.ic with pendingEnd := false, pendingStep := false }
      tb := { w.tb with freeTickAt := w.tick + 2000000 }
      due := [.monitorEffect, .scan, .intervalEnd, .tariffStep, .clockCheck, .timeoutCheck, .demandApply, .decide,
        .finishOrders, .heldRetry, .header, .endEvent] })) ∧
  (∀ v : State, named .scan v = false ∧
    ((v.port.exchange = .faulted ∨ v.port.exbase = 0) → microStep .scan v = v) ∧
    (v.port.exchange = .online → v.port.exbase ≠ 0 → microStep .scan v = { v with
      port := { v.port with scan := some { base := v.port.exbase, issuedAt := v.tick } }
      event := v.event.map (fun ev => { ev with todo := v.due }), due := [] })) ∧
  (∀ s : State, atRest s → s.port.meas = .halted → (s.port.exchange = .faulted ∨ s.port.exbase = 0) →
    s.ic.pendingEnd = false → s.ic.pendingStep = false →
    (∀ k ∈ s.stats.monitors, k.dirty = false ∧ k.restartDue = false) → (∀ c ∈ s.channels, c.request = none) →
    (s.spectral.decomposing ≠ none → max s.tick s.tb.freeTickAt ≤
      s.tb.runStart + (s.tb.winStart + windowLen s.tb.nom60 * nominalPace s.tb.nom60 + 255) / 256) →
    ∃ (w : State) (v : TariffView), w = elapse (s.tb.freeTickAt - s.tick) s ∧
      v = evaluateTariff s.store { s.ic with pendingEnd := false, pendingStep := false } s.tb.dowOffset w.tb.timeValue
        false ∧
      exec .freeTick s = .next { w with
        ic := { s.ic with lastTime := none, activeSlot := v.slot, forced := v.forced, governing := v.governing }
        tb := { w.tb with freeTickAt := w.tick + 2000000 } })

/-- A free tick instant found while STARTING is the first boundary of a run. FREE_TICK while STARTING with the
exchange ONLINE, a base placed, no monitor settings waiting and no decomposition overdue: measurement enters RUNNING
and START is requested; the first window begins at exact instant 0 at nominal pace, in ACQUIRE with steady and hold
count 0, an empty crossing list and no pending verdict; the links of enabled points go to SEEKING with index 0 placed
as substituted, the others keep their state; and the scan is issued, with the rest of the event waiting for it. In any
exchange state the event holds the tick, its time value as the original and the standing one, and what the sync line
left pending; where the exchange area cannot be reached no read is made and the rest goes on at once. At the end of an
event while measuring, the window that begins captures the active configuration and each monitor's settings in force,
the standing time value as its start time, and the channels that are STUCK. The first boundary falls at the free
tick's instant, or now where that has passed (the model's choice, log 1); the overdue decomposition is log 25. The
order of the event's parts is the model's reading: the held file and then the header block last (log 10), the orders'
ends after the decision (log 11), a TARIFF_STEP after the handing over of the orders (log 31). So is that what fell
while the event waited comes about as the event ends, each part as of its own instant (log 9). (R34, R199, R10: the
first boundary. R157, R196: its scan. R48, R20, R31: what the window that begins takes. The order of what is due is
that of log 10, log 11 and log 31; what waited in the event is log 9.) -/
def Obligations.FirstBoundaryStartsTheRun : Prop :=
  (∀ (s : State) (c : Cfg), atRest s → s.port.meas = .starting → s.port.exchange = .online → s.port.exbase ≠ 0 →
    s.store.active = some c → (∀ k ∈ s.stats.monitors, k.dirty = false ∧ k.restartDue = false) →
    (s.spectral.decomposing ≠ none → max s.tick s.tb.freeTickAt ≤
      s.tb.runStart + (s.tb.winStart + windowLen s.tb.nom60 * nominalPace s.tb.nom60 + 255) / 256) →
    ∃ t ev, exec .freeTick s = .next t ∧ t.tick = max s.tick s.tb.freeTickAt ∧ t.port.meas = .running ∧
      t.event = some ev ∧ ev.kind = .first ∧ ev.halting = false ∧ ev.tick = t.tick ∧ ev.tOld = t.tb.timeValue ∧
      ev.tNew = t.tb.timeValue ∧ ev.intervalEnd = s.ic.pendingEnd ∧ ev.tariffStep = s.ic.pendingStep ∧
      ev.demand = s.ic.demandPending ∧ ev.unfiled = s.ic.unfiled ∧ ev.inTransit = s.filing.transit.isSome ∧
      ev.todo = [.intervalEnd, .tariffStep, .clockCheck, .timeoutCheck, .demandApply, .decide, .finishOrders,
        .heldRetry, .header, .endEvent] ∧
      t.port.intcause.getLsbD 8 = true ∧ t.tb.runStart = t.tick ∧ t.tb.winStart = 0 ∧ t.tb.strobe = 0 ∧
      t.tb.pace = nominalPace s.tb.nom60 ∧ t.tb.lock = .acquire ∧ t.tb.steady = 0 ∧ t.tb.hold = 0 ∧
      t.tb.crossings = [] ∧ t.tb.pendingVerdict = none ∧ t.tb.winLocked = false ∧
      t.port.scan = some { base := s.port.exbase, issuedAt := t.tick } ∧ t.links.length = s.links.length ∧
      (∀ l : Fin 4, l.val < s.links.length → c.enabledMask.testBit l.val = true →
        (t.link l).state = .seeking ∧ (t.link l).syncRun = 0 ∧ (t.link l).failRun = 0 ∧
          (t.link l).lastGood = List.replicate 7 none ∧ (t.link l).slots = [zeroSlot] ∧
          (t.link l).drops = (s.link l).drops ∧ (t.link l).dropReason = (s.link l).dropReason) ∧
      (∀ l : Fin 4, c.enabledMask.testBit l.val = false → t.link l = s.link l) ∧
      t.channels = s.channels ∧ t.acct = s.acct ∧ t.filing = s.filing ∧ t.store = s.store ∧ t.orders = s.orders) ∧
  (∀ (s w : State) (c : Cfg), atRest s → s.port.meas = .starting → s.store.active = some c →
    w = elapse (s.tb.freeTickAt - s.tick) s →
    (s.spectral.decomposing ≠ none → w.tick ≤
      s.tb.runStart + (s.tb.winStart + windowLen s.tb.nom60 * nominalPace s.tb.nom60 + 255) / 256) →
    ∃ (links : List Link) (tb : Timebase), exec .freeTick s = .next (advance { w with
      event := some {
        kind := .first, halting := false, tick := w.tick, tOld := w.tb.timeValue, tNew := w.tb.timeValue
        intervalEnd := s.ic.pendingEnd, tariffStep := s.ic.pendingStep, demand := s.ic.demandPending
        unfiled := s.ic.unfiled, inTransit := s.filing.transit.isSome }
      ic := { s.ic with pendingEnd := false, pendingStep := false }
      tb := tb, links := links
      port := { s.port with meas := .running, intcause := s.port.intcause ||| (1#9 <<< 8) }
      due := [.monitorEffect, .scan, .intervalEnd, .tariffStep, .clockCheck, .timeoutCheck, .demandApply, .decide,
        .finishOrders, .heldRetry, .header, .endEvent] }) ∧
      tb = { w.tb with
        lock := .acquire, pace := nominalPace s.tb.nom60, steady := 0, hold := 0, crossings := []
        pendingVerdict := none, runStart := w.tick, winStart := 0, prevWinStart := 0, strobe := 0
        winNo := s.tb.winNo + 1, winLocked := false } ∧
      links.length = s.links.length ∧
      ∀ l < s.links.length, links.getD l {} = (if c.enabledMask.testBit l then { s.links.getD l {} with
        state := .seeking, slots := [zeroSlot], failRun := 0, syncRun := 0, syncLast := none
        lastGood := List.replicate 7 none, runningAtStart := false, enteredAt := none, prevV1 := none
        restart := none } else s.links.getD l {})) ∧
  (∀ (s : State) (ev : Event), s.event = some ev → measuring s = true → ∃ chans, microStep .endEvent s = { s with
      event := none
      due := (if ev.deferred = [] then [] else ev.deferred ++ [.asOf none]) ++ s.due
      channels := chans
      spectral := { s.spectral with cap := s.store.active.map (fun c =>
        { cfg := c, mons := s.stats.monitors.map (fun k => k.force) }) }
      tb := { s.tb with winStartTime := ev.tNew }
      ic := { s.ic with lastTime := some ev.tNew } } ∧
    chans = s.channels.map (fun c => { c with
      stuckAtStart := c.stuck, request := c.request.map (fun r => { r with late := false }) }))

/-- A strobe is emitted at its tick, fills a SEEKING link with zeros and finds a silent link out. SAMPLE_STROBE inside
a window with no event in hand: it falls on the first tick at or after its exact instant, or now where that has
passed; c rises by one; a SEEKING link has every index up to c placed, the new ones with zeros; a RUNNING and a DOWN
link keep their record; and exactly the RUNNING links whose failure run plus unanswered count reaches 64 are due to
drop with SILENCE, in link order (the order is the model's choice, log 21). "Or now" is the model's choice, log 1.
(R30, R6, R7, R11: one strobe on all four links at once.) -/
def Obligations.StrobeReachesEveryLink : Prop :=
  ∀ s : State, atRest s → measuring s = true → s.tb.strobe + 1 < windowLen s.tb.nom60 →
    ∃ t, exec .sampleStrobe s = .next t ∧ t.tb.strobe = s.tb.strobe + 1 ∧
      t.tick = max s.tick (s.tb.runStart + (s.tb.winStart + (s.tb.strobe + 1) * s.tb.pace + 255) / 256) ∧
      (∀ l : Fin 4, (s.link l).state ≠ .seeking → t.link l = s.link l) ∧
      (∀ l : Fin 4, (s.link l).state = .seeking → t.link l = { s.link l with
        slots := List.replicate (s.tb.strobe + 2 - (s.link l).slots.length) 
          { subst := true, ch := List.replicate 7 { good := false, raw := 0, val := 0, clipped := false } } ++
          (s.link l).slots }) ∧
      t.due = ([0, 1, 2, 3].filter (fun l : Fin 4 => (s.link l).state = .running &&
        decide (64 ≤ (s.link l).failRun + (s.tb.strobe + 1 - (s.link l).slots.length)))).map
          (fun l => Due.drop l .silence) ∧
      t.channels = s.channels ∧ t.acct = s.acct ∧ t.ic = s.ic ∧ t.stats = s.stats ∧ t.filing = s.filing ∧
      t.orders = s.orders ∧ t.store = s.store ∧ t.port = s.port ∧ t.spectral = s.spectral

/-- A boundary falls N paces after its window began. WINDOW_BOUNDARY with the last strobe of the window emitted, the
previous decomposition complete and no event in hand: time passes to the first tick at or after the window's start
plus N paces, and the boundary's event is in hand there, halting where measurement is STOPPING; what the boundary does
then comes about in order up to the first command it names. Where that tick has passed the boundary falls now (the
model's choice, log 1). What is due, in order: each link's substitution, the window's record, the lock step, the
monitor settings, the scan, the interval controller's causes, the demand reset, the decision, the orders that finish
with the event, the held file and the header block. A window has 2,560 samples at 50 Hz and 3,072 at 60 Hz; the
nominal pace is 200,000 and 166,667. That order is the model's: what ends with the window before the scan (log 44),
the links by number (log 21), a TARIFF_STEP after the orders (log 31), the orders that finish with the event after the
decision (log 11), the held file and then the header block last (log 10). A WINDOW_BOUNDARY commanded with strobes or
a decomposition outstanding brings those about first (the model's reading, log 25) and is not stated here. (R30, R32:
the boundary's instant and report. The order of what is due is that of log 10, log 11, log 21, log 31 and log 44, not
of these rules.) -/
def Obligations.WindowBoundaryFallsAtItsInstant : Prop :=
  (∀ s : State, atRest s → measuring s = true → s.tb.strobe + 1 = windowLen s.tb.nom60 →
    s.spectral.decomposing = none →
    ∃ w, w = elapse (s.tb.runStart + (s.tb.winStart + windowLen s.tb.nom60 * s.tb.pace + 255) / 256 - s.tick) s ∧
      exec .windowBoundary s = .next (advance { w with
        event := some {
          kind := .boundary, halting := decide (s.port.meas = .stopping), tick := w.tick
          tOld := w.tb.timeValue, tNew := w.tb.timeValue, intervalEnd := s.ic.pendingEnd
          tariffStep := s.ic.pendingStep, demand := s.ic.demandPending, unfiled := s.ic.unfiled
          inTransit := s.filing.transit.isSome }
        ic := { s.ic with pendingEnd := false, pendingStep := false }
        due := ([0, 1, 2, 3] : List (Fin 4)).map Due.finishLink ++ [.closeWindow, .lockStep, .monitorEffect, .scan,
          .intervalEnd, .tariffStep, .clockCheck, .timeoutCheck, .demandApply, .decide, .finishOrders, .heldRetry,
          .header, .endEvent] })) ∧
  windowLen false = 2560 ∧ windowLen true = 3072 ∧ nominalPace false = 200000 ∧ nominalPace true = 166667

/-- The end of a window hands its record to the window store and begins the next window. The end of a window puts into
the decomposing half a record with the start time, the boundary's original time value, the pace, N times the pace, the
frequency, the locked flag, and the open interval's number and slot; the window's number; and for each point of the
governing configuration its substituted count, its class by R24, its channels STUCK at the window's start and its
offset update mark. At a boundary that does not halt the next window begins where this one stops, with c 0 and a
number one higher; this start is kept as the previous one and the marks are cleared; RUNNING links open an empty
record and SEEKING links one with index 0 placed, both carry their last V1 on and count the window's substitutions,
DOWN links stay; nothing else changes. Then come: the check of each calibration in flight; the effect of each offset
request; the clip runs of each channel of the window's points; the check of each restart in flight. Before the end,
every RUNNING link has its unplaced indices to N - 1 filled with last good samples, its failure run rises by their
number, and at 64 it is due to drop with SILENCE; other links keep theirs. The verdict's first part: NO_LINK where the
reference link was not RUNNING from the window's start to its end (the model's reading, log 17), else FEW_CROSSINGS
without a measured pace, OUT_OF_RANGE outside the valid range, else VALID. Crossings: each consecutive pair of good V1
samples, the first below 0 and the second not, has one, interpolated and rounded half up; a link RUNNING from the
start adds those of the window, with that from the last index before it; one that entered RUNNING in the window begins
a new list at that index; any other empties it; crossings before the previous window leave it. The measured pace is
the span from the crossing C places before the last one, divided by N, rounded half up, where the list has C + 1 and
the last lies in the window. (R31, R46, R24, R8, R2: what the end of a window does, before the lock step. R23, R17,
R18, R19, R14: what it makes due; the order of these is the DESIGN CHOICE of log 21 and log 44. R6, R7: the fill
before it. R35 to R37: the crossings, the measured pace and the tests of the boundary. The window's number is the
model's own, log 29.) -/
def Obligations.WindowEndHandsItsRecordOn : Prop :=
  (∀ (s : State) (ev : Event) (o : OpenInterval) (cap : Captured), s.event = some ev → s.ic.current = some o →
    s.spectral.cap = some cap →
    ∃ d, (closeWindow s).spectral.decomposing = some d ∧
      d.record = { startTime := s.tb.winStartTime, endTime := ev.tOld, pace := s.tb.pace
                   duration := windowLen s.tb.nom60 * s.tb.pace, freq := 10000000000 / s.tb.pace
                   locked := s.tb.winLocked, seq := s.ic.seq, slot := o.slot } ∧
      d.cap = cap ∧ d.number = s.tb.winNo ∧ d.points.map (fun w => w.point) = maskPoints cap.cfg.enabledMask ∧
      (∀ w ∈ d.points, w.slots = (s.link (Fin.ofNat 4 w.point)).slots ∧
        w.subst = (w.slots.filter (fun sl => sl.subst)).length ∧
        w.stuck = (List.range 7).map (fun pos => (s.channel (7 * w.point + pos)).stuckAtStart) ∧
        w.mark = (List.range 7).any (fun pos => (s.channel (7 * w.point + pos)).mark) ∧
        w.cls = (if (s.link (Fin.ofNat 4 w.point)).state ≠ .running ∨ 256 ≤ w.subst then .missing
          else if 9 ≤ w.subst ∨ true ∈ w.stuck then .flagged else .clean))) ∧
  (∀ (s : State) (ev : Event) (cap : Captured) (ref : Link), s.event = some ev → ev.halting = false →
    s.spectral.cap = some cap → ref = s.link (Fin.ofNat 4 cap.cfg.refPoint) →
    ∃ d m links, d.verdict = some m ∧
      closeWindow s = { s with
        spectral := { s.spectral with decomposing := some d }
        links := links
        channels := s.channels.map (fun c => { c with mark := false })
        tb := { s.tb with
          crossings := scanCrossings s.tb ref, strobe := 0, prevWinStart := s.tb.winStart
          winStart := s.tb.winStart + windowLen s.tb.nom60 * s.tb.pace, winNo := s.tb.winNo + 1 }
        due := ((List.finRange 28).filter (fun ch => (s.channel ch.val).calibration.isSome)).map Due.calibrationCheck ++
          ((List.finRange 28).filter (fun ch => (s.channel ch.val).request.isSome)).map Due.offsetEffect ++
          d.points.flatMap (fun w => (List.range 7).map (fun pos => Due.clip (Fin.ofNat 28 (7 * w.point + pos))
            (w.slots.any (fun sl => (sl.ch.getD pos {}).good && (sl.ch.getD pos {}).clipped)))) ++
          (([0, 1, 2, 3] : List (Fin 4)).filter (fun l => (s.link l).restart.isSome)).map Due.restartCheck ++ s.due } ∧
      links.length = s.links.length ∧
      (∀ l < s.links.length, ∀ k, k = s.links.getD l {} → links.getD l {} = (if k.state = .down then k else { k with
        slots := if k.state = .running then [] else [zeroSlot]
        enteredAt := none
        runningAtStart := decide (k.state = .running)
        substituted := k.substituted + BitVec.ofNat 32 (k.slots.filter (fun sl => sl.subst)).length
        prevV1 := k.slots.head?.map (fun sl => {
          good := (sl.ch.getD 0 {}).good, val := (sl.ch.getD 0 {}).val
          instant := 256 * ((s.tb.winStart + (windowLen s.tb.nom60 - 1) * s.tb.pace + 255) / 256) }) })) ∧
      m.pace = measuredPace s.tb.nom60 s.tb.winStart (scanCrossings s.tb ref) ∧
      ((ref.state ≠ .running ∨ ref.runningAtStart = false ∨ ref.enteredAt ≠ none) → m.verdict = .noLink) ∧
      (ref.state = .running → ref.runningAtStart = true → ref.enteredAt = none →
        (m.pace = none → m.verdict = .fewCrossings) ∧
        (∀ p, m.pace = some p → m.verdict =
          (if p < (if s.tb.nom60 then 151515 else 181818) ∨ (if s.tb.nom60 then 185185 else 222222) < p
            then .outOfRange else .valid)))) ∧
  (∀ (nom60 : Bool) (winStart c n last : Nat) (crossings : List Nat), c = (if nom60 then 12 else 10) →
    n = crossings.length → last = crossings.getD (n - 1) 0 →
    ((n < c + 1 ∨ last < winStart) → measuredPace nom60 winStart crossings = none) ∧
    (c + 1 ≤ n → winStart ≤ last → measuredPace nom60 winStart crossings =
      some ((2 * (last - crossings.getD (n - 1 - c) 0) + 256 * c) / (2 * (256 * c))))) ∧
  (∀ (tb : Timebase) (k : Link) (x : Nat → EdgeSample) (cross : EdgeSample → EdgeSample → List Nat),
    (∀ n, x n = { good := ((k.slots.reverse.getD n { subst := false, ch := [] }).ch.getD 0 {}).good
                  val := ((k.slots.reverse.getD n { subst := false, ch := [] }).ch.getD 0 {}).val
                  instant := 256 * ((tb.winStart + n * tb.pace + 255) / 256) }) →
    (∀ a b, cross a b = (if a.good = true ∧ b.good = true ∧ a.val < 0 ∧ 0 ≤ b.val then
      [a.instant + (2 * ((b.instant - a.instant) * (-a.val).toNat) + (b.val - a.val).toNat) /
        (2 * (b.val - a.val).toNat)] else [])) →
    (k.state ≠ .running → scanCrossings tb k = []) ∧
    (∀ j, k.state = .running → k.enteredAt = some j → scanCrossings tb k =
      ((List.range (k.slots.length - 1 - j)).flatMap (fun n => cross (x (j + n)) (x (j + n + 1)))).filter
        (fun c => tb.prevWinStart ≤ c)) ∧
    (k.state = .running → k.enteredAt = none → k.runningAtStart = true → 0 < k.slots.length → scanCrossings tb k =
      (tb.crossings ++ (match k.prevV1 with | some e => cross e (x 0) | none => []) ++
        (List.range (k.slots.length - 1)).flatMap (fun n => cross (x n) (x (n + 1)))).filter
          (fun c => tb.prevWinStart ≤ c))) ∧
  (∀ (s : State) (l : Fin 4) (missing : Nat), missing = windowLen s.tb.nom60 - (s.link l).slots.length →
    ((s.link l).state = .running → microStep (.finishLink l) s =
      pushDue (if 64 ≤ (s.link l).failRun + missing then [.drop l .silence] else []) (s.setLink l { s.link l with
        failRun := (s.link l).failRun + missing
        slots := List.replicate missing { subst := true, ch := (s.link l).lastGood.map (fun v =>
          { good := false, raw := 0, val := v.getD 0, clipped := false }) } ++ (s.link l).slots })) ∧
    ((s.link l).state ≠ .running → microStep (.finishLink l) s = s))

/-- The boundary that halts measurement takes every link DOWN, ends what is in flight and discards its verdict. At the
boundary at which measurement reaches HALTED the window that ends enters decomposition without a verdict and no window
begins; measurement is HALTED and START is requested; every link is DOWN with an empty record and runs of 0 and keeps
its counters, but for the window's substitutions, and its drop reason; the free tick resumes 2,000,000 ticks later.
Every LINK_RESTART and every CALIBRATE in flight ends FAILED with BAD_STATE and result value 0: by link, the restart
and then its channels' calibrations by number, at the event's original time value. The offset requests and the clip
runs of the window's channels come next, as at any boundary; nothing else changes. The lock machine takes no step
there: it returns to ACQUIRE at nominal pace, with steady and hold count 0, an empty crossing list and no pending
verdict, and requests LOCK exactly where it was LOCKED. (R10, R34, R200: the halt. R14, R23: what it ends. The order
of the completions is the DESIGN CHOICE of log 21, that the halt comes before the 50th boundary of a restart that of
log 39, that the clip runs advance there too that of log 33; the completion time is log 15.) -/
def Obligations.HaltTakesEveryLinkDown : Prop :=
  (∀ (s : State) (ev : Event), s.event = some ev → ev.halting = true →
    ∃ d crossings links channels orders, d.verdict = none ∧
      closeWindow s = { s with
        spectral := { cap := none, decomposing := some d }
        links := links, channels := channels, orders := orders
        tb := { s.tb with
          crossings := crossings, strobe := 0, prevWinStart := s.tb.winStart
          winStart := s.tb.winStart + windowLen s.tb.nom60 * s.tb.pace, winNo := s.tb.winNo + 1
          freeTickAt := s.tick + 2000000 }
        port := { s.port with meas := .halted, intcause := s.port.intcause ||| (1#9 <<< 8) }
        due := ((List.finRange 28).filter (fun ch => (s.channel ch.val).request.isSome)).map Due.offsetEffect ++
          d.points.flatMap (fun w => (List.range 7).map (fun pos => Due.clip (Fin.ofNat 28 (7 * w.point + pos))
            (w.slots.any (fun sl => (sl.ch.getD pos {}).good && (sl.ch.getD pos {}).clipped)))) ++ s.due } ∧
      links.length = s.links.length ∧
      (∀ l < s.links.length, ∀ k, k = s.links.getD l {} → links.getD l {} = { k with
        state := .down, slots := [], failRun := 0, syncRun := 0, syncLast := none, lastGood := List.replicate 7 none
        runningAtStart := false, enteredAt := none, prevV1 := none, restart := none
        substituted := (if k.state = .down then k.substituted
          else k.substituted + BitVec.ofNat 32 (k.slots.filter (fun sl => sl.subst)).length) }) ∧
      channels.length = s.channels.length ∧
      (∀ ch < 28, channels.getD ch {} = { s.channel ch with mark := false, calibration := none }) ∧
      orders = ((([0, 1, 2, 3] : List (Fin 4)).flatMap (fun l =>
        (s.link l).restart.toList.map (fun r => r.entry) ++
          (List.range 7).flatMap (fun pos =>
            (s.channel (7 * l.val + pos)).calibration.toList.map (fun c => c.entry)))).foldl
              (fun u e => complete e true .badState 0 ev.tOld u) s).orders) ∧
  (∀ (s t : State) (ev : Event), s.event = some ev → ev.halting = true →
    t = { s with tb := { s.tb with
      lock := .acquire, pace := nominalPace s.tb.nom60, steady := 0, hold := 0, crossings := [], pendingVerdict := none
      winLocked := false } } →
    (s.tb.lock = .locked → microStep .lockStep s = request .lock t) ∧
    (s.tb.lock ≠ .locked → microStep .lockStep s = t))

/-- A good frame in its turn is placed with corrected samples. FRAME_ARRIVAL at a RUNNING link with no event in hand,
for a frame with its end symbol, index i + 1 at or below c, module fault flag clear and all seven words of correct
parity: index i + 1 takes the seven samples corrected by R15 and is not substituted, each becomes its channel's last
good sample, the failure run is 0, the good frame counter rises by one; every other link and all other state is
unchanged. The fields of a frame stand where 11.8 puts them: the index in bytes 0 and 1, the clip flags and the module
fault flag in byte 2, the signed words from byte 3 on, and the parity bits in byte 17, a word of correct parity where
its 16 bits and its parity bit together hold an odd number of ones. (R3, R4: a frame that fails no test. R214 and
11.8: its fields.) -/
def Obligations.GoodFrameIsPlaced : Prop :=
  (∀ (s : State) (dt : Nat) (l : Fin 4) (bytes : List Byte) (f : Frame), atRest s → f = decodeFrame bytes →
    (s.link l).state = .running → bytes.length = 18 → f.index = (s.link l).slots.length → f.index ≤ s.tb.strobe →
    f.fault = false → (∀ c < 7, f.parityOk.getD c false = true) → (s.link l).failRun < 64 →
    exec (.frameArrival dt l bytes) s = .next ((elapse dt s).setLink l { s.link l with
      slots := { subst := false, ch := (List.range 7).map (fun c =>
          { good := true, raw := f.words.getD c 0
            val := corrected (s.channel (7 * l.val + c)).offset (activeGain s (7 * l.val + c)) (f.words.getD c 0)
            clipped := isClipped (s.channel (7 * l.val + c)).offset (activeGain s (7 * l.val + c))
              (f.clips.getD c false) (f.words.getD c 0) }) } :: (s.link l).slots
      failRun := 0
      goodFrames := (s.link l).goodFrames + 1
      lastGood := (List.range 7).map (fun c =>
        some (corrected (s.channel (7 * l.val + c)).offset (activeGain s (7 * l.val + c)) (f.words.getD c 0))) })) ∧
  (∀ (bytes : List Byte) (f : Frame) (b : Nat → Nat), f = decodeFrame bytes → (∀ i, b i = (bytes.getD i 0).toNat) →
    f.index = b 0 + 256 * b 1 ∧ f.fault = (b 2).testBit 7 ∧ ∀ c < 7, ∀ w, w = b (3 + 2 * c) + 256 * b (4 + 2 * c) →
      f.clips.getD c false = (b 2).testBit c ∧
      f.words.getD c 0 = (if w < 32768 then (w : Int) else (w : Int) - 65536) ∧
      (f.parityOk.getD c false = true ↔ (((List.range 16).filter (fun i => w.testBit i)).length
        + (if (b 17).testBit c then 1 else 0)) % 2 = 1))

/-- Stale and framing-failed frames, gaps, failing words and completed failure runs at a RUNNING link. FRAME_ARRIVAL
with no event in hand. At a RUNNING link: a frame whose index is placed already or lies above c raises the stale
counter and is dropped; one without its end symbol raises the framing counter, and where index i + 1 has been strobed
places it with the last good samples, or 0, and raises the failure run, which drops the link with FRAMING_RUN at 64;
where it has not, nothing is placed. Any other frame: where the failure run plus the gap before it reaches 64, the gap
is filled with last good samples and the link is due to drop with INDEX_GAP, the frame being put to it again in
SEEKING; otherwise the gap is filled, and the frame is placed, each channel that fails by the module fault flag or its
parity with its last good sample, the others corrected and kept as last good; each failing word raises the parity
counter; with no failure the good counter rises and the failure run is 0, else it is run + gap + 1, and at 64 the link
is due to drop with MODULE_FAULT where the flag is set and PARITY_RUN where it is not. A DOWN link ignores every
frame. Nothing else changes. That a lone END symbol counts as a frame without its end is the model's choice, log 37.
That a frame too long fails at its END, on the strobe index of that instant, is the model's choice, log 47. (R3, R4,
R5, R7, R9: every frame but the one that follows on in good order.) -/
def Obligations.BadFramesAreCountedOrSubstituted : Prop :=
  ∀ (s : State) (dt : Nat) (l : Fin 4) (bytes : List Byte), atRest s →
    ((s.link l).state = .down → exec (.frameArrival dt l bytes) s = .next (elapse dt s)) ∧
    ((s.link l).state = .running → bytes.length = 18 →
      ((decodeFrame bytes).index < (s.link l).slots.length ∨ s.tb.strobe < (decodeFrame bytes).index) →
      exec (.frameArrival dt l bytes) s = .next ((elapse dt s).setLink l
        { s.link l with staleFrames := (s.link l).staleFrames + 1 })) ∧
    ((s.link l).state = .running → bytes.length ≠ 18 → s.tb.strobe < (s.link l).slots.length →
      exec (.frameArrival dt l bytes) s = .next ((elapse dt s).setLink l
        { s.link l with framingErrors := (s.link l).framingErrors + 1 })) ∧
    ((s.link l).state = .running → bytes.length ≠ 18 → (s.link l).slots.length ≤ s.tb.strobe →
      exec (.frameArrival dt l bytes) s = .next
        (pushDue (if 64 ≤ (s.link l).failRun + 1 then [.drop l .framingRun] else [])
          ((elapse dt s).setLink l { s.link l with
            framingErrors := (s.link l).framingErrors + 1
            failRun := (s.link l).failRun + 1
            slots := { subst := true, ch := (s.link l).lastGood.map (fun v =>
              { good := false, raw := 0, val := v.getD 0, clipped := false }) } :: (s.link l).slots }))) ∧
    (∀ (f : Frame) (lost : Slot), f = decodeFrame bytes → (s.link l).state = .running → bytes.length = 18 →
      (s.link l).slots.length ≤ f.index → f.index ≤ s.tb.strobe →
      lost = { subst := true, ch := (s.link l).lastGood.map (fun v =>
        { good := false, raw := 0, val := v.getD 0, clipped := false }) } →
      (64 ≤ (s.link l).failRun + (f.index - (s.link l).slots.length) →
        exec (.frameArrival dt l bytes) s = .next (pushDue [.drop l .indexGap, .seekFrame l bytes]
          ((elapse dt s).setLink l { s.link l with
            failRun := (s.link l).failRun + (f.index - (s.link l).slots.length)
            slots := List.replicate (f.index - (s.link l).slots.length) lost ++ (s.link l).slots }))) ∧
      ((s.link l).failRun + (f.index - (s.link l).slots.length) < 64 →
        ∀ (bad : Nat) (fails : Nat → Bool) (samples : List ChanSample) (run : Nat),
          bad = ((List.range 7).filter (fun c => !f.parityOk.getD c false)).length →
          (∀ c, fails c = (f.fault || !f.parityOk.getD c false)) →
          samples = (List.range 7).map (fun c =>
            if fails c then { good := false, raw := 0, val := ((s.link l).lastGood.getD c none).getD 0, clipped := false }
            else {
              good := true, raw := f.words.getD c 0
              val := corrected (s.channel (7 * l.val + c)).offset (activeGain s (7 * l.val + c)) (f.words.getD c 0)
              clipped := isClipped (s.channel (7 * l.val + c)).offset (activeGain s (7 * l.val + c))
                (f.clips.getD c false) (f.words.getD c 0) }) →
          run = (if f.fault || 0 < bad then (s.link l).failRun + (f.index - (s.link l).slots.length) + 1 else 0) →
          exec (.frameArrival dt l bytes) s = .next
            (pushDue (if 64 ≤ run then [.drop l (if f.fault then .moduleFault else .parityRun)] else [])
              ((elapse dt s).setLink l { s.link l with
                slots := { subst := f.fault || decide (0 < bad), ch := samples } ::
                  (List.replicate (f.index - (s.link l).slots.length) lost ++ (s.link l).slots)
                failRun := run
                goodFrames := if f.fault || 0 < bad then (s.link l).goodFrames else (s.link l).goodFrames + 1
                parityErrors := (s.link l).parityErrors + BitVec.ofNat 32 bad
                lastGood := (List.range 7).map (fun c =>
                  if fails c then (s.link l).lastGood.getD c none else some (samples.getD c {}).val) }))))

/-- A link that drops is filled up to c, goes to SEEKING, requests LINK and fails its calibrations. LINK_DROP of a
RUNNING link whose failure run has completed: the unplaced indices up to c take the last good samples, which are then
cleared; the link is SEEKING with sync and failure run 0; the drop reason is recorded and the drop counter rises by
one; LINK is requested; every CALIBRATE in flight on a channel of the link ends FAILED with BAD_STATE and result value
0, by channel number (the order is the DESIGN CHOICE of log 21); the other channels, the other links, the timebase and
the accounts are unchanged; then what follows comes about. (R12: a drop. R23: what it does to calibrations.) -/
def Obligations.LinkDropFillsAndSeeks : Prop :=
  ∀ (s : State) (l : Fin 4) (r : DropReason) (ds : List Due), s.due = .drop l r :: ds → (s.link l).state = .running →
    ∃ t, exec (.linkDrop l) s = .next (advance t) ∧ t.due = ds ∧
      t.link l = { s.link l with
        state := .seeking, dropReason := r, drops := (s.link l).drops + 1, failRun := 0, syncRun := 0
        syncLast := none, lastGood := List.replicate 7 none
        slots := List.replicate (s.tb.strobe + 1 - (s.link l).slots.length)
          { subst := true, ch := (s.link l).lastGood.map (fun v =>
            { good := false, raw := 0, val := v.getD 0, clipped := false }) } ++ (s.link l).slots } ∧
      (∀ l' : Fin 4, l' ≠ l → t.link l' = s.link l') ∧ t.port.intcause = s.port.intcause ||| (1#9 <<< 5) ∧
      (∀ ch, t.channel ch = (if ch / 7 = l.val then { s.channel ch with calibration := none } else s.channel ch)) ∧
      t.orders = (((List.range 7).flatMap (fun c =>
        (s.channel (7 * l.val + c)).calibration.toList.map (fun c => c.entry))).foldl
          (fun u e => complete e true .badState 0 (eventTime s) u) s).orders ∧ t.tb = s.tb ∧ t.tick = s.tick ∧ t.acct = s.acct ∧
      t.ic = s.ic ∧ t.stats = s.stats ∧ t.filing = s.filing ∧ t.store = s.store ∧ t.spectral = s.spectral

/-- Sixteen well-formed frames in a row take a SEEKING link into RUNNING, and any other frame ends the run.
FRAME_ARRIVAL at a SEEKING link with no event in hand. A well-formed frame (end symbol, index at or below c, module
fault flag clear, all parities correct) is counted; it continues the sync run where its index follows that of the
previous frame of the run, or is 0 after N - 1, and begins a run of 1 otherwise; a run that reaches 16 makes
LINK_ENTER_RUNNING due. A frame that is not well-formed sets the sync run to 0: one without its end symbol counts in
the framing counter, one with an index above c in the stale counter, and any other raises the parity counter by its
failing words. LINK_ENTER_RUNNING then puts the link in RUNNING, entered at the frame's index j: indices from j on are
unplaced again, the frame's seven corrected samples are placed at j and become the last good samples, the failure and
sync runs are 0, and a LINK_RESTART in flight completes with the boundaries it took; what follows comes about, and
nothing else changes. That a lone END symbol counts as a frame without its end is the model's choice, log 37. (R9,
R11, R14: how a link finds sync. R4, R15: the frame placed at the entry.) -/
def Obligations.SixteenFramesEnterRunning : Prop :=
  (∀ (s : State) (dt : Nat) (l : Fin 4) (bytes : List Byte) (f : Frame) (bad run : Nat) (k : Link), atRest s →
      f = decodeFrame bytes → k = s.link l → k.state = .seeking →
      bad = ((List.range 7).filter (fun c => !f.parityOk.getD c false)).length →
      (bytes.length ≠ 18 → exec (.frameArrival dt l bytes) s = .next ((elapse dt s).setLink l { k with
        framingErrors := k.framingErrors + 1, syncRun := 0, syncLast := none })) ∧
      (bytes.length = 18 → s.tb.strobe < f.index →
        exec (.frameArrival dt l bytes) s = .next ((elapse dt s).setLink l { k with
          staleFrames := k.staleFrames + 1, syncRun := 0, syncLast := none })) ∧
      (bytes.length = 18 → f.index ≤ s.tb.strobe → (f.fault = true ∨ 0 < bad) →
        exec (.frameArrival dt l bytes) s = .next ((elapse dt s).setLink l { k with
          parityErrors := k.parityErrors + BitVec.ofNat 32 bad, syncRun := 0, syncLast := none })) ∧
      (bytes.length = 18 → f.index ≤ s.tb.strobe → f.fault = false → bad = 0 →
        ((∃ last, k.syncLast = some last ∧ (f.index = last + 1 ∨ f.index = 0 ∧ last + 1 = windowLen s.tb.nom60)) →
          run = k.syncRun + 1) →
        ((∀ last, k.syncLast = some last → f.index ≠ last + 1 ∧ ¬(f.index = 0 ∧ last + 1 = windowLen s.tb.nom60)) →
          run = 1) →
        exec (.frameArrival dt l bytes) s = .next (pushDue (if 16 ≤ run then [.enterRunning l bytes] else [])
          ((elapse dt s).setLink l { k with
            goodFrames := k.goodFrames + 1, syncRun := run, syncLast := some f.index })))) ∧
    (∀ (s u : State) (l : Fin 4) (bytes : List Byte) (ds : List Due) (f : Frame) (samples : List ChanSample),
      s.due = .enterRunning l bytes :: ds → f = decodeFrame bytes → f.fault = false →
      (∀ c < 7, f.parityOk.getD c false = true) →
      samples = (List.range 7).map (fun c =>
        { good := true, raw := f.words.getD c 0
          val := corrected (s.channel (7 * l.val + c)).offset (activeGain s (7 * l.val + c)) (f.words.getD c 0)
          clipped := isClipped (s.channel (7 * l.val + c)).offset (activeGain s (7 * l.val + c))
            (f.clips.getD c false) (f.words.getD c 0) }) →
      u = ({ s with due := ds } : State).setLink l { s.link l with
        state := .running, failRun := 0, syncRun := 0, syncLast := none, restart := none, enteredAt := some f.index
        slots := { subst := false, ch := samples } :: (s.link l).slots.drop ((s.link l).slots.length - f.index)
        lastGood := samples.map (fun x => some x.val) } →
      ((s.link l).restart = none → exec (.linkEnterRunning l) s = .next (advance u)) ∧
      (∀ r, (s.link l).restart = some r → exec (.linkEnterRunning l) s =
        .next (advance (complete r.entry false .ok (BitVec.ofNat 64 r.boundaries) (eventTime s) u))))

/-- A corrected sample is the exact product rounded half away from zero, saturated to 32,767. For every offset, gain
and raw code the corrected sample lies within 32,767 of 0; where it is not saturated, 32,768 times it is within half
of 32,768 of (raw - O) x G, and at exactly half it is the value farther from 0; the sample is clipped where its flag
is set, its raw code is -32,768 or 32,767, or the correction saturated. (R15, R16: correction and clipping of a good
sample.) -/
def Obligations.CorrectionIsExactAndBounded : Prop :=
  ∀ (o raw : Int) (g : Nat) (flag : Bool),
    -32767 ≤ corrected o g raw ∧ corrected o g raw ≤ 32767 ∧
      (correctedExact o g raw < -32767 → corrected o g raw = -32767) ∧
      (32767 < correctedExact o g raw → corrected o g raw = 32767) ∧
      (-32767 ≤ correctedExact o g raw → correctedExact o g raw ≤ 32767 → corrected o g raw = correctedExact o g raw) ∧
      (∃ e : Int, (raw - o) * g = 32768 * correctedExact o g raw + e ∧ -16384 ≤ e ∧ e ≤ 16384 ∧
        (0 ≤ (raw - o) * g → e ≠ 16384) ∧ ((raw - o) * g < 0 → e ≠ -16384)) ∧
      (isClipped o g flag raw = true ↔ flag = true ∨ raw = -32768 ∨ raw = 32767 ∨
        correctedExact o g raw < -32767 ∨ 32767 < correctedExact o g raw)

/-- Channel numbers run from 0 to 27, seven to a point, and orders and parameters use them. The channel at position c
of metering point p is 7p + c: the 28 numbers are taken once each. A CALIBRATE on number ch acts on that channel, and
parameters 64, 96, 128, 160, 192 and 224 + ch read the state, the last window RMS, the factory gain and offset, the
active gain and the active offset of that channel. (R1: the numbering of the channels. R189: the parameters of a
channel. R22, R175: a CALIBRATE that begins.) -/
def Obligations.ChannelNumbers : Prop :=
  (∀ p < 4, ∀ c < 7, channelOf p c = 7 * p + c ∧ channelOf p c < 28 ∧
      ∀ p' < 4, ∀ c' < 7, channelOf p c = channelOf p' c' → p = p' ∧ c = c') ∧
    (∀ ch < 28, ∃ p < 4, ∃ c < 7, ch = channelOf p c) ∧
    (∀ (s : State) (ch : Nat), ch < 28 →
      paramValue s (64 + ch) = some (if (s.channel ch).stuck then 1 else 0) ∧
      paramValue s (96 + ch) = some (BitVec.ofNat 64 ((s.channel ch).lastRms % 2 ^ 32)) ∧
      paramValue s (128 + ch) = some (BitVec.ofNat 64 (s.store.factory.gains.getD ch 32768 % 2 ^ 32)) ∧
      paramValue s (160 + ch) = some (BitVec.ofInt 64 (s.store.factory.offsets.getD ch 0)) ∧
      paramValue s (192 + ch) = some (BitVec.ofNat 64 (activeGain s ch % 2 ^ 32)) ∧
      paramValue s (224 + ch) = some (BitVec.ofInt 64 (storedOffset (s.channel ch)))) ∧
    (∀ (s : State) (e : Fin 16) (f : InFlight) (ch : Nat), s.inFlight e = some f → f.entry = e → f.kind = 9 →
      param32 f.params 16 = ch → ch < 28 → (∃ ev, s.event = some ev ∧ ev.kind ≠ .tick ∧ ev.halting = false) →
      (s.channel ch).calibration = none → (s.channel ch).stuck = false →
      (s.link (Fin.ofNat 4 (ch / 7))).state = .running →
      handOver e s = s.setChannel ch { s.channel ch with
        calibration := some { entry := e, firstWindow := s.tb.winNo, sum := 0 } })

/-- Requested offsets take effect at a boundary, and idle windows count up to the 50th, which requests one.
OFFSET_CHANGE_EFFECT of a channel whose request has arrived: the offset takes the value requested, the idle count
restarts at 0, the request is spent, and the window that begins carries the mark where idle tracking asked; then what
follows comes about. A request while measuring waits; a request while it is not measuring takes effect at once (that
STARTING counts so is the model's reading, log 30), but that of a PARAM_WRITE at the boundary that halts waits for the
end of that event, where it takes effect (log 30). IDLE_OFFSET_UPDATE of a NORMAL channel with idle tracking on and an
idle count of 49 or more whose window was idle: the window mean clamped to 2,047 either way is requested as its offset
and the count restarts at 0; then what follows comes about. Any earlier idle window of such a channel raises its idle
count by one; a window that was not idle, any window with idle tracking off or no configuration, and any window of a
STUCK channel leave it 0; nothing else changes. The configured offset and the gain in use are those of the active
configuration, or the factory's where it sets the channel's use-factory flag or none is active. (R17: when a change
takes effect. R21: the idle count and the 50th idle window.) -/
def Obligations.OffsetRequestsTakeEffect : Prop :=
  ((∀ (s : State) (ch : Fin 28) (r : OffsetRequest) (ds : List Due), s.due = .offsetEffect ch :: ds →
        (s.channel ch.val).request = some r →
        exec (.offsetChangeEffect ch) s = .next (advance (State.setChannel { s with due := ds } ch.val
          { s.channel ch.val with offset := r.value, idleCount := 0, request := none, mark := r.idle }))) ∧
      (∀ (s : State) (ch : Nat) (v : Int) (idle late : Bool), measuring s = true →
        requestOffset ch v idle late s = s.setChannel ch
          { s.channel ch with request := some { value := v, idle := idle, late := late } }) ∧
      (∀ (s : State) (ch : Nat) (v : Int) (idle late : Bool), measuring s = false →
        (late = true → ∀ ev, s.event = some ev → ev.halting = false) →
        requestOffset ch v idle late s = s.setChannel ch
          { s.channel ch with offset := v, idleCount := 0, request := none, mark := idle }) ∧
      (∀ (s : State) (ev : Event) (ch : Nat) (v : Int) (idle : Bool), s.event = some ev → ev.halting = true →
        requestOffset ch v idle true s = s.setChannel ch
          { s.channel ch with request := some { value := v, idle := idle, late := true } }) ∧
      (∀ (s : State) (ev : Event) (ch : Nat) (r : OffsetRequest), s.event = some ev → measuring s = false →
        ch < s.channels.length → (s.channel ch).request = some r →
        (microStep .endEvent s).channel ch =
          { s.channel ch with offset := r.value, idleCount := 0, request := none, mark := r.idle })) ∧
  (∀ (s : State) (ch : Fin 28) (mean : Int) (ds : List Due) (c : Cfg), s.due = .idle ch true mean :: ds →
      s.store.active = some c → c.idleTracking = 1 → (s.channel ch.val).stuck = false →
      49 ≤ (s.channel ch.val).idleCount →
      exec (.idleOffsetUpdate ch) s = .next (advance (requestOffset ch
        (if mean < -2047 then -2047 else if 2047 < mean then 2047 else mean) true false
        (State.setChannel { s with due := ds } ch.val { s.channel ch.val with idleCount := 0 })))) ∧
  (∀ (s : State) (ch : Fin 28) (b : Bool) (mean : Int),
      (∀ c, s.store.active = some c → c.idleTracking = 1 → (s.channel ch.val).stuck = false → b = true →
        (s.channel ch.val).idleCount < 49 →
        microStep (.idle ch b mean) s =
          s.setChannel ch { s.channel ch.val with idleCount := (s.channel ch.val).idleCount + 1 }) ∧
      (((∀ c, s.store.active = some c → c.idleTracking ≠ 1) ∨ (s.channel ch.val).stuck = true ∨ b = false) →
        microStep (.idle ch b mean) s = s.setChannel ch { s.channel ch.val with idleCount := 0 })) ∧
  (∀ (s : State) (ch : Nat),
    (s.store.active = none → configuredOffset s.store ch = s.store.factory.offsets.getD ch 0 ∧
      activeGain s ch = s.store.factory.gains.getD ch 32768) ∧
    (∀ c, s.store.active = some c →
      ((c.chan ch).useFactory = 1 → configuredOffset s.store ch = s.store.factory.offsets.getD ch 0 ∧
        activeGain s ch = s.store.factory.gains.getD ch 32768) ∧
      ((c.chan ch).useFactory ≠ 1 → configuredOffset s.store ch = (c.chan ch).offset ∧
        activeGain s ch = (c.chan ch).gain)))

/-- 200 clipped windows make a channel STUCK and 10 clear ones NORMAL. CHANNEL_STUCK of a NORMAL channel with a clip
run of 199 or more whose window was clipped: it is STUCK with its clip run raised by one, clear run 0 and idle count
0, LINK is requested, and a calibration in flight on it ends: its order completes FAILED with BAD_STATE and result
value 0, at the event's original time value (the model's reading, log 15). CHANNEL_NORMAL of a STUCK channel with a
clear run of 9 or more whose window was not clipped: it is NORMAL with clip run and clear run 0, and a change to its
configured offset is requested. Any other window only moves the runs: the clip run of a NORMAL or a STUCK channel
rises with a clipped window and is 0 after another, and the clear run of a STUCK channel rises with a window that was
not clipped and is 0 after one that was. (R18, R19: the runs of a channel. R23: the calibration that STUCK ends.) -/
def Obligations.ChannelsGoStuckAndBack : Prop :=
  (∀ (s : State) (ch : Fin 28) (ds : List Due), s.due = .clip ch true :: ds → (s.channel ch.val).stuck = false →
      199 ≤ (s.channel ch.val).clipRun →
      exec (.channelStuck ch) s = .next (advance (failCalibration .badState ch (request .link
        (State.setChannel { s with due := ds } ch.val { s.channel ch.val with
          stuck := true, clipRun := (s.channel ch.val).clipRun + 1, clearRun := 0, idleCount := 0 }))))) ∧
    (∀ (s : State) (ch : Fin 28) (ds : List Due), s.due = .clip ch false :: ds → (s.channel ch.val).stuck = true →
      9 ≤ (s.channel ch.val).clearRun →
      exec (.channelNormal ch) s = .next (advance (requestOffset ch (configuredOffset s.store ch) false false
        (State.setChannel { s with due := ds } ch.val { s.channel ch.val with
          stuck := false, clipRun := 0, clearRun := 0 })))) ∧
    (∀ (s : State) (ch : Fin 28) (b : Bool), (s.channel ch.val).stuck = false →
      (b = false ∨ (s.channel ch.val).clipRun < 199) →
      microStep (.clip ch b) s = s.setChannel ch { s.channel ch.val with
        clipRun := if b then (s.channel ch.val).clipRun + 1 else 0 }) ∧
    (∀ (s : State) (ch : Fin 28) (b : Bool), (s.channel ch.val).stuck = true →
      (b = true ∨ (s.channel ch.val).clearRun < 9) →
      microStep (.clip ch b) s = s.setChannel ch { s.channel ch.val with
        clipRun := if b then (s.channel ch.val).clipRun + 1 else 0
        clearRun := if b then 0 else (s.channel ch.val).clearRun + 1 }) ∧
    (∀ (s : State) (ch : Nat),
      (∀ c, (s.channel ch).calibration = some c → failCalibration .badState ch s =
        complete c.entry true .badState 0 (eventTime s) (s.setChannel ch { s.channel ch with calibration := none })) ∧
      ((s.channel ch).calibration = none → failCalibration .badState ch s = s))

/-- The step into LOCKED and the expiry of HOLDOVER at a boundary. LOCK_ACQUIRED at a boundary that does not halt, in
ACQUIRE with a steady count of 2 and a VALID verdict whose deviation is within the steady limit: the pace becomes the
clamped measured pace, the steady count 0, the state LOCKED, the verdict is consumed and LOCK is requested; then what
follows comes about. HOLDOVER_EXPIRY at a boundary that does not halt, in HOLDOVER with a hold count of 149 and a
verdict other than VALID: the state becomes FREE, the pace nominal, the hold count 0, the verdict is consumed and LOCK
is not requested; then what follows comes about. (R40, R44: the step into LOCKED. R42: the step into FREE.) -/
def Obligations.LockEventsAtABoundary : Prop :=
  (∀ (s : State) (ds : List Due) (p : Nat), s.due = .lockStep :: ds → (∀ ev, s.event = some ev → ev.halting = false) →
      s.tb.lock = .acquire → s.tb.steady = 2 → s.tb.pendingVerdict = some { verdict := .valid, pace := some p } →
      (p - s.tb.pace) + (s.tb.pace - p) ≤ s.tb.pace / 2048 →
      exec .lockAcquired s = .next (advance (request .lock { s with
        due := ds
        tb := { s.tb with
          pace := max (s.tb.pace - s.tb.pace / 256) (min (s.tb.pace + s.tb.pace / 256) p)
          steady := 0, lock := .locked, pendingVerdict := none, winLocked := true } }))) ∧
  (∀ (s : State) (ds : List Due) (m : Measured), s.due = .lockStep :: ds →
      (∀ ev, s.event = some ev → ev.halting = false) → s.tb.lock = .holdover → s.tb.hold = 149 →
      s.tb.pendingVerdict = some m → m.verdict ≠ .valid →
      exec .holdoverExpiry s = .next (advance { s with
        due := ds
        tb := { s.tb with
          pace := nominalPace s.tb.nom60, hold := 0, lock := .free, pendingVerdict := none, winLocked := false } }))

/-- A lock step follows the table of its state, within the slew bound but at entry to FREE, and LOCK marks moves into
or out of LOCKED. With a verdict pending, a step in ACQUIRE, LOCKED, HOLDOVER and FREE leaves the pace, the steady
count, the hold count and the state that the tables of those states give for a VALID steady, a VALID unsteady and any
other verdict, by the deviation and the slew bound of R39, and consumes the verdict; without one it changes nothing.
From a count of at most 2 the steady count stays at most 2. For every timebase, a lock step leaves a pace within
floor(prev / 256) of the pace before it, unless it enters FREE, where the pace is nominal; for a machine in FREE whose
pace is nominal, as R43 keeps it, this holds of its steps too. At a boundary that does not halt the timebase makes
this step: it takes the step's outcome, the locked flag of the window that begins there is set exactly where the step
leaves LOCKED as its state, LOCK is requested exactly where the step moves into or out of LOCKED, and nothing else
changes. So from LOCKED a VALID verdict beyond the slew bound goes to ACQUIRE with steady count 0 at the clamped pace,
any other verdict than VALID to HOLDOVER with hold count 1 at the pace held, both with the flag clear and LOCK
requested. (R39 to R43: one step of the lock machine, and what it does to the pace. R38, R32, R44: the step of a
boundary.) -/
def Obligations.LockStepFollowsItsTables : Prop :=
  (∀ (tb : Timebase) (m : Measured) (p : Nat),
    (tb.pendingVerdict = none → lockNext tb = tb) ∧
    (tb.pendingVerdict = some m → tb.lock = .acquire →
      (m.verdict = .valid → m.pace = some p → deviation tb.pace p ≤ tb.pace / 2048 → 3 ≤ tb.steady + 1 →
        lockNext tb = { tb with
          pendingVerdict := none, pace := clampedPace tb.pace p, steady := 0, lock := .locked }) ∧
      (m.verdict = .valid → m.pace = some p → deviation tb.pace p ≤ tb.pace / 2048 → tb.steady + 1 < 3 →
        lockNext tb = { tb with pendingVerdict := none, pace := clampedPace tb.pace p, steady := tb.steady + 1 }) ∧
      (m.verdict = .valid → m.pace = some p → tb.pace / 2048 < deviation tb.pace p →
        lockNext tb = { tb with pendingVerdict := none, pace := clampedPace tb.pace p, steady := 0 }) ∧
      (m.verdict ≠ .valid →
        lockNext tb = { tb with pendingVerdict := none, steady := 0, lock := .holdover, hold := 1 })) ∧
    (tb.steady ≤ 2 → (lockNext tb).steady ≤ 2) ∧
    (tb.pendingVerdict = some m → tb.lock = .locked →
      (m.verdict = .valid → m.pace = some p → deviation tb.pace p ≤ tb.pace / 256 →
        lockNext tb = { tb with pendingVerdict := none, pace := p }) ∧
      (m.verdict = .valid → m.pace = some p → tb.pace / 256 < deviation tb.pace p →
        lockNext tb = { tb with
          pendingVerdict := none, pace := clampedPace tb.pace p, lock := .acquire, steady := 0 }) ∧
      (m.verdict ≠ .valid → lockNext tb = { tb with pendingVerdict := none, lock := .holdover, hold := 1 })) ∧
    (tb.pendingVerdict = some m → tb.lock = .holdover →
      (m.verdict = .valid → m.pace = some p → lockNext tb = { tb with
        pendingVerdict := none, pace := clampedPace tb.pace p, lock := .acquire, steady := 0, hold := 0 }) ∧
      (m.verdict ≠ .valid → tb.hold + 1 < 150 →
        lockNext tb = { tb with pendingVerdict := none, hold := tb.hold + 1 }) ∧
      (m.verdict ≠ .valid → 150 ≤ tb.hold + 1 →
        lockNext tb = { tb with pendingVerdict := none, hold := 0, lock := .free, pace := nominalPace tb.nom60 })) ∧
    (tb.pendingVerdict = some m → tb.lock = .free →
      (m.verdict ≠ .valid → lockNext tb = { tb with pendingVerdict := none, pace := nominalPace tb.nom60 }) ∧
      (m.verdict = .valid → m.pace = some p → lockNext tb = { tb with
        pendingVerdict := none, lock := .acquire, steady := 0
        pace := max (nominalPace tb.nom60 - nominalPace tb.nom60 / 256)
          (min (nominalPace tb.nom60 + nominalPace tb.nom60 / 256) p) })) ∧
    deviation tb.pace p = (p - tb.pace) + (tb.pace - p) ∧
    clampedPace tb.pace p = max (tb.pace - tb.pace / 256) (min (tb.pace + tb.pace / 256) p)) ∧
  (∀ tb : Timebase, (tb.lock = .free → tb.pace = nominalPace tb.nom60) →
    ((lockNext tb).pace ≤ tb.pace + tb.pace / 256 ∧ tb.pace ≤ (lockNext tb).pace + tb.pace / 256) ∨
      ((lockNext tb).lock = .free ∧ tb.lock = .holdover ∧ (lockNext tb).pace = nominalPace tb.nom60)) ∧
  (∀ (s t : State) (tb : Timebase), (∀ ev, s.event = some ev → ev.halting = false) → tb = lockNext s.tb →
    t = { s with tb := { tb with winLocked := decide (tb.lock = .locked) } } →
    ((s.tb.lock = .locked ↔ tb.lock = .locked) → microStep .lockStep s = t) ∧
    (¬(s.tb.lock = .locked ↔ tb.lock = .locked) → microStep .lockStep s = request .lock t)) ∧
  (∀ (s : State) (m : Measured) (p : Nat), (∀ ev, s.event = some ev → ev.halting = false) → s.tb.lock = .locked →
    s.tb.pendingVerdict = some m →
    (m.verdict = .valid → m.pace = some p → s.tb.pace / 256 < deviation s.tb.pace p →
      microStep .lockStep s = request .lock { s with tb := { s.tb with
        pendingVerdict := none, pace := clampedPace s.tb.pace p, lock := .acquire, steady := 0, winLocked := false } }) ∧
    (m.verdict ≠ .valid →
      microStep .lockStep s = request .lock { s with tb := { s.tb with
        pendingVerdict := none, lock := .holdover, hold := 1, winLocked := false } }))

/-- Each bin phasor is the exact transform of the window's samples, rounded half away from zero and saturated. For the
N corrected samples of a channel's window, each within 32,767 of 0, and every bin k from 0 to N/2: the real part of
X_k is 16 x sqrt(2)/N times the sum over n of s_n cos(2 pi k n / N), and its imaginary part -16 x sqrt(2)/N times the
sum of s_n sin(2 pi k n / N), each the exact real value rounded half away from zero to an integer and then saturated
to 524,287 in magnitude. There are N/2 + 1 phasors, and |X_k|^2 is the exact sum of the squares of the two parts, at
most 549,753,716,738. Each of the seven channels of a point's window is so transformed, from the values placed in the
window, oldest first, substituted ones among them. (R51. The computation behind it is in fixed point, log 18.) -/
def Obligations.PhasorsAreTheRoundedTransform : Prop :=
  (∀ (nom60 : Bool) (samples : List Int) (n k : Nat) (re im : ℝ) (away : ℝ → Int) (x : Int × Int),
    n = windowLen nom60 → samples.length = n → (∀ v ∈ samples, -32767 ≤ v ∧ v ≤ 32767) → k ≤ n / 2 →
    (∀ v : ℝ, away v = if 0 ≤ v then ⌊v + 1 / 2⌋ else -⌊-v + 1 / 2⌋) →
    re = 16 * (√2 / n) * ∑ j ∈ Finset.range n, (samples.getD j 0 : ℝ) * Real.cos (2 * Real.pi * k * j / n) →
    im = -16 * (√2 / n) * ∑ j ∈ Finset.range n, (samples.getD j 0 : ℝ) * Real.sin (2 * Real.pi * k * j / n) →
    x = (phasors nom60 samples).getD k (0, 0) →
    (phasors nom60 samples).length = n / 2 + 1 ∧
      x = (max (-524287) (min 524287 (away re)), max (-524287) (min 524287 (away im))) ∧
      (squared x : Int) = x.1 ^ 2 + x.2 ^ 2 ∧ squared x ≤ 549753716738) ∧
  (∀ (nom60 : Bool) (w : PointWindow) (pos : Nat), pos < 7 → (pointSpectra nom60 w).length = 7 ∧
    (pointSpectra nom60 w).getD pos [] = phasors nom60 (w.slots.reverse.map (fun sl => (sl.ch.getD pos {}).val)))

/-- CLOCK and SYNC_TIMEOUT arise, and the causes of a boundary decide its close and open the next interval.
CLOCK_CLOSE at a boundary that ends a window, under close source CLOCK, whose original time value is at or above the
next aligned instant, adds CLOCK to the close and changes nothing else. SYNC_TIMEOUT at such a boundary under SYNC
whose elapsed time is at or above L x 11 / 10 ms with no INTERVAL_END taken adds SYNC_TIMEOUT, sets the interval's
timeout flag, raises the timeout counter and requests SYNC. What follows then comes about. The decision: to the causes
that have arisen join TIME_STEP, where the standing time value is below the original one or in another multiple of L,
or the original one below that of the last boundary, and HALT at the boundary that halts; where there is none of
these, TARIFF by itself where the evaluated slot differs from the interval's. No cause, no close; no close at a free
tick or first boundary. A configuration that is pending is activated before the close, and CONFIG joins. The close:
the tariff is evaluated, TARIFF joins where the slot differs and the boundary does not halt, and the close, with the
original time value as its end, goes to the three units; unless it halts, the next interval opens under the active
configuration with the next number, the standing time value, the evaluated slot, the next multiple of L, and partial
exactly after TIME_STEP, under SYNC or off the grid. At the first boundary of a run, without a close, an interval
opens likewise, partial under SYNC or off the grid; at any other event without one only the tariff is evaluated. The
tariff of an event is evaluated at its standing time value. (R92, R95 to R97, R99, R100: the causes of a close and its
decision. R89, R90, R93: the close and the opening of an interval. That TARIFF alone is judged before an activation
and again after it is R100.) -/
def Obligations.ClockAndTimeoutCausesArise : Prop :=
  (∀ (s : State) (ds : List Due) (ev : Event) (o : OpenInterval), s.event = some ev → ev.kind = .boundary →
    s.ic.current = some o →
    (s.due = .clockCheck :: ds → o.closeSync = false → o.nextAligned ≤ ev.tOld →
      exec .clockClose s = .next (advance { s with
        due := ds, event := some { ev with causes := ev.causes ||| (1#10 <<< 0) } })) ∧
    (s.due = .timeoutCheck :: ds → o.closeSync = true → ev.intervalEnd = false →
      o.lengthMs * 11 / 10 ≤ (ev.tick - o.openTick) / 10000 →
      exec .syncTimeout s = .next (advance (request .sync { s with
        due := ds, event := some { ev with causes := ev.causes ||| (1#10 <<< 2) }
        ic := { s.ic with timeouts := s.ic.timeouts + 1, current := some { o with timeout := true } } })))) ∧
  ((∀ (s : State) (ev : Event) (o : OpenInterval) (cs joined : CauseSet) (step : Bool), s.event = some ev →
      ev.kind = .boundary → s.ic.current = some o →
      (step = true ↔ ev.tNew < ev.tOld ∨ ev.tNew / o.lengthMs ≠ ev.tOld / o.lengthMs ∨
        ∃ t, s.ic.lastTime = some t ∧ ev.tOld < t) →
      joined = ev.causes ||| (if step then 1#10 <<< 5 else 0) ||| (if ev.halting then 1#10 <<< 8 else 0) →
      cs = (if joined = 0 ∧ (tariffView s).slot ≠ o.slot then 1#10 <<< 4 else joined) →
      (cs = 0 → microStep .decide s = { s with due := .settleTariff :: s.due }) ∧
      (cs ≠ 0 → s.store.pend = none → microStep .decide s = { s with
        due := .close :: s.due, event := some { ev with causes := cs } }) ∧
      (cs ≠ 0 → ∀ cfg e, s.store.pend = some (cfg, e) → microStep .decide s = { s with
        due := .activate cfg e :: .close :: s.due, event := some { ev with causes := cs ||| (1#10 <<< 7) } })) ∧
    (∀ (s : State) (ev : Event), s.event = some ev → (ev.kind ≠ .boundary ∨ s.ic.current = none) →
      microStep .decide s = { s with due := .settleTariff :: s.due }) ∧
    (∀ (s : State) (ev : Event) (o : OpenInterval) (cfg : Cfg) (v : TariffView) (cs : CauseSet) (c : Close),
      s.event = some ev → s.ic.current = some o → s.store.active = some cfg → v = tariffView s →
      cs = (if ev.halting = false ∧ v.slot ≠ o.slot then ev.causes ||| (1#10 <<< 4) else ev.causes) →
      c = { seq := s.ic.seq, slot := o.slot, causes := cs, startTime := o.startTime, endTime := ev.tOld
            partialMark := o.partialMark, unexpected := o.unexpected, malformed := o.malformed, timeout := o.timeout
            generation := o.generation, enabledMask := o.enabledMask, memberMask := o.memberMask
            lengthMs := o.lengthMs } →
      microStep .close s = { s with
        ic := { s.ic with
          activeSlot := v.slot, forced := v.forced, governing := v.governing
          seq := if ev.halting then s.ic.seq else s.ic.seq + 1
          current := if ev.halting then none else some {
            startTime := ev.tNew, slot := v.slot
            partialMark := cs.getLsbD 5 && (cfg.closeSource = 1 || ev.tNew % (cfg.lengthMinutes * 60000) ≠ 0)
            unexpected := false, malformed := false, timeout := false
            nextAligned := (ev.tNew / (cfg.lengthMinutes * 60000) + 1) * (cfg.lengthMinutes * 60000)
            openTick := ev.tick, generation := cfg.generation, lengthMs := cfg.lengthMinutes * 60000
            closeSync := cfg.closeSource = 1, enabledMask := cfg.enabledMask, memberMask := cfg.memberMask } }
        acct := { s.acct with closes := s.acct.closes ++ [c] }
        stats := { s.stats with closes := s.stats.closes ++ [c] }
        filing := { s.filing with assemblies := s.filing.assemblies ++ [{ close := c, acct := none, stat := none }] } }) ∧
    (∀ (s : State) (ev : Event) (v : TariffView), s.event = some ev → v = tariffView s →
      (ev.kind ≠ .first → microStep .settleTariff s = { s with
        ic := { s.ic with activeSlot := v.slot, forced := v.forced, governing := v.governing } }) ∧
      (∀ cfg, ev.kind = .first → s.store.active = some cfg →
        (microStep .settleTariff s).ic = { s.ic with
          activeSlot := v.slot, forced := v.forced, governing := v.governing, seq := s.ic.seq + 1
          current := some {
            startTime := ev.tNew, slot := v.slot
            partialMark := cfg.closeSource = 1 || ev.tNew % (cfg.lengthMinutes * 60000) ≠ 0
            unexpected := false, malformed := false, timeout := false
            nextAligned := (ev.tNew / (cfg.lengthMinutes * 60000) + 1) * (cfg.lengthMinutes * 60000)
            openTick := ev.tick, generation := cfg.generation, lengthMs := cfg.lengthMinutes * 60000
            closeSync := cfg.closeSource = 1, enabledMask := cfg.enabledMask, memberMask := cfg.memberMask } })) ∧
    (∀ s : State, tariffView s = (match s.event with
      | some ev => evaluateTariff s.store s.ic s.tb.dowOffset ev.tNew ev.tariffSet.isSome
      | none => evaluateTariff s.store s.ic s.tb.dowOffset s.tb.timeValue false)))

/-- INTERVAL_END and TARIFF_STEP are taken at the next boundary or free tick, and the tariff slot is evaluated.
INTERVAL_END_TAKEN at a boundary that can close adds the cause SYNC under close source SYNC; under CLOCK it raises the
counter of unexpected ends and sets the open interval's unexpected flag; at the first boundary of a run and at a free
tick it raises the counter alone. No cause is requested. TARIFF_STEP_TAKEN with a configuration active and no
TARIFF_SET taken at the event: in SYNC source the stepped slot becomes the forced slot, where one holds, or the
stepped slot, plus one modulo n, and the force ends; in CALENDAR source the counter of ignored steps rises by one and
the force holds. What follows then comes about. The evaluation at a time value: in SYNC source the slot is the forced
slot, or the stepped slot. In CALENDAR source the governing switch point is the instance latest in the week at or
before the day and minute, else the last of the week; a governing instance that differs from the one found before
releases the force, unless a TARIFF_SET was taken at the event; the slot is then the forced slot, or that of the
governing instance, or 0 where there is none. At a free tick a TARIFF_STEP comes after an activation, at a boundary
before it (the model's choice, log 31). (R94: the table of an INTERVAL_END. R102: what a step does. R100, R101, R103,
R104: the evaluation of the slot.) -/
def Obligations.LineEventsArePutToTheNextEvent : Prop :=
  (∀ (s : State) (ds : List Due) (ev : Event), s.due = .intervalEnd :: ds → s.event = some ev → ev.intervalEnd = true →
      (∀ o, ev.kind = .boundary → s.ic.current = some o → o.closeSync = true →
        exec .intervalEndTaken s = .next (advance { s with
          due := ds, event := some { ev with causes := ev.causes ||| (1#10 <<< 1) } })) ∧
      (∀ o, ev.kind = .boundary → s.ic.current = some o → o.closeSync = false →
        exec .intervalEndTaken s = .next (advance { s with
          due := ds
          ic := { s.ic with
            unexpectedEnds := s.ic.unexpectedEnds + 1, current := some { o with unexpected := true } } })) ∧
      ((ev.kind ≠ .boundary ∨ s.ic.current = none) → exec .intervalEndTaken s = .next (advance { s with
        due := ds, ic := { s.ic with unexpectedEnds := s.ic.unexpectedEnds + 1 } }))) ∧
  (∀ (s : State) (ds : List Due) (ev : Event) (c : Cfg), s.due = .tariffStep :: ds → s.event = some ev →
      ev.tariffStep = true → ev.tariffSet = none → s.store.active = some c →
      (c.tariffSource = 1 → exec .tariffStepTaken s = .next (advance { s with
        due := ds
        ic := { s.ic with stepped := (s.ic.forced.getD s.ic.stepped + 1) % c.slots, forced := none } })) ∧
      (c.tariffSource = 0 → exec .tariffStepTaken s = .next (advance { s with
        due := ds, ic := { s.ic with ignoredSteps := s.ic.ignoredSteps + 1 } }))) ∧
  ((∀ (st : ConfigStore) (c : Cfg) (ic : IntervalControl) (dow t : Nat) (here : Bool), st.active = some c →
      c.tariffSource = 1 →
      evaluateTariff st ic dow t here =
        { slot := ic.forced.getD ic.stepped, forced := ic.forced, governing := none }) ∧
    (∀ (st : ConfigStore) (c : Cfg) (d m slot : Nat), st.active = some c →
      ((d, m, slot) ∈ calendarInstances st ↔
        ∃ k ∈ c.calendar.take c.calendarCount, d < 7 ∧ k.dayMask.testBit d = true ∧ m = k.minute ∧ slot = k.slot)) ∧
    (∀ (st : ConfigStore) (c : Cfg) (ic : IntervalControl) (dow t now : Nat) (here : Bool) (v : TariffView),
      st.active = some c → c.tariffSource ≠ 1 → v = evaluateTariff st ic dow t here →
      now = (t / 86400000 + dow) % 7 * 1440 + t % 86400000 / 60000 →
      v.forced = (if here = false ∧ v.governing ≠ ic.governing then none else ic.forced) ∧
      (calendarInstances st = [] → v.governing = none ∧ v.slot = v.forced.getD 0) ∧
      (calendarInstances st ≠ [] → ∃ d m slot, (d, m, slot) ∈ calendarInstances st ∧ v.governing = some (d, m) ∧
        v.slot = v.forced.getD slot ∧
        (d * 1440 + m ≤ now ∧ (∀ i ∈ calendarInstances st, i.1 * 1440 + i.2.1 ≤ now → i.1 * 1440 + i.2.1 ≤ d * 1440 + m) ∨
          (∀ i ∈ calendarInstances st, now < i.1 * 1440 + i.2.1 ∧ i.1 * 1440 + i.2.1 ≤ d * 1440 + m)))))

/-- A pending demand reset is applied at a boundary that can close with the unfiled flag clear. DEMAND_RESET_APPLY
with a demand reset pending at a boundary that ends a window and the unfiled flag clear: DEMAND_RESET joins the close,
the pending flag clears, but for a burst that ended since the boundary fell (the model's reading, log 9), the unfiled
flag is set, and every order that joined, in flight without a completion, completes DONE with OK and the closing
interval's sequence number: that completion joins the completion queue, and no other does. While the unfiled flag was
set as the boundary fell, nothing is applied. The completion time is that of the event before any SET_TIME (the
model's reading, log 15). (R108, R109: when a demand reset is applied.) -/
def Obligations.DemandResetIsApplied : Prop :=
  ∀ (s : State) (ds : List Due) (ev : Event) (o : OpenInterval), s.due = .demandApply :: ds → s.event = some ev →
    ev.kind = .boundary → s.ic.current = some o → ev.demand = true → entriesOnce s →
    (ev.unfiled = false → ∃ t, exec .demandResetApply s = .next (advance t) ∧ t.due = ds ∧
      t.event = some { ev with causes := ev.causes ||| (1#10 <<< 6) } ∧
      t.ic = { s.ic with demandPending := ev.lateDemand, unfiled := true, demandOrders := [] } ∧
      (∀ e ∈ s.ic.demandOrders, ∀ f ∈ t.orders.inFlight, f.entry = e → f.completed = true) ∧
      (∀ q ∈ s.orders.queue, q ∈ t.orders.queue) ∧
      (∀ e ∈ s.ic.demandOrders, ∀ f, s.inFlight e = some f → f.completed = false → .completion e
        { failed := false, code := .ok, value := s.ic.seq, time := ev.tOld, tag := f.tag } false ∈ t.orders.queue) ∧
      (∀ q ∈ t.orders.queue, q ∈ s.orders.queue ∨ ∃ e ∈ s.ic.demandOrders, ∃ tag, q = .completion e
        { failed := false, code := .ok, value := s.ic.seq, time := ev.tOld, tag := tag } false) ∧
      t.acct = s.acct ∧ t.filing = s.filing ∧ t.tb = s.tb) ∧
    (ev.unfiled = true → microStep .demandApply { s with due := ds } = { s with due := ds })

/-- An activation replaces the configuration at every block that acts on it, and completes its order.
CONFIG_ACTIVATION: the configuration is active and none is pending; D is fixed with its divisor where it was unfixed
and kept where it was fixed; every channel of the 28 takes its configured offset with idle count 0 and no request but
one of a PARAM_WRITE of the same boundary, which stands over it; the active gain is the configured gain; the
day-of-week offset is loaded unless a SET_TIME of the event stands over it; the force ends unless a TARIFF_SET of the
event forces a slot below the new n; in SYNC source the stepped slot becomes that slot, or the active slot where that
is below n and 0 where it is not; the crossing list is emptied where the reference point changes; the next page index
and counter return to 0 where the layout changes with no file in transit, and wait for its end where one is. The
order, in flight without a completion, completes DONE with OK and the generation as its result value: that completion
joins the queue. The accounts, the statistics, the links and the exchange port are unchanged. Then what follows comes
about. The completion time is that of the event before any SET_TIME (the model's reading, log 15). That the active
slot is the one from before the event for a second activation too is the model's choice, log 31. (R184: the table of
an activation. R166, R167: its order completes with its generation.) -/
def Obligations.ConfigurationBecomesActive : Prop :=
  ∀ (s : State) (cfg : Cfg) (e : Fin 16) (ds : List Due), s.due = .activate cfg e :: ds → entriesOnce s →
    ∃ t, exec .configActivation s = .next (advance t) ∧ t.due = ds ∧ t.store.active = some cfg ∧
      t.store.pend = none ∧ t.store.divisor = some (s.store.divisor.getD cfg.divisor) ∧
      t.store.factory = s.store.factory ∧ t.channels.length = s.channels.length ∧
      (∀ ch < 28, ch < s.channels.length → t.channel ch = { s.channel ch with
        offset := if (cfg.chan ch).useFactory = 1 then s.store.factory.offsets.getD ch 0 else (cfg.chan ch).offset
        idleCount := 0, mark := false
        request := match (s.channel ch).request with | some r => if r.late then some r else none | none => none }) ∧
      (∀ ch < 28, activeGain t ch = (if (cfg.chan ch).useFactory = 1 then s.store.factory.gains.getD ch 32768
          else (cfg.chan ch).gain)) ∧
      (∀ set : Option (Option Nat), set = (match s.event with | some ev => ev.tariffSet | none => none) →
        (∀ n, set = some (some n) → n < cfg.slots → t.ic.forced = some n ∧
          t.ic.stepped = (if cfg.tariffSource = 1 then n else s.ic.stepped)) ∧
        ((∀ n, set = some (some n) → cfg.slots ≤ n) → t.ic.forced = none ∧
          t.ic.stepped = (if cfg.tariffSource = 1 then (if s.ic.activeSlot < cfg.slots then s.ic.activeSlot else 0)
            else s.ic.stepped))) ∧
      t.ic = { s.ic with forced := t.ic.forced, stepped := t.ic.stepped } ∧
      ((∀ ev, s.event = some ev → ev.timeSet = false) → t.tb.dowOffset = cfg.dow) ∧
      (∀ ev, s.event = some ev → ev.timeSet = true → t.tb.dowOffset = s.tb.dowOffset) ∧
      ((∀ old, s.store.active = some old → old.refPoint ≠ cfg.refPoint) → t.tb.crossings = []) ∧
      (∀ old, s.store.active = some old → old.refPoint = cfg.refPoint → t.tb.crossings = s.tb.crossings) ∧
      t.tb = { s.tb with dowOffset := t.tb.dowOffset, crossings := t.tb.crossings } ∧
      ((∀ old, s.store.active = some old → old.pageBase ≠ cfg.pageBase ∨ old.pageCount ≠ cfg.pageCount) →
        (s.filing.transit = none → t.filing = { s.filing with nextPage := 0, pageSeq := 0 }) ∧
        (s.filing.transit ≠ none → t.filing = { s.filing with layoutDue := true })) ∧
      (∀ old, s.store.active = some old → old.pageBase = cfg.pageBase → old.pageCount = cfg.pageCount →
        t.filing = s.filing) ∧
      (∀ f ∈ t.orders.inFlight, f.entry = e → f.completed = true) ∧
      (∀ f, s.inFlight e = some f → f.completed = false → t.orders.queue = s.orders.queue ++ [.completion e
        { failed := false, code := .ok, value := cfg.generation.zeroExtend 64, time := eventTime s, tag := f.tag }
        false]) ∧
      t.acct = s.acct ∧ t.stats = s.stats ∧ t.links = s.links ∧ t.port = s.port

/-- A configuration block is judged divisor first, then fields lowest first, then layout. A block whose divisor
differs from the fixed D fails with DIVISOR_FIXED and result 0 whatever its fields; otherwise one with a failing field
fails with BAD_CONFIG and the lowest failing field number as the result; otherwise, at a boundary, one whose page
base, page count or enabled mask differs from the active configuration's fails with BAD_STATE and result 0; otherwise
it is valid. Fields 2 to 10 and 12 to 17 fail exactly outside the ranges of R181, field 16 only with members in the
mask. Of each point the weight and the contracted current fail outside their ranges, and of each channel the
use-factory code above 1, and the gain and offset outside theirs where that code is not 1. With tariff source
CALENDAR, of each calendar entry below the count the day mask fails where it is empty, has bit 7 or above, or shares a
day and the minute with an earlier entry, the minute above 1,439, and the slot at n or above; else none of them. A
limit fails above 10,000. No other number fails. (R180: the three steps. R181 to R183: the fields.) -/
def Obligations.JudgementGoesStepByStep : Prop :=
  ∀ (st : ConfigStore) (running : Bool) (cfg : Cfg), cfg.calendar.length ≤ 32 →
    (∀ d, st.divisor = some d → cfg.divisor ≠ d → judge st running cfg = some (.divisorFixed, 0)) ∧
    (∀ n, (∀ d, st.divisor = some d → cfg.divisor = d) → (n, false) ∈ checkedFields cfg →
      (∀ k, (k, false) ∈ checkedFields cfg → n ≤ k) →
      judge st running cfg = some (.badConfig, BitVec.ofNat 64 n)) ∧
    ((∀ d, st.divisor = some d → cfg.divisor = d) → (∀ k, (k, false) ∉ checkedFields cfg) →
      (judge st running cfg = some (.badState, 0) ↔ running = true ∧ ∃ a, st.active = some a ∧
        (cfg.pageBase ≠ a.pageBase ∨ cfg.pageCount ≠ a.pageCount ∨ cfg.enabledMask ≠ a.enabledMask)) ∧
      (judge st running cfg = none ∨ judge st running cfg = some (.badState, 0))) ∧
    ((2, false) ∈ checkedFields cfg ↔ ¬(1 ≤ cfg.enabledMask ∧ cfg.enabledMask ≤ 15)) ∧
    ((3, false) ∈ checkedFields cfg ↔
      ¬(cfg.memberMask ≤ 15 ∧ cfg.memberMask &&& cfg.enabledMask = cfg.memberMask)) ∧
    ((4, false) ∈ checkedFields cfg ↔ ¬(cfg.refPoint ≤ 3 ∧ cfg.enabledMask.testBit cfg.refPoint = true)) ∧
    ((5, false) ∈ checkedFields cfg ↔ ¬(2 ^ 32 ≤ cfg.divisor ∧ cfg.divisor ≤ 2 ^ 60)) ∧
    ((6, false) ∈ checkedFields cfg ↔ cfg.lengthMinutes ∉ [1, 5, 10, 15, 30, 60]) ∧
    ((7, false) ∈ checkedFields cfg ↔ 1 < cfg.closeSource) ∧
    ((8, false) ∈ checkedFields cfg ↔ 1 < cfg.tariffSource) ∧
    ((9, false) ∈ checkedFields cfg ↔ ¬(1 ≤ cfg.slots ∧ cfg.slots ≤ 4)) ∧
    ((10, false) ∈ checkedFields cfg ↔ 6 < cfg.dow) ∧
    ((12, false) ∈ checkedFields cfg ↔ 1 < cfg.idleTracking) ∧
    ((13, false) ∈ checkedFields cfg ↔ 524287 < cfg.idleFloor) ∧
    ((14, false) ∈ checkedFields cfg ↔
      ¬(cfg.pageBase % 8192 = 0 ∧ 16384 ≤ cfg.pageBase ∧ cfg.pageBase + cfg.pageCount * 8192 ≤ 2 ^ 32)) ∧
    ((15, false) ∈ checkedFields cfg ↔ ¬(8 ≤ cfg.pageCount ∧ cfg.pageCount ≤ 256)) ∧
    ((16, false) ∈ checkedFields cfg ↔
      cfg.memberMask ≠ 0 ∧ ¬(16 ≤ cfg.aggContracted ∧ cfg.aggContracted ≤ 524287)) ∧
    ((17, false) ∈ checkedFields cfg ↔ 32 < cfg.calendarCount) ∧
    (∀ p < 4,
      ((20 + 23 * p, false) ∈ checkedFields cfg ↔ ¬(1 ≤ (cfg.point p).weight ∧ (cfg.point p).weight ≤ 65535)) ∧
      ((21 + 23 * p, false) ∈ checkedFields cfg ↔
        ¬(16 ≤ (cfg.point p).contracted ∧ (cfg.point p).contracted ≤ 524287)) ∧
      ∀ c < 7, ∀ k, k = (cfg.point p).chans.getD c {} →
        ((22 + 23 * p + 3 * c, false) ∈ checkedFields cfg ↔
          k.useFactory ≠ 1 ∧ ¬(16384 ≤ k.gain ∧ k.gain ≤ 49151)) ∧
        ((23 + 23 * p + 3 * c, false) ∈ checkedFields cfg ↔
          k.useFactory ≠ 1 ∧ ¬(-2047 ≤ k.offset ∧ k.offset ≤ 2047)) ∧
        ((24 + 23 * p + 3 * c, false) ∈ checkedFields cfg ↔ 1 < k.useFactory)) ∧
    (∀ e < 32, ∀ (k : CalEntry) (checked : Prop), k = cfg.calendar.getD e {} →
      checked = (cfg.tariffSource = 0 ∧ e < cfg.calendarCount ∧ e < cfg.calendar.length) →
      ((120 + 3 * e, false) ∈ checkedFields cfg ↔ checked ∧ (¬(1 ≤ k.dayMask ∧ k.dayMask ≤ 127) ∨
        ∃ e' < e, (cfg.calendar.getD e' {}).minute = k.minute ∧
          ∃ d < 7, (cfg.calendar.getD e' {}).dayMask.testBit d = true ∧ k.dayMask.testBit d = true)) ∧
      ((121 + 3 * e, false) ∈ checkedFields cfg ↔ checked ∧ 1439 < k.minute) ∧
      ((122 + 3 * e, false) ∈ checkedFields cfg ↔ checked ∧ cfg.slots ≤ k.slot)) ∧
    (∀ h, 2 ≤ h → h ≤ 50 → ((230 + h, false) ∈ checkedFields cfg ↔ 10000 < cfg.limits.getD (h - 2) 0)) ∧
    (∀ k, (k, false) ∈ checkedFields cfg → (2 ≤ k ∧ k ≤ 10) ∨ (12 ≤ k ∧ k ≤ 17) ∨ (20 ≤ k ∧ k ≤ 111) ∨
      (120 ≤ k ∧ k ≤ 215) ∨ (232 ≤ k ∧ k ≤ 280))

/-- The answered reads of a configuration block bring its judgement. CONFIG_BLOCK_READ_DONE in time, with nothing else
due, ends the read and lets the event go on: a block that fails completes its order FAILED with the code and value of
the judgement and changes neither configuration; a valid one taken at a free tick makes its activation due; a valid
one taken at a boundary becomes pending, and an older pending one completes FAILED with SUPERSEDED and the newer
generation. Then what follows comes about. The completion time is that of the event before any SET_TIME (the model's
reading, log 15). Every field of the block is read at its offset and width in the layout of 11.5, least significant
byte first. (R166, R167, R180: the outcomes of a LOAD_CONFIG. R210 and 11.5: the fields of a block.) -/
def Obligations.ConfigBlockIsJudgedWhenRead : Prop :=
  (∀ (s : State) (dt : Nat) (block : List Byte) (r : ConfigRead) (ev : Event) (w : State), quiet s →
    s.event = some ev → s.port.configRead = some r → s.tick + dt < r.access.issuedAt + 20000 →
    w = { elapse dt s with
      due := ev.todo, event := some { ev with todo := [] }, port := { s.port with configRead := none } } →
    (∀ code value, judge s.store (decide (ev.kind ≠ .tick)) (decodeCfg block) = some (code, value) →
      exec (.configBlockReadDone dt block) s = .next (advance (complete r.entry true code value ev.tOld w))) ∧
    (judge s.store (decide (ev.kind ≠ .tick)) (decodeCfg block) = none → ev.kind = .tick →
      exec (.configBlockReadDone dt block) s =
        .next { w with due := .activate (decodeCfg block) r.entry :: ev.todo }) ∧
    (judge s.store (decide (ev.kind ≠ .tick)) (decodeCfg block) = none → ev.kind ≠ .tick →
      (s.store.pend = none → exec (.configBlockReadDone dt block) s = .next (advance { w with
        store := { s.store with pend := some (decodeCfg block, r.entry) } })) ∧
      (∀ c older, s.store.pend = some (c, older) → exec (.configBlockReadDone dt block) s = .next (advance
        (complete older true .superseded ((decodeCfg block).generation.zeroExtend 64) ev.tOld { w with
          store := { s.store with pend := some (decodeCfg block, r.entry) } }))))) ∧
  (∀ (b : List Byte) (off width : Nat), field b off width =
    ((List.range width).map (fun i => (b.getD (off + i) 0).toNat * 256 ^ i)).sum) ∧
  (∀ (b : List Byte) (sign : Nat → Int), (∀ v, sign v = if v < 32768 then (v : Int) else (v : Int) - 65536) →
    decodeCfg b = {
      generation := BitVec.ofNat 32 (field b 0 4), enabledMask := field b 4 1, memberMask := field b 5 1
      refPoint := field b 6 1, closeSource := field b 7 1, divisor := field b 8 8, lengthMinutes := field b 16 1
      tariffSource := field b 17 1, slots := field b 18 1, dow := field b 19 1, reportFloor := field b 20 4
      idleTracking := field b 24 1, calendarCount := field b 25 1, idleFloor := field b 28 4
      pageBase := field b 32 4, pageCount := field b 36 2, aggContracted := field b 40 4
      points := (List.range 4).map (fun p => {
        weight := field b (48 + 64 * p) 2, contracted := field b (52 + 64 * p) 4
        chans := (List.range 7).map (fun c => {
          gain := field b (56 + 64 * p + 8 * c) 2, offset := sign (field b (58 + 64 * p + 8 * c) 2)
          useFactory := field b (60 + 64 * p + 8 * c) 1 }) })
      calendar := (List.range 32).map (fun e => {
        dayMask := field b (304 + 4 * e) 1, slot := field b (305 + 4 * e) 1, minute := field b (306 + 4 * e) 2 })
      limits := (List.range 49).map (fun j => field b (432 + 2 * j) 2) })

/-- Each low period of the sync line is a glitch, a pulse or a stuck-low fault. SYNC_LINE_FALL with the line high
begins a low period at that tick: a burst in progress goes on, unless its 400 ms have passed, where it ends first with
its action; a recovery from a stuck-low fault goes on, unless its 400 ms have passed, where it is over. SYNC_LINE_RISE
of a low period: outside recovery one under 20 ms raises the glitch counter, and where the burst in progress reached
its 400 ms meanwhile it ends at the rise with its action; one of 20 ms to 500 ms is one more pulse of the burst,
ending now; one beyond 500 ms is a stuck-low fault, with the burst abandoned, the counter raised, the malformed flag
of an open interval set, SYNC requested and the recovery begun at the rise, also during a recovery; in recovery a
shorter one counts as nothing; and after a declared fault the rise begins the recovery's 400 ms anew. A fall of a low
line and a rise of a high line let only time pass (the model's choice, log 3). That exactly 400 ms end a burst and a
recovery, and that exactly 500 ms are a pulse, is the model's reading, log 26; that a burst or recovery ends at a fall
or rise where its own command was not sent is log 1. (R105: what a low period counts as, and the recovery. R106: the
end of a burst. What a burst does is StuckLineAndBurstEnds.) -/
def Obligations.LinePulsesAreTimed : Prop :=
  ∀ (s : State) (dt now : Nat) (d : Decoder), quiet s → d = s.ic.decoder → now = s.tick + dt →
    (d.lineLow = false → d.recovering = false → (d.pulses = 0 ∨ now < d.lastPulseEnd + 4000000) →
      exec (.syncLineFall dt) s = .next { elapse dt s with
        ic := { s.ic with decoder := { d with lineLow := true, lowSince := some now, declared := false } } }) ∧
    (d.lineLow = false → d.recovering = false → 0 < d.pulses → d.lastPulseEnd + 4000000 ≤ now →
      ∃ w, w = burstAction d.pulses { elapse dt s with ic := { s.ic with decoder := { d with pulses := 0 } } } ∧
        exec (.syncLineFall dt) s = .next { w with
          ic := { w.ic with decoder := { d with
            pulses := 0, lineLow := true, lowSince := some now, declared := false } } }) ∧
    (d.lineLow = false → d.recovering = true → d.pulses = 0 → exec (.syncLineFall dt) s = .next { elapse dt s with
      ic := { s.ic with decoder := { d with
        lineLow := true, lowSince := some now, declared := false
        recovering := decide (now < d.highSince + 4000000) } } }) ∧
    (d.lineLow = true → exec (.syncLineFall dt) s = .next (elapse dt s)) ∧
    (d.lineLow = false → exec (.syncLineRise dt) s = .next (elapse dt s)) ∧
    (∀ t, d.lineLow = true → d.lowSince = some t → d.declared = false → t ≤ s.tick →
      (d.recovering = false → now - t < 200000 → (d.pulses = 0 ∨ now < d.lastPulseEnd + 4000000) →
        exec (.syncLineRise dt) s = .next { elapse dt s with
          ic := { s.ic with
            glitches := s.ic.glitches + 1
            decoder := { d with lineLow := false, lowSince := none, highSince := now } } }) ∧
      (d.recovering = false → now - t < 200000 → 0 < d.pulses → d.lastPulseEnd + 4000000 ≤ now →
        exec (.syncLineRise dt) s = .next (burstAction d.pulses { elapse dt s with
          ic := { s.ic with
            glitches := s.ic.glitches + 1
            decoder := { d with lineLow := false, lowSince := none, highSince := now, pulses := 0 } } })) ∧
      (d.recovering = false → 200000 ≤ now - t → now - t ≤ 5000000 →
        exec (.syncLineRise dt) s = .next { elapse dt s with
          ic := { s.ic with decoder := { d with
            lineLow := false, lowSince := none, highSince := now, pulses := d.pulses + 1, lastPulseEnd := now } } }) ∧
      (d.recovering = true → now - t ≤ 5000000 → exec (.syncLineRise dt) s = .next { elapse dt s with
        ic := { s.ic with decoder := { d with lineLow := false, lowSince := none, highSince := now } } }) ∧
      (5000000 < now - t → exec (.syncLineRise dt) s = .next (request .sync { elapse dt s with
        ic := { s.ic with
          stuckLows := s.ic.stuckLows + 1
          current := s.ic.current.map (fun o => { o with malformed := true })
          decoder := { d with
            lineLow := false, lowSince := none, declared := false, recovering := true, pulses := 0
            highSince := now } } }))) ∧
    (∀ t, d.lineLow = true → d.lowSince = some t → d.declared = true → d.recovering = true →
      exec (.syncLineRise dt) s = .next { elapse dt s with
        ic := { s.ic with decoder := { d with
          lineLow := false, lowSince := none, declared := false, highSince := now } } })

/-- The stuck-low fault, its recovery, and the action of a burst. STUCK_LOW_FAULT of a low period in progress falls on
the first tick at which it exceeds 500 ms, or now: the burst is abandoned, the stuck-low counter rises by one, the
malformed flag of an open interval is set, SYNC is requested, and nothing is decoded until recovery.
STUCK_LOW_RECOVERY falls 400 ms after the line last rose, or now, and ends that. The first tick beyond 500 ms is the
model's reading, log 26. SYNC_BURST_END with the line high and a burst in progress falls 400 ms after the end of its
last pulse, or now, and the burst is over: 1 pulse leaves an INTERVAL_END pending, 2 or 3 a TARIFF_STEP, 4 to 6 a
demand reset; 7 or more raise the malformed counter, set the malformed flag of an open interval and request SYNC. "Or
now" is the model's choice, log 1; that a burst and a fault end at exactly 400 ms is its reading, log 26. A demand
reset that arrives while a boundary is in hand is one for a later boundary (log 9). (R105: the stuck-low fault. R106:
the table of pulses.) -/
def Obligations.StuckLineAndBurstEnds : Prop :=
  (∀ (s : State) (d : Decoder), quiet s → d = s.ic.decoder →
      (∀ t, d.lineLow = true → d.lowSince = some t → d.declared = false →
        exec .stuckLowFault s = .next (request .sync { elapse (t + 5000001 - s.tick) s with
          ic := { s.ic with
            stuckLows := s.ic.stuckLows + 1
            current := s.ic.current.map (fun o => { o with malformed := true })
            decoder := { d with declared := true, recovering := true, pulses := 0 } } })) ∧
      (d.recovering = true → d.lineLow = false →
        exec .stuckLowRecovery s = .next { elapse (d.highSince + 4000000 - s.tick) s with
          ic := { s.ic with decoder := { d with recovering := false } } })) ∧
  (∀ (s w : State) (d : Decoder), quiet s → d = s.ic.decoder → d.lineLow = false → d.recovering = false →
      w = elapse (d.lastPulseEnd + 4000000 - s.tick) s →
      (d.pulses = 1 → exec .syncBurstEnd s = .next { w with
        ic := { s.ic with decoder := { d with pulses := 0 }, pendingEnd := true } }) ∧
      (d.pulses = 2 ∨ d.pulses = 3 → exec .syncBurstEnd s = .next { w with
        ic := { s.ic with decoder := { d with pulses := 0 }, pendingStep := true } }) ∧
      (4 ≤ d.pulses → d.pulses ≤ 6 → exec .syncBurstEnd s = .next { w with
        event := s.event.map (fun ev => { ev with lateDemand := true })
        ic := { s.ic with decoder := { d with pulses := 0 }, demandPending := true } }) ∧
      (7 ≤ d.pulses → exec .syncBurstEnd s = .next (request .sync { w with
        ic := { s.ic with
          decoder := { d with pulses := 0 }, malformedBursts := s.ic.malformedBursts + 1
          current := s.ic.current.map (fun o => { o with malformed := true }) } })))

/-- Stored monitor settings come into force together, and a monitor restarts under them. MONITOR_SETTINGS_EFFECT with
a written monitor waiting: every written monitor's stored settings are in force and its restart is due, at once where
no window is in decomposition, the others keep theirs. MONITOR_RESTART: the settings in force apply, the monitor is
QUIET with count 0 where they enable it with lo at or below hi and OFF otherwise, keeps its last value, and where it
was ACTIVE records an OFF event with reason RECONFIGURED at its former source point and requests MONITOR. What follows
then comes about. That several restarts of one event come in increasing monitor number is the model's choice, log 21.
An event enters the list of its point, or counts as dropped beyond 8; a RECONFIGURED event carries the index of the
window last taken there, counted from 0 with the discarded ones. (R121, R125: how settings come into force. The order
of several restarts of one event is the DESIGN CHOICE of log 21.) -/
def Obligations.MonitorSettingsComeIntoForce : Prop :=
  ((∀ (s : State) (ds : List Due), s.due = .monitorEffect :: ds → (∃ k ∈ s.stats.monitors, k.dirty = true) →
      ∃ t, exec .monitorSettingsEffect s = .next (advance t) ∧
        t.stats = { s.stats with monitors := s.stats.monitors.map (fun k =>
          if k.dirty then { k with force := k.stored, dirty := false, restartDue := true } else k) } ∧
        (s.spectral.decomposing ≠ none → t.due = ds) ∧
        (s.spectral.decomposing = none → t.due = ([0, 1, 2, 3].filter (fun m : Fin 4 =>
          (s.monitor m).dirty || (s.monitor m).restartDue)).map (fun m => Due.monitorRestart m) ++ ds) ∧
        t.port = s.port ∧ t.tb = s.tb) ∧
    (∀ (s : State) (m : Fin 4) (ds : List Due), s.due = .monitorRestart m :: ds →
      ∃ k, k = s.monitor m ∧ exec (.monitorRestart m) s = .next (advance
        ((if k.state = .active then
            makeEvent k.cur.source { mon := m, on := false, reconfigured := true
                                     index := windowIndex s k.cur.source - 1, value := k.last }
          else fun s => s)
        (State.setMonitor { s with due := ds } m { k with
          cur := k.force, restartDue := false, count := 0
          state := if k.force.enable = 1 ∧ k.force.lo ≤ k.force.hi then .quiet else .off }))))) ∧
  (∀ (s : State) (p : Nat) (e : EventEntry), makeEvent p e s = request .monitor { s with
      stats := { s.stats with accs := s.stats.accs.map (fun a =>
        if a.point = p then
          if a.events.length < 8 then { a with events := a.events ++ [e] } else { a with dropped := a.dropped + 1 }
        else a) } }) ∧
  (∀ (s : State) (p : Nat),
    (∀ a, s.stats.accs.find? (fun a => a.point = p) = some a → windowIndex s p = a.total + a.discarded) ∧
    (s.stats.accs.find? (fun a => a.point = p) = none → windowIndex s p = 0))

/-- A monitor steps by its table, and turns ACTIVE at the eligible window that completes its persistence. MONITOR_ON
of a monitor in RISING whose count plus one reaches its persistence, or in QUIET with persistence 1, on an eligible
window at or above its threshold: it is ACTIVE with count equal to its persistence and the band value as its last
value, an ON event with reason THRESHOLD enters the list of the source point or is counted as dropped beyond 8, and
MONITOR is requested. What follows then comes about. Every other step: OFF and an ineligible window change nothing;
any eligible window's value becomes the last value; QUIET at or above the threshold goes to RISING with count 1, and
below it stays; RISING at or above it counts one more, and below it returns to QUIET with count 0; ACTIVE stays at or
above the threshold or the release level, floor(threshold x ratio / 100), and below both goes to QUIET with count 0,
an OFF event of reason THRESHOLD and the MONITOR request. A window is eligible where it is CLEAN and locked and, in
emission-only mode, its band power is below 0. (R123, R127 to R129: an ON event, and the table of steps. R122: an
eligible window.) -/
def Obligations.MonitorTurnsOn : Prop :=
  (∀ (s : State) (m : Fin 4) (value point index : Nat) (ds : List Due) (k : Monitor),
    s.due = .monitorStep m value true point index :: ds → k = s.monitor m → k.cur.threshold ≤ value →
    (k.state = .rising ∧ k.cur.persistence ≤ k.count + 1 ∨ k.state = .quiet ∧ k.cur.persistence ≤ 1) →
    exec (.monitorOn m) s = .next (advance (request .monitor (modAcc point (fun a =>
        if a.events.length < 8 then { a with events := a.events ++
          [{ mon := m, on := true, reconfigured := false, index := index, value := value }] }
        else { a with dropped := a.dropped + 1 })
      (State.setMonitor { s with due := ds } m { k with
        last := value, state := .active, count := k.cur.persistence }))))) ∧
  (∀ (s : State) (m : Fin 4) (value point index : Nat) (eligible : Bool) (k : Monitor), k = s.monitor m →
    ((k.state = .off ∨ eligible = false) → microStep (.monitorStep m value eligible point index) s = s) ∧
    (eligible = true →
      (k.state = .quiet → value < k.cur.threshold →
        microStep (.monitorStep m value eligible point index) s = s.setMonitor m { k with last := value }) ∧
      (k.state = .quiet → k.cur.threshold ≤ value → 1 < k.cur.persistence →
        microStep (.monitorStep m value eligible point index) s =
          s.setMonitor m { k with last := value, state := .rising, count := 1 }) ∧
      (k.state = .rising → k.cur.threshold ≤ value → k.count + 1 < k.cur.persistence →
        microStep (.monitorStep m value eligible point index) s =
          s.setMonitor m { k with last := value, count := k.count + 1 }) ∧
      (k.state = .rising → value < k.cur.threshold → microStep (.monitorStep m value eligible point index) s =
        s.setMonitor m { k with last := value, state := .quiet, count := 0 }) ∧
      (k.state = .active → (k.cur.threshold ≤ value ∨ k.cur.threshold * k.cur.ratio / 100 ≤ value) →
        microStep (.monitorStep m value eligible point index) s = s.setMonitor m { k with last := value }) ∧
      (k.state = .active → value < k.cur.threshold → value < k.cur.threshold * k.cur.ratio / 100 →
        microStep (.monitorStep m value eligible point index) s = request .monitor (modAcc point (fun a =>
            if a.events.length < 8 then { a with events := a.events ++
              [{ mon := m, on := false, reconfigured := false, index := index, value := value }] }
            else { a with dropped := a.dropped + 1 })
          (s.setMonitor m { k with last := value, state := .quiet, count := 0 }))))) ∧
  (∀ (st : MonSettings) (r : WinResult) (b : BandValue), eligibleWindow st r b = true ↔
    r.cls = .clean ∧ r.record.locked = true ∧ (st.emission = 1 → ∃ p, b.power = some p ∧ p < 0))

/-- A completed decomposition hands its results to the accounting and statistics units, the conditioner and the
timebase. DECOMPOSITION_COMPLETE with nothing due and no event in hand: the decomposition in progress is carried out
at that instant and what follows comes about; with an event in hand it follows when the event ends, as of that instant
(the model's choice, log 9); with none in progress only time passes (log 3). The decomposition itself: the decomposing
half is free; the accounting unit takes the results of all points and of the aggregate, the window's duration,
sequence number and end time; each point's accumulators take its results: the counts of R113; and, CLEAN and locked,
the order sums, maxima, emission and exceed counts (v x 10,000 strictly above limit x contracted current), THD, TDD
and fundamental sums of a metering point, or the emission counts of the aggregate. A verdict becomes pending, WEAK in
place of VALID under 52,428. Each channel of the window's points takes its window total RMS and a calibration step:
unmeasured, nothing; at or above the idle floor LOAD_PRESENT; else the raw sum is added, and at the fifth window it
completes OK with the clamped mean, which is requested as the offset. Idle steps of the current channels, a step of
each monitor with a band value, with the windows counted before this one as its index, due restarts, the finishing of
closes and waiting captures follow. Means are rounded half away from zero. Pace, lock, links, interval controller,
filing and configuration are unchanged. That the idle floor captured with the window judges it and its calibrations is
the model's reading, log 19; the order of what follows is its choice, log 21. (R47: the completion of a decomposition
and its consumers. R113 to R116: the accumulators. R23: a calibration. That a window whose verdict is discarded leaves
the last verdict and the last measured pace of R187 as they were is the DESIGN CHOICE of log 48.) -/
def Obligations.DecompositionHandsItsResultsOn : Prop :=
  (∀ (s : State) (dt : Nat), quiet s →
      (s.spectral.decomposing = none → exec (.decompositionComplete dt) s = .next (elapse dt s)) ∧
      (∀ d, s.spectral.decomposing = some d → s.event = none →
        exec (.decompositionComplete dt) s = .next (advance { elapse dt s with due := [.decompose] })) ∧
      (∀ d ev, s.spectral.decomposing = some d → s.event = some ev →
        exec (.decompositionComplete dt) s = .next { elapse dt s with
          event := some { ev with deferred := ev.deferred ++ [.asOf (some (s.tick + dt)), .decompose] } })) ∧
    (∀ (s : State) (d : DecompWindow), s.spectral.decomposing = some d →
      ∃ t results metering, t = microStep .decompose s ∧
        metering = d.points.map (fun w => pointResult s.tb.nom60 d w (pointSpectra s.tb.nom60 w)) ∧
        results = metering ++ (aggregateResult d metering).toList ∧
        t.spectral.decomposing = none ∧ t.acct.lastSeq = d.record.seq ∧ t.acct.lastEnd = d.record.endTime ∧
        t.acct.measured = s.acct.measured + d.record.duration ∧
        t.acct.regs = results.foldl (takeEnergy s.divisor) s.acct.regs ∧ t.acct.opening = s.acct.opening ∧
        t.acct.demand = s.acct.demand ∧
        (d.verdict = none → t.tb = s.tb) ∧
        (∀ m, d.verdict = some m → t.tb = { s.tb with
          pendingVerdict := some (amplitudeVerdict m
            (match results.find? (fun r => r.point = d.cap.cfg.refPoint) with
              | some r => (r.groupV.getD 0 []).getD 0 0
              | none => 0))
          lastVerdict := (amplitudeVerdict m
            (match results.find? (fun r => r.point = d.cap.cfg.refPoint) with
              | some r => (r.groupV.getD 0 []).getD 0 0
              | none => 0)).verdict
          lastMeasured := m.pace.getD 0 }) ∧
        t.links = s.links ∧ t.ic = s.ic ∧ t.filing = s.filing ∧ t.store = s.store ∧ t.event = s.event ∧
        t.stats.monitors = s.stats.monitors ∧ t.port = s.port ∧
        t.stats.accs = s.stats.accs.map (fun a => (results.filter (fun r => r.point = a.point)).foldl
          (fun a r => takeResult s.stats.limits d.cap.cfg r a) a) ∧
        (s.channels.length = 28 → (d.points.map (fun w => w.point)).Nodup → (∀ w ∈ d.points, w.point < 4) →
          ∀ w ∈ d.points, ∀ pos < 7, ∀ ch rms, ch = 7 * w.point + pos →
            rms = totalRms s.tb.nom60 ((pointSpectra s.tb.nom60 w).getD pos []) →
            t.channel ch = { (calibrationStep ch d.number (windowLen s.tb.nom60) rms d.cap.cfg.idleFloor
              (w.slots.map (fun sl => (sl.ch.getD pos {}).raw)).sum s).channel ch with lastRms := rms }) ∧
        (∀ ch, (∀ w ∈ d.points, ch / 7 ≠ w.point) → t.channel ch = s.channel ch) ∧
        t.due = d.points.flatMap (fun w => [3, 4, 5, 6].map (fun pos =>
            Due.idle (Fin.ofNat 28 (7 * w.point + pos))
              (decide (totalRms s.tb.nom60 ((pointSpectra s.tb.nom60 w).getD pos []) < d.cap.cfg.idleFloor) &&
                w.slots.all (fun sl => (sl.ch.getD pos {}).good) && !(w.stuck.getD pos false))
              (roundHalfAway (w.slots.map (fun sl => (sl.ch.getD pos {}).raw)).sum (windowLen s.tb.nom60)))) ++
          ([0, 1, 2, 3] : List (Fin 4)).flatMap (fun m => results.flatMap (fun r =>
            (r.bands.filter (fun b => b.mon = m)).map (fun b =>
              Due.monitorStep m b.value (eligibleWindow (d.cap.mons.getD m.val {}) r b) r.point
                (match s.stats.accs.find? (fun a => a.point = r.point) with
                  | some a => a.total + a.discarded
                  | none => 0)))) ++
          (([0, 1, 2, 3] : List (Fin 4)).filter (fun m => (s.monitor m).restartDue)).map Due.monitorRestart ++
          List.replicate s.acct.closes.length Due.acctFinish ++ List.replicate s.stats.closes.length Due.statFinish ++
          (s.port.snapshots.filter (fun p => p.image = none)).map (fun p => Due.snapCapture p.entry) ++ s.due) ∧
  (∀ (m : Measured) (g1 : Nat), amplitudeVerdict m g1 = { m with
    verdict := if m.verdict = .valid ∧ g1 < 52428 then .weak else m.verdict }) ∧
  (∀ (n : Int) (k : Nat), 0 < k → roundHalfAway n k = if 0 ≤ n then (2 * n + k) / (2 * k) else -((2 * -n + k) / (2 * k))) ∧
  (∀ (s : State) (ch number n rms floor : Nat) (sum : Int), ch < s.channels.length →
    ((s.channel ch).calibration = none → calibrationStep ch number n rms floor sum s = s) ∧
    (∀ c, (s.channel ch).calibration = some c →
      (number < c.firstWindow ∨ c.firstWindow + 5 ≤ number → calibrationStep ch number n rms floor sum s = s) ∧
      (c.firstWindow ≤ number → number < c.firstWindow + 5 → floor ≤ rms → calibrationStep ch number n rms floor sum s =
        complete c.entry true .loadPresent 0 (eventTime s)
          (s.setChannel ch { s.channel ch with calibration := none })) ∧
      (c.firstWindow ≤ number → number < c.firstWindow + 4 → rms < floor → calibrationStep ch number n rms floor sum s =
        s.setChannel ch { s.channel ch with calibration := some { c with sum := c.sum + sum } }) ∧
      (number = c.firstWindow + 4 → rms < floor → ∀ o, o = max (-2047) (min 2047 (roundHalfAway (c.sum + sum) (5 * n))) →
        calibrationStep ch number n rms floor sum s = requestOffset ch o false false
          (complete c.entry false .ok (BitVec.ofInt 64 o) (eventTime s)
            (s.setChannel ch { s.channel ch with calibration := none }))))) ∧
  (∀ (limits : List Nat) (cfg : Cfg) (r : WinResult) (a b : Acc), b = takeResult limits cfg r a →
    (b.point = a.point ∧ b.floor = a.floor ∧ b.events = a.events ∧ b.dropped = a.dropped ∧
      b.discarded = a.discarded ∧ b.total = a.total + 1 ∧
      b.clean = a.clean + (if r.cls = .clean then 1 else 0) ∧
      b.flagged = a.flagged + (if r.cls = .flagged then 1 else 0) ∧
      b.missing = a.missing + (if r.cls = .missing then 1 else 0) ∧
      b.partials = a.partials + (if r.partialFlag then 1 else 0) ∧
      b.unlocked = a.unlocked + (if r.record.locked then 0 else 1) ∧ b.subst = a.subst + r.subst ∧
      (a.stuck.length = 7 → r.stuck.length = 7 → b.stuck.length = 7 ∧
        ∀ i, b.stuck.getD i false = (a.stuck.getD i false || r.stuck.getD i false)) ∧
      b.offsetUpdates = a.offsetUpdates + (if r.mark then 1 else 0) ∧
      (a.total = 0 → b.minFreq = r.record.freq ∧ b.maxFreq = r.record.freq) ∧
      (a.total ≠ 0 → b.minFreq = min a.minFreq r.record.freq ∧ b.maxFreq = max a.maxFreq r.record.freq)) ∧
    ((r.cls ≠ .clean ∨ r.record.locked = false) → b.included = a.included ∧ b.orders = a.orders ∧
      b.fundSum = a.fundSum ∧ b.thdISum = a.thdISum ∧ b.thdICount = a.thdICount ∧ b.thdVSum = a.thdVSum ∧
      b.thdVCount = a.thdVCount ∧ b.tddSum = a.tddSum) ∧
    (r.cls = .clean → r.record.locked = true → r.point ≠ 4 →
      b.included = a.included + 1 ∧ b.orders.length = a.orders.length ∧
      (∀ j < a.orders.length, ∀ v, v = r.orderVals.getD (j + 1) 0 → b.orders.getD j {} = {
        sum := (a.orders.getD j {}).sum + v, max := max (a.orders.getD j {}).max v
        exceed := (a.orders.getD j {}).exceed + (if 0 < limits.getD j 0 ∧
          limits.getD j 0 * (cfg.point r.point).contracted < v * 10000 then 1 else 0)
        emission := (a.orders.getD j {}).emission + (if r.p3.getD (j + 1) 0 < 0 then 1 else 0) }) ∧
      b.fundSum = a.fundSum + r.orderVals.getD 0 0 ∧
      (r.thdI < 65535 → b.thdISum = a.thdISum + r.thdI ∧ b.thdICount = a.thdICount + 1) ∧
      (65535 ≤ r.thdI → b.thdISum = a.thdISum ∧ b.thdICount = a.thdICount) ∧
      (r.thdV < 65535 → b.thdVSum = a.thdVSum + r.thdV ∧ b.thdVCount = a.thdVCount + 1) ∧
      (65535 ≤ r.thdV → b.thdVSum = a.thdVSum ∧ b.thdVCount = a.thdVCount) ∧ b.tddSum = a.tddSum + r.tdd) ∧
    (r.cls = .clean → r.record.locked = true → r.point = 4 →
      b.included = a.included + 1 ∧ b.orders.length = a.orders.length ∧
      (∀ j < a.orders.length, b.orders.getD j {} = { a.orders.getD j {} with
        emission := (a.orders.getD j {}).emission + (if r.p3.getD (j + 1) 0 < 0 then 1 else 0) }) ∧
      b.fundSum = a.fundSum ∧ b.thdISum = a.thdISum ∧ b.thdICount = a.thdICount ∧ b.thdVSum = a.thdVSum ∧
      b.thdVCount = a.thdVCount ∧ b.tddSum = a.tddSum))

/-- The accounting and the statistics unit finish a close and hand their parts to the filing unit.
ACCOUNTING_CLOSE_FINISH and STATISTICS_CLOSE_FINISH of the oldest close of the unit, with no window of its interval
still in decomposition: the parts join that close's assembly, and once both sets are there the file is complete; what
follows then comes about. At the accounting unit each part's 36 energy deltas are count minus opening count modulo
2^64, its nine cumulative counts are those of the registers of the interval's slot, the registers are unchanged, the
close leaves the unit, and unless the close carries HALT or RESET the opening counts become the counts and the
measured duration 0. At the statistics unit the accumulators as they stand are the parts, and unless the close carries
HALT or RESET empty ones open for every point of the active configuration. The points of a configuration are its
enabled metering points, and point 4 where it has members. (R78, R117: the finishing of a close at both units.) -/
def Obligations.ClosesFinishAtBothUnits : Prop :=
  (∀ (s : State) (ds : List Due) (c : Close) (rest : List Close), s.due = .acctFinish :: ds →
      s.acct.closes = c :: rest → (∀ w, s.spectral.decomposing = some w → w.record.seq ≠ c.seq) →
      exec .accountingCloseFinish s = .next (advance (fileReady c.seq
        (addParts c.seq (fun a => { a with acct := some (acctFinish s.acct c).1 })
          { s with due := ds, acct := (acctFinish s.acct c).2 })))) ∧
    (∀ (a : Accounting) (c : Close) (rest : List Close), a.closes = c :: rest →
      (acctFinish a c).2.closes = rest ∧ (acctFinish a c).2.regs = a.regs ∧
        (acctFinish a c).1.1.map (fun p => p.point) = c.points ∧
        (∀ p ∈ (acctFinish a c).1.1, ∀ i < 36, p.deltas.getD i 0 =
          (a.regs.getD (p.point * 36 + i) {}).count - a.opening.getD (p.point * 36 + i) 0) ∧
        (∀ p ∈ (acctFinish a c).1.1, p.deltas.length = 36 ∧ p.cumulative = (List.range 9).map (fun q =>
          (a.regs.getD ((p.point * 4 + c.slot) * 9 + q) {}).count)) ∧
        (c.causes.getLsbD 8 = false → c.causes.getLsbD 9 = false →
          (acctFinish a c).2.opening = a.regs.map (fun r => r.count) ∧ (acctFinish a c).2.measured = 0) ∧
        (c.causes.getLsbD 8 = true ∨ c.causes.getLsbD 9 = true → a.openDue = false →
          (acctFinish a c).2.opening = a.opening ∧ (acctFinish a c).2.measured = a.measured)) ∧
    (∀ (s : State) (ds : List Due) (c : Close) (rest : List Close), s.due = .statFinish :: ds →
      s.stats.closes = c :: rest → (∀ w, s.spectral.decomposing = some w → w.record.seq ≠ c.seq) →
      ∃ t, exec .statisticsCloseFinish s = .next (advance (fileReady c.seq t)) ∧ t.due = ds ∧ t.stats.closes = rest ∧
        t.filing = { s.filing with assemblies := s.filing.assemblies.map (fun a =>
          if a.close.seq = c.seq then { a with stat := some s.stats.accs } else a) } ∧
        t.stats.monitors = s.stats.monitors ∧
        (c.causes.getLsbD 8 = false → c.causes.getLsbD 9 = false → ∀ cfg, s.store.active = some cfg →
          t.stats.accs = (filePoints cfg.enabledMask cfg.memberMask).map (fun p =>
            ({ point := p, floor := cfg.reportFloor } : Acc)) ∧ t.stats.limits = cfg.limits) ∧
        (c.causes.getLsbD 8 = true ∨ c.causes.getLsbD 9 = true → s.stats.openDue = false → t.stats.accs = []) ∧
        t.acct = s.acct ∧ t.ic = s.ic ∧ t.port = s.port ∧ t.orders = s.orders ∧ t.tb = s.tb) ∧
    (∀ (s : State) (seq : Word64),
      fileReady seq s = (if s.filing.assemblies.any (fun a => a.close.seq = seq && a.acct.isSome && a.stat.isSome)
        then { s with due := .fileComplete seq :: s.due } else s)) ∧
    (∀ enabled members : Nat, filePoints enabled members =
      [0, 1, 2, 3].filter (fun p => enabled.testBit p) ++
        (if members.testBit 0 || members.testBit 1 || members.testBit 2 || members.testBit 3 then [4] else []))

/-- A completed file is placed in the holding file or in transit, and a held file is retried. FILE_COMPLETE joins the
parts of the close into a file, forgets the assembly and places the file. A file is placed by the holding file first:
where it is occupied the file is merged into it as the newer one; where it is empty, nothing is in transit and the
exchange area can be reached, the file's transit begins with the owner word of the next page; otherwise it becomes the
held file and HOLD is requested. HELD_FILE_RETRY with a held file, nothing in transit and the exchange area reachable:
the file leaves the holding file and its transit begins at the next page. What follows then comes about. That a file
which finds the base 0 is held and requests HOLD is the model's reading, log 12. A file in transit as the boundary or
tick fell leaves the held file waiting. A file that is held or merged is reported as placed: each CLOSE_INTERVAL order
of its unreported closes, in flight without a completion, completes DONE with OK and its close's sequence number, and
waits no longer; a file in transit reports nothing yet. The time is that of the tick on which the file completed (log
9). The joined file has one record for each point with both parts: the close's number as first and last, no merges,
the close's times, causes, marks, flags, slot and generation, and the figures of the two parts; then the demand-close
records; the close is unreported. (R133, R141, R142: placing a file.) -/
def Obligations.CompletedFilesArePlaced : Prop :=
  (∀ (s : State) (ds : List Due) (seq : Word64) (a : Assembly) (parts : List AcctPart) (demand : List DemandPart)
      (stats : List Acc), s.due = .fileComplete seq :: ds →
      s.filing.assemblies.find? (fun b => b.close.seq = seq) = some a → a.acct = some (parts, demand) →
      a.stat = some stats →
      exec .fileComplete s = .next (advance (placeFile (joinFile a.close parts demand stats) { s with
        due := ds
        filing := { s.filing with assemblies := s.filing.assemblies.filter (fun b => b.close.seq ≠ seq) } }))) ∧
    (∀ (s : State) (f : IntervalFile),
      (∀ h, s.filing.held = some h → (placeFile f s).filing = { s.filing with
        held := some { mergeFiles h f with unreported := [] } } ∧ (placeFile f s).port = s.port) ∧
      (s.filing.held = none → s.filing.transit = none → s.port.exchange = .online → s.port.exbase ≠ 0 →
        placeFile f s = { s with filing := { s.filing with transit := some {
          file := f, fromHeld := false, base := s.port.exbase
          pageBase := match s.store.active with | some c => c.pageBase | none => 0
          page := s.filing.nextPage, stage := .owner, seqNo := 0, body := [], header := [], issuedAt := s.tick } } }) ∧
      (s.filing.held = none → (s.filing.transit ≠ none ∨ s.port.exchange ≠ .online ∨ s.port.exbase = 0) →
        (placeFile f s).filing = { s.filing with held := some { f with unreported := [] } } ∧
          (placeFile f s).port = { s.port with intcause := s.port.intcause ||| (1#9 <<< 1) })) ∧
    (∀ (s : State) (ds : List Due) (f : IntervalFile), s.due = .heldRetry :: ds → s.filing.held = some f →
      (∀ ev, s.event = some ev → ev.inTransit = false) → s.filing.transit = none →
      s.port.exchange = .online → s.port.exbase ≠ 0 →
      exec .heldFileRetry s = .next (advance { s with
        due := ds
        filing := { s.filing with
          held := none
          transit := some {
            file := f, fromHeld := true, base := s.port.exbase
            pageBase := match s.store.active with | some c => c.pageBase | none => 0
            page := s.filing.nextPage, stage := .owner, seqNo := 0, body := [], header := [], issuedAt := s.tick } } })) ∧
    (∀ (s : State) (ev : Event), s.event = some ev → ev.inTransit = true → microStep .heldRetry s = s) ∧
    (∀ (s : State) (f : IntervalFile), (s.filing.held ≠ none ∨ s.filing.transit ≠ none ∨ s.port.exchange ≠ .online ∨
      s.port.exbase = 0) → closesReported f (partTime s) s (placeFile f s)) ∧
    (∀ s : State, s.asOf = none → partTime s = s.tb.timeValue) ∧
    (∀ (c : Close) (parts : List AcctPart) (demand : List DemandPart) (stats : List Acc),
      joinFile c parts demand stats = {
        records := parts.filterMap (fun p => (stats.find? (fun a => a.point = p.point)).map (fun a => {
          point := p.point, firstSeq := c.seq, lastSeq := c.seq, merges := 0, startTime := c.startTime
          endTime := c.endTime, causes := c.causes, partialMark := c.partialMark, unexpected := c.unexpected
          malformed := c.malformed, timeout := c.timeout, tariffMask := 1#4 <<< c.slot, tariffAtClose := c.slot
          genFirst := c.generation, genLast := c.generation, stats := a, deltas := p.deltas
          cumulative := p.cumulative, demandQI := p.demandQI, demandA := p.demandA, excluded := p.excluded }))
        demand := demand.map (fun p => {
          point := p.point, seq := c.seq, endTime := c.endTime, generation := c.generation, entries := p.entries })
        merges := 0, unreported := [c.seq] })

/-- A transit reads the owner word, writes body and header, or returns its file. With nothing due and a file in
transit whose access is answered within 2 ms: OWNER_WORD_ANSWER with ENGINE (1) fixes the page's bytes under the
counter plus one and issues the body; with any other word the file returns to the holding file, merged as the older
with a file held since, the page index and counter stay, and HOLD is requested exactly where the holding file was
empty and the file had not come from it. PAGE_BODY_ANSWERED issues the header in one write. PAGE_WRITE_COMPLETE sets
the counter to the page's number and the index to the next of the K pages, ends the transit, requests FILED, and
clears the unfiled flag where the file holds demand-close records. An answer at 2 ms or later is late (the model's
choice, log 14). Either way the transit's unreported closes are reported: their CLOSE_INTERVAL orders, in flight
without a completion, complete DONE with OK and the close's sequence number. Where a layout change waits, the page
index and the counter become 0 as the transit ends, with or without a page, and nothing waits any longer. The body is
the interval records, then the demand-close records. The 64 bytes of the header, an interval record's 448 bytes with
its 16-byte order entries and 8-byte event entries after them, and a demand-close record's 160 bytes hold every field
of 11.6 at its offset and width: counts at the largest value of their field where they exceed it, each mean the sum
divided by its count rounded down, or 0 or 65,535 where the count is 0, and 0 for the aggregate point; the orders
listed are those with a mean at or above the floor, an exceed count or an emission count above 0, for the aggregate
point those with an emission count above 0. (R138 to R140, R144: the answers to a transit's accesses. R153: a layout
change that waits. R119, R120, R211, R213: the bytes of the page.) -/
def Obligations.TransitsWriteAPageOrReturn : Prop :=
  (∀ (s : State) (dt : Nat) (x : Transit), quiet s → s.filing.transit = some x → s.tick + dt < x.issuedAt + 20000 →
    (x.stage = .owner → exec (.ownerWordAnswer dt 1) s = .next { elapse dt s with
      filing := { s.filing with transit := some { x with
        stage := .body, seqNo := s.filing.pageSeq + 1, body := bodyBytes x.file
        header := headerBytes x.file s.store.factory.epoch (s.filing.pageSeq + 1) (bodyBytes x.file).length
        issuedAt := s.tick + dt } } }) ∧
    (x.stage = .owner → ∀ w, w ≠ 1 → ∃ t, exec (.ownerWordAnswer dt w) s = .next t ∧
      t.filing = { s.filing with
        transit := none, layoutDue := false
        nextPage := if s.filing.layoutDue then 0 else s.filing.nextPage
        pageSeq := if s.filing.layoutDue then 0 else s.filing.pageSeq
        held := some { (match s.filing.held with | some h => mergeFiles x.file h | none => x.file) with
          unreported := [] } } ∧
      t.port = { s.port with intcause := s.port.intcause |||
        (if s.filing.held = none ∧ x.fromHeld = false then 1#9 <<< 1 else 0) } ∧
      t.tb = (elapse dt s).tb ∧ t.acct = s.acct ∧ closesReported x.file (partTime (elapse dt s)) s t) ∧
    (x.stage = .body → exec (.pageBodyAnswered dt) s = .next { elapse dt s with
      filing := { s.filing with transit := some { x with stage := .header, issuedAt := s.tick + dt } } }) ∧
    (x.stage = .header → ∀ c, s.store.active = some c →
      ∃ t, exec (.pageWriteComplete dt) s = .next t ∧
        t.filing = { s.filing with
          transit := none, layoutDue := false
          pageSeq := if s.filing.layoutDue then 0 else x.seqNo
          nextPage := if s.filing.layoutDue then 0 else if x.page + 1 < c.pageCount then x.page + 1 else 0 } ∧
        t.port = { s.port with intcause := s.port.intcause ||| (1#9 <<< 0) } ∧
        t.ic.unfiled = (if x.file.demand = [] then s.ic.unfiled else false) ∧
        t.tb = (elapse dt s).tb ∧ t.acct = s.acct ∧ t.stats = s.stats ∧
        closesReported x.file (partTime (elapse dt s)) s t)) ∧
  (∀ (q : Bool) (s : State) (x : Transit), s.filing.transit = some x → (returnTransit q s).filing = { s.filing with
    transit := none, layoutDue := false
    nextPage := if s.filing.layoutDue then 0 else s.filing.nextPage
    pageSeq := if s.filing.layoutDue then 0 else s.filing.pageSeq
    held := some { (match s.filing.held with | some h => mergeFiles x.file h | none => x.file) with
      unreported := [] } }) ∧
  (∀ f : IntervalFile, bodyBytes f = (f.records.map recordBytes).flatten ++ (f.demand.map demandRecordBytes).flatten) ∧
  (∀ (f : IntervalFile) (epoch seqNo : Word32) (len : Nat) (b : List Byte), b = headerBytes f epoch seqNo len →
    b.length = 64 ∧ ∃ (causes : CauseSet) (first last : Nat),
      (∀ i < 10, causes.getLsbD i = f.records.any (fun r => r.causes.getLsbD i)) ∧
      (f.records ≠ [] → (∃ r ∈ f.records, r.firstSeq.toNat = first) ∧ (∃ r ∈ f.records, r.lastSeq.toNat = last)) ∧
      (∀ r ∈ f.records, first ≤ r.firstSeq.toNat ∧ r.lastSeq.toNat ≤ last) ∧
      ∀ x ∈ ([(0, 4, 2), (4, 4, epoch.toNat), (8, 4, seqNo.toNat), (12, 2, f.records.length + f.demand.length),
        (14, 2, 64 + len), (16, 8, first), (24, 8, last), (32, 2, causes.toNat), (34, 2, 0),
        (36, 4, min (2 ^ 32 - 1) f.merges), (40, 8, 0), (48, 8, 0), (56, 8, 0)] : List (Nat × Nat × Nat)),
        (b.drop x.1).take x.2.1 = leBytes x.2.1 x.2.2) ∧
  (∀ (r : IntervalRecord) (a : Acc) (mean : Nat → Nat → Nat → Nat) (list : List Nat) (b : List Byte), a = r.stats →
    (∀ sum n none, mean sum n none = if n = 0 then none else sum / n) →
    list = (List.range 49).filter (fun j => if r.point = 4 then 0 < (a.orders.getD j {}).emission
      else a.floor ≤ mean (a.orders.getD j {}).sum a.included 0 ∨ 0 < (a.orders.getD j {}).exceed ∨
        0 < (a.orders.getD j {}).emission) →
    a.point = r.point → a.orders.length = 49 → a.stuck.length = 7 → r.cumulative.length = 9 → r.deltas.length = 36 →
    b = recordBytes r →
    b.length = 448 + 16 * list.length + 8 * a.events.length ∧
    (∀ x ∈ ([(0, 1, 1), (1, 1, r.point),
        (2, 1, (if r.partialMark then 1 else 0) + (if r.excluded then 2 else 0) + (if r.unexpected then 4 else 0)
          + (if r.malformed then 8 else 0) + (if r.timeout then 16 else 0)),
        (3, 1, r.tariffMask.toNat + 16 * r.tariffAtClose), (4, 2, r.causes.toNat), (6, 1, list.length),
        (7, 1, a.events.length), (8, 8, r.firstSeq.toNat), (16, 8, r.lastSeq.toNat), (24, 6, r.startTime),
        (30, 6, r.endTime), (36, 4, r.genFirst.toNat), (40, 4, r.genLast.toNat),
        (44, 4, min (2 ^ 32 - 1) r.merges), (48, 4, min (2 ^ 32 - 1) a.total), (52, 4, min (2 ^ 32 - 1) a.clean),
        (56, 4, min (2 ^ 32 - 1) a.flagged), (60, 4, min (2 ^ 32 - 1) a.missing),
        (64, 4, min (2 ^ 32 - 1) a.partials), (68, 4, min (2 ^ 32 - 1) a.unlocked),
        (72, 4, min (2 ^ 32 - 1) a.discarded), (76, 4, min (2 ^ 32 - 1) a.included),
        (80, 4, min (2 ^ 32 - 1) a.subst), (84, 4, a.minFreq), (88, 4, a.maxFreq),
        (92, 4, if r.point = 4 then 0 else mean a.fundSum a.included 0),
        (96, 2, if r.point = 4 then 0 else mean a.thdISum a.thdICount 65535),
        (98, 2, if r.point = 4 then 0 else mean a.thdVSum a.thdVCount 65535),
        (100, 2, if r.point = 4 then 0 else mean a.tddSum a.included 0), (102, 2, min 65535 a.offsetUpdates),
        (104, 2, min 65535 a.dropped),
        (106, 1, ((List.range 7).map (fun c => if a.stuck.getD c false then 2 ^ c else 0)).sum), (107, 1, 0),
        (144, 8, r.demandQI), (152, 8, r.demandA)]
        ++ (List.range 9).map (fun q => (108 + 4 * q, 4, (r.cumulative.getD q 0).toNat))
        ++ (List.range 36).map (fun i => (160 + 8 * i, 8, (r.deltas.getD i 0).toNat)) : List (Nat × Nat × Nat)),
      (b.drop x.1).take x.2.1 = leBytes x.2.1 x.2.2) ∧
    (∀ i j (o : OrderAcc), list[i]? = some j → o = a.orders.getD j {} → ∀ x ∈ ([(0, 1, j + 2),
        (1, 3, if r.point = 4 then 0 else mean o.sum a.included 0), (4, 4, if r.point = 4 then 0 else o.max),
        (8, 4, if r.point = 4 then 0 else min (2 ^ 32 - 1) o.exceed), (12, 4, min (2 ^ 32 - 1) o.emission)]
          : List (Nat × Nat × Nat)),
      (b.drop (448 + 16 * i + x.1)).take x.2.1 = leBytes x.2.1 x.2.2) ∧
    (∀ i (e : EventEntry), a.events[i]? = some e → ∀ x ∈ ([
        (0, 1, e.mon.val + (if e.on then 4 else 0) + (if e.reconfigured then 8 else 0)), (1, 3, e.index),
        (4, 4, e.value)] : List (Nat × Nat × Nat)),
      (b.drop (448 + 16 * list.length + 8 * i + x.1)).take x.2.1 = leBytes x.2.1 x.2.2)) ∧
  (∀ (r : DemandRecord) (b : List Byte), r.entries.length = 8 → b = demandRecordBytes r →
    b.length = 160 ∧ ∀ x ∈ ([(0, 1, 2), (1, 1, r.point), (2, 2, 0), (4, 4, r.generation.toNat), (8, 8, r.seq.toNat),
        (16, 8, r.endTime), (152, 8, 0)]
        ++ (List.range 8).flatMap (fun i => [(24 + 16 * i, 8, (r.entries.getD i {}).max),
          (32 + 16 * i, 8, (r.entries.getD i {}).seq.toNat)]) : List (Nat × Nat × Nat)),
      (b.drop x.1).take x.2.1 = leBytes x.2.1 x.2.2)

/-- A header block holds the fields of its layout as they stand, and is written with its update count last. With the
exchange area reachable the event raises the update count by one and issues the 112 bytes of the header block, which
hold the new count and every field of the layout of 11.3, at its offset and width, as it stands then: the states of
the engine, the flags, the reset cause, the active slot, the holding state and merge count, the fault record, the
standing time value, the sequence number, pace and frequency, the next page, page counter and epoch, the two
generations, 0 where absent, the states and drop reasons of the links, the STUCK set and the six sync counters.
HEADER_FIELDS_ANSWERED in time with nothing due issues the update count in a write of its own, counted from that
instant; UPDATE_COUNT_WRITE_ANSWERED in time ends the write. Nothing else changes. An answer at 2 ms is late by the
model's choice, log 14. A field's bytes are those of its value, least significant first. (R206: a header block write.
R207 and 11.3: its fields.) -/
def Obligations.HeaderBlockIsWrittenCountLast : Prop :=
  (∀ s : State, s.port.exchange = .online → s.port.exbase ≠ 0 → s.links.length = 4 → s.channels.length = 28 →
      ∃ img, microStep .header s = { s with port := { s.port with
          updateCount := s.port.updateCount + 1
          header := some {
            access := { base := s.port.exbase, issuedAt := s.tick }, image := img, counting := false } } } ∧
        img.length = 112 ∧ ∀ x ∈ ([
          (0, 4, (s.port.updateCount + 1).toNat),
          (4, 1, match s.port.meas with | .halted => 0 | .starting => 1 | .running => 2 | .stopping => 3),
          (5, 1, 0), (6, 1, match s.tb.lock with | .acquire => 0 | .locked => 1 | .holdover => 2 | .free => 3),
          (7, 1, (if s.port.startRefused then 1 else 0) + (if s.store.factory.missing then 2 else 0)
            + (if s.store.factory.unsaved then 4 else 0) + (if s.ic.current.isSome then 8 else 0)
            + (if s.ic.forced.isSome then 16 else 0) + (if s.ic.demandPending then 32 else 0)
            + (if s.store.active.isSome then 64 else 0) + (if s.store.pend.isSome then 128 else 0)),
          (8, 1, match s.port.resetCause with | .powerOn => 1 | .pin => 2 | .soft => 3), (9, 1, s.ic.activeSlot),
          (10, 1, if s.filing.held.isSome then 1 else if s.filing.transit.any (fun t => t.fromHeld) then 2 else 0),
          (11, 1, match s.port.fault.kind with | .none => 0 | .error => 1 | .timeout => 2),
          (12, 1, match s.port.fault.dir with | .read => 0 | .write => 1),
          (13, 1, match s.port.fault.op with
            | none => 0 | some .scan => 1 | some .completion => 2 | some .header => 3 | some .ownerRead => 4
            | some .pageWrite => 5 | some .configRead => 6 | some .snapshot => 7),
          (14, 2, 0), (16, 8, s.port.fault.addr.toNat),
          (24, 8, match s.event with | some ev => ev.tNew | none => s.tb.timeValue), (32, 8, s.ic.seq.toNat),
          (40, 4, s.tb.pace), (44, 4, 10000000000 / s.tb.pace), (48, 2, s.filing.nextPage), (50, 2, 0),
          (52, 4, s.filing.pageSeq.toNat),
          (56, 4, min (2 ^ 32 - 1) (match s.filing.held, s.filing.transit with
            | some h, _ => h.merges
            | none, some t => if t.fromHeld then t.file.merges else 0
            | none, none => 0)),
          (60, 4, s.store.factory.epoch.toNat),
          (64, 4, match s.store.active with | some c => c.generation.toNat | none => 0),
          (68, 4, match s.store.pend with | some c => c.1.generation.toNat | none => 0),
          (80, 4, ((List.range 28).map (fun ch => if (s.channel ch).stuck then 2 ^ ch else 0)).sum), (84, 4, 0),
          (88, 4, s.ic.glitches.toNat), (92, 4, s.ic.unexpectedEnds.toNat), (96, 4, s.ic.ignoredSteps.toNat),
          (100, 4, s.ic.malformedBursts.toNat), (104, 4, s.ic.stuckLows.toNat), (108, 4, s.ic.timeouts.toNat)]
          ++ (List.finRange 4).flatMap (fun l => [
            (72 + l.val, 1, match (s.link l).state with | .down => 0 | .seeking => 1 | .running => 2),
            (76 + l.val, 1, match (s.link l).dropReason with
              | .none => 0 | .silence => 1 | .framingRun => 2 | .parityRun => 3 | .moduleFault => 4
              | .indexGap => 5)]) : List (Nat × Nat × Nat)),
          (img.drop x.1).take x.2.1 = leBytes x.2.1 x.2.2) ∧
    (∀ (s : State) (dt : Nat) (h : HeaderWrite), quiet s → s.port.header = some h →
      s.tick + dt < h.access.issuedAt + 20000 →
      (h.counting = false → exec (.headerFieldsAnswered dt) s = .next { elapse dt s with
        port := { s.port with
          header := some { h with access := { h.access with issuedAt := s.tick + dt }, counting := true } } }) ∧
      (h.counting = true → exec (.updateCountWriteAnswered dt) s = .next { elapse dt s with
        port := { s.port with header := none } })) ∧
    (∀ width v, (leBytes width v).length = width ∧
      ∀ i < width, (leBytes width v).getD i 0 = BitVec.ofNat 8 (v / 256 ^ i))

/-- The answers to the completion queue's writes let it go on, and a delivered completion requests ORDER. With nothing
due and the write at the head of the queue in progress and answered within 2 ms: TAKEN_WRITE_ANSWERED removes a TAKEN
write from the head; COMPLETION_RESULT_WRITTEN keeps the completion at the head with its state write to come;
COMPLETION_DELIVERED removes it, takes the entry out of the in-flight list and requests ORDER. Each time the next
write is issued as soon as the exchange area can be reached. An answer at 2 ms is late by the model's choice, log 14.
A TAKEN write is the state TAKEN, a completion's first write the code, the tag, the result value and the time, and its
state write DONE or FAILED, each in the codes of 11.4. A completion is made once for each order taken: an order in
flight that has none gets its entry, with the captured tag, at the end of the queue, and any other order none. The
next write is issued exactly where the queue holds one, none is in progress, the exchange is ONLINE and its base is
not 0. A completion's time is the time value of the event in hand, the one it had before any SET_TIME (log 15), and
outside an event that of the reference tick on which the part in hand falls, told back on the clock as it stands (log
9). (R164 and 11.4: the writes of a completion.) -/
def Obligations.QueueWritesAreAnsweredInTurn : Prop :=
  (∀ (s : State) (dt : Nat) (a : Access) (e : Fin 16) (c : Completion) (rest : List QueueItem), quiet s →
    s.orders.head = some a → s.tick + dt < a.issuedAt + 20000 →
    (s.orders.queue = .taken e :: rest → exec (.takenWriteAnswered dt) s = .next (pump { elapse dt s with
      orders := { s.orders with queue := rest, head := none } })) ∧
    (s.orders.queue = .completion e c false :: rest →
      exec (.completionResultWritten dt) s = .next (pump { elapse dt s with
        orders := { s.orders with queue := .completion e c true :: rest, head := none } })) ∧
    (s.orders.queue = .completion e c true :: rest →
      exec (.completionDelivered dt) s = .next (pump (request .order { elapse dt s with
        orders := { s.orders with
          inFlight := s.orders.inFlight.filter (fun f => f.entry ≠ e), queue := rest, head := none } })))) ∧
  (∀ (c : Completion) (code : Nat), code = (match c.code with
      | .ok => 0 | .clamped => 1 | .badKind => 2 | .badParam => 3 | .badState => 4 | .busy => 5 | .superseded => 6
      | .badConfig => 7 | .divisorFixed => 8 | .shortBuffer => 9 | .busFault => 10 | .loadPresent => 11
      | .timeout => 12 | .readOnly => 13 | .reset => 14) →
    takenBytes = leBytes 2 2 ∧ stateBytes c = leBytes 2 (if c.failed then 4 else 3) ∧
    completionBytes c = (leBytes 2 code ++ [0, 0] ++ leBytes 8 c.tag.toNat, leBytes 8 c.value.toNat ++ leBytes 8 c.time)) ∧
  (∀ s : State,
    (s.orders.queue ≠ [] → s.orders.head = none → s.port.exchange = .online → s.port.exbase ≠ 0 →
      pump s = { s with orders := { s.orders with head := some { base := s.port.exbase, issuedAt := s.tick } } }) ∧
    (s.orders.queue = [] ∨ s.orders.head ≠ none ∨ s.port.exchange = .faulted ∨ s.port.exbase = 0 → pump s = s)) ∧
  (∀ (s : State) (e : Fin 16) (failed : Bool) (code : ResultCode) (value : Word64) (time : Nat),
    (s.inFlight e = none → complete e failed code value time s = s) ∧
    (∀ f, s.inFlight e = some f →
      (f.completed = true → complete e failed code value time s = s) ∧
      (f.completed = false → complete e failed code value time s = pump { s with orders := { s.orders with
        inFlight := s.orders.inFlight.map (fun g => if g.entry = e then { g with completed := true } else g)
        queue := s.orders.queue ++
          [.completion e { failed := failed, code := code, value := value, time := time, tag := f.tag } false] } }))) ∧
  (∀ s : State,
    (∀ ev, s.event = some ev → eventTime s = ev.tOld) ∧ (s.event = none → eventTime s = partTime s) ∧
    (s.asOf = none → partTime s = s.tb.timeValue) ∧
    (∀ t n, s.asOf = some t → n = s.tick - t → s.tb.timeValue < 2 ^ 48 → s.tb.subMs < 10000 →
      n ≤ s.tb.timeValue * 10000 + s.tb.subMs →
      partTime s = (s.tb.timeValue * 10000 + s.tb.subMs - n) / 10000))

/-- An error or a 2 ms silence on an access enters FAULTED and ends every operation. BUS_ACCESS_ERROR in time, and
BUS_ACCESS_TIMEOUT at 2 ms after the issue or now where that has passed (log 1), on an access of an operation in
progress while ONLINE, with nothing due: the exchange is FAULTED; the fault record holds the kind, the direction, the
operation and the address; BUSFAULT is requested; no scan, header block write, configuration block read, image write
or transit is in progress, and none of the queue's writes is issued. A file in transit is back in the holding file,
merged as the older with a file held since, and HOLD is requested exactly where the holding file was empty and the
file had not come from it. The queue keeps what it holds, and behind that stand: the reports of the returned file's
closes, DONE with OK; the LOAD_CONFIG whose block was being read and every SNAPSHOT not yet written, FAILED with
BUS_FAULT and value 0; and nothing else. What the event in hand has still to do then comes about. The address is that
of the access's place in the operation. A read of the scan, of the owner word or of the configuration block lies at
the command's offset (the model's form, log 13), inside what the operation reads; a write of a group lies there too,
inside the bytes the group writes. The READ of a group of writes is its confirming read: it goes to the last bytes the
group wrote, wherever the command's offset points; how many is a free value (log 38). The groups are the two writes of
a completion, a TAKEN write, the field writes and the count write of a header block, the body and the header of a
page, and an image. That all accesses of a group count from its issue is the model's choice, log 23. Each operation
lies where the exchange area has it: the scan reads the order table at 4,096, a queue write goes to its entry of 64
bytes there, the header block stands at 0, the configuration block at 8,192, page i at the page base plus 8,192 i, and
an image at its order's address. Completion times are those of log 15 and log 9. (R201, R202: a bus fault. R144, R145:
the returned file and its HOLD. R86, R166: the orders that fail. R164, R206, R139: the groups of writes. Of the
completion times of R163, that of a LOAD_CONFIG is the event's before any SET_TIME, and a SNAPSHOT's that of the same
instant on the clock (the model's reading, log 15); a report of the returned file's closes takes that of the part in
hand (log 9). That a fault on a TAKEN write is one of the operation COMPLETION is the model's choice, log 13.) -/
def Obligations.BusFaultsEndEveryOperation : Prop :=
  (∀ (s w : State) (dt off p : Nat) (op : BusOp) (dir : BusDir) (e : Fin 16) (a : Access) (kind : FaultKind)
      (o : Host.Outcome State Fault Refusal), quiet s → operation op e s = some a →
    accessPlace op dir off s = some p → s.port.exchange = .online →
    (kind = .error ∧ s.tick + dt < a.issuedAt + 20000 ∧ w = elapse dt s ∧ o = exec (.busAccessError dt op dir off e) s ∨
      kind = .timeout ∧ w = elapse (a.issuedAt + 20000 - s.tick) s ∧ o = exec (.busAccessTimeout op dir off e) s) →
    ∃ (t : State) (new : List QueueItem), o = .next (advance t) ∧
      t.port = { s.port with
        exchange := .faulted
        intcause := s.port.intcause ||| (1#9 <<< 7) ||| (match s.filing.transit with
          | some x => if s.filing.held = none ∧ x.fromHeld = false then 1#9 <<< 1 else 0
          | none => 0)
        fault := { kind := kind, dir := dir, op := some op, addr := a.base + BitVec.ofNat 64 p }
        scan := none, header := none, configRead := none, snapshots := [] } ∧
      t.filing = (match s.filing.transit with
        | none => s.filing
        | some x => { s.filing with
            transit := none, layoutDue := false
            nextPage := if s.filing.layoutDue then 0 else s.filing.nextPage
            pageSeq := if s.filing.layoutDue then 0 else s.filing.pageSeq
            held := some { (match s.filing.held with | some h => mergeFiles x.file h | none => x.file) with
              unreported := [] } }) ∧
      t.ic = { s.ic with closeOrders := s.ic.closeOrders.filter (fun c => match s.filing.transit with
        | some x => !x.file.unreported.contains c.2
        | none => true) } ∧
      t.orders.head = none ∧ t.orders.resetDue = s.orders.resetDue ∧ t.orders.queue = s.orders.queue ++ new ∧
      (∀ r g, s.port.configRead = some r → s.inFlight r.entry = some g → g.completed = false →
        (∀ c ∈ s.ic.closeOrders, c.1 ≠ r.entry) →
        .completion r.entry { failed := true, code := .busFault, value := 0, time := eventTime w, tag := g.tag } false ∈
          new) ∧
      (∀ q ∈ s.port.snapshots, ∀ g, s.inFlight q.entry = some g → g.completed = false →
        (∀ c ∈ s.ic.closeOrders, c.1 ≠ q.entry) → (∀ r, s.port.configRead = some r → r.entry ≠ q.entry) →
        .completion q.entry { failed := true, code := .busFault, value := 0, time := w.tb.timeValue, tag := g.tag }
          false ∈ new) ∧
      (∀ x, s.filing.transit = some x → ∀ c ∈ s.ic.closeOrders, c.2 ∈ x.file.unreported → ∀ g,
        s.inFlight c.1 = some g → g.completed = false → (∀ c' ∈ s.ic.closeOrders, c'.1 = c.1 → c' = c) →
        .completion c.1 { failed := false, code := .ok, value := c.2, time := partTime w, tag := g.tag } false ∈ new) ∧
      (∀ n ∈ new, ∃ e' c, n = .completion e' c false ∧
        (c.failed = true ∧ c.code = .busFault ∧ c.value = 0 ∧
            ((∃ r, s.port.configRead = some r ∧ r.entry = e') ∨ ∃ q ∈ s.port.snapshots, q.entry = e') ∨
          c.failed = false ∧ c.code = .ok ∧ (e', c.value) ∈ s.ic.closeOrders ∧
            ∃ x, s.filing.transit = some x ∧ c.value ∈ x.file.unreported)) ∧
      t.due = (if s.port.scan.isSome || s.port.configRead.isSome then
        (match s.event with | some ev => ev.todo | none => []) else []) ∧
      t.event = (if s.port.scan.isSome || s.port.configRead.isSome then
        s.event.map (fun ev => { ev with todo := [] }) else s.event) ∧
      t.tick = w.tick ∧ t.tb = w.tb ∧ t.acct = s.acct ∧ t.stats = s.stats ∧ t.links = s.links ∧
      t.channels = s.channels ∧ t.spectral = s.spectral ∧ t.store = s.store) ∧
  (∀ (s : State) (off : Nat),
    (off < 1024 → accessPlace .scan .read off s = some off) ∧
    (off < 4 → accessPlace .ownerRead .read off s = some off) ∧
    (off < 544 → accessPlace .configRead .read off s = some off) ∧
    (∀ (op : BusOp) (first len : Nat), op ∈ [BusOp.completion, .header, .pageWrite, .snapshot] →
      (groupRuns op s).getLast? = some (first, len) → 0 < len →
      (∃ k, 1 ≤ k ∧ k ≤ len ∧ accessPlace op .read off s = some (first + len - k)) ∧
      (∀ p, accessPlace op .write off s = some p ↔
        p = off ∧ ∃ r ∈ groupRuns op s, r.1 ≤ off ∧ off < r.1 + r.2)) ∧
    (∀ e c rest, s.orders.queue = .completion e c false :: rest →
      groupRuns .completion s = [(4, 12), (48, 16)]) ∧
    (∀ e c rest, s.orders.queue = .completion e c true :: rest ∨ s.orders.queue = .taken e :: rest →
      groupRuns .completion s = [(0, 2)]) ∧
    (∀ h, s.port.header = some h → groupRuns .header s = if h.counting then [(0, 4)] else [(4, 108)]) ∧
    (∀ x, s.filing.transit = some x → groupRuns .pageWrite s = if x.stage = .body then [(64, x.body.length)]
      else [(0, 64)]) ∧
    groupRuns .snapshot s = [(0, 3584)]) ∧
  (∀ (s : State) (e : Fin 16),
    operation .scan e s = s.port.scan.map (fun a => { a with base := a.base + 4096 }) ∧
    (∀ a e' rest, s.orders.head = some a →
      (s.orders.queue = .taken e' :: rest ∨ ∃ c wrote, s.orders.queue = .completion e' c wrote :: rest) →
      operation .completion e s = some { a with base := a.base + BitVec.ofNat 64 (4096 + 64 * e'.val) }) ∧
    (s.orders.head = none ∨ s.orders.queue = [] → operation .completion e s = none) ∧
    operation .header e s = s.port.header.map (fun h => h.access) ∧
    operation .configRead e s = s.port.configRead.map (fun r => { r.access with base := r.access.base + 8192 }) ∧
    (s.filing.transit = none → operation .ownerRead e s = none ∧ operation .pageWrite e s = none) ∧
    (∀ x, s.filing.transit = some x → ∀ page : Access,
      page = { base := x.base + BitVec.ofNat 64 (x.pageBase + 8192 * x.page), issuedAt := x.issuedAt } →
      (x.stage = .owner → operation .ownerRead e s = some page ∧ operation .pageWrite e s = none) ∧
      (x.stage ≠ .owner → operation .ownerRead e s = none ∧ operation .pageWrite e s = some page)) ∧
    operation .snapshot e s = (s.port.snapshots.find? (fun p => p.entry = e && p.image.isSome)).map
      (fun p => { base := p.addr, issuedAt := p.issuedAt }))

/-- An answered scan takes every POSTED entry whose index is not in flight, after the RESET completions of a soft
reset. SCAN_READS_ANSWERED in time, with nothing else due, ends the scan and lets the event go on with the taking of
the table. The taking: each entry that reads POSTED and is not in flight joins the in-flight list, in increasing index
order, with its kind, tag and parameters as read, and its TAKEN write joins the completion queue; the orders are
handed over in that order before what the event has still to do. Where a soft reset's orders are still to complete,
each order it ended completes first, FAILED with RESET, result value 0 and the event's time, in increasing index
order: that completion joins the queue before the TAKEN writes, and no such order is left to complete. That this comes
about at the first scan whose reads are answered is the model's reading, log 35; the completion time is that of the
event before any SET_TIME (the model's reading, log 15). An order of a kind that is none of the ten fails as it is
handed over, with BAD_KIND and result value 0. (R158 to R160: taking and handing over. R177: the completion of the
orders that a soft reset ended.) -/
def Obligations.ScansTakePostedOrders : Prop :=
  (∀ (s : State) (dt : Nat) (table : List Byte) (a : Access) (ev : Event), quiet s → s.event = some ev →
      s.port.scan = some a → s.tick + dt < a.issuedAt + 20000 →
      exec (.scanReadsAnswered dt table) s = .next (advance { elapse dt s with
        due := .takeOrders table :: ev.todo, event := some { ev with todo := [] }
        port := { s.port with scan := none } })) ∧
    (∀ (s : State) (table : List Byte) (posted : List (Fin 16)),
      posted = (List.finRange 16).filter (fun e : Fin 16 =>
        field table (64 * e.val) 2 = 1 && s.orders.inFlight.all (fun f => f.entry ≠ e)) →
      ∃ t, t = microStep (.takeOrders table) s ∧
        (s.orders.resetDue = false →
          t.orders.inFlight = s.orders.inFlight ++ posted.map (fun e => {
            entry := e, kind := field table (64 * e.val + 2) 2, tag := BitVec.ofNat 64 (field table (64 * e.val + 8) 8)
            params := (table.drop (64 * e.val + 16)).take 32, completed := false, ended := false }) ∧
          t.orders.queue = s.orders.queue ++ posted.map (fun e => .taken e)) ∧
        (s.orders.resetDue = true → entriesOnce s →
          (∀ f ∈ s.orders.inFlight, f.ended = true → f.completed = false) →
          t.orders.inFlight = s.orders.inFlight.map (fun f => if f.ended then { f with completed := true } else f) ++
            posted.map (fun e => {
              entry := e, kind := field table (64 * e.val + 2) 2, tag := BitVec.ofNat 64 (field table (64 * e.val + 8) 8)
              params := (table.drop (64 * e.val + 16)).take 32, completed := false, ended := false }) ∧
          t.orders.queue = s.orders.queue ++ (List.finRange 16).filterMap (fun e : Fin 16 =>
              (s.orders.inFlight.find? (fun f => f.entry = e && f.ended)).map (fun f => .completion e
                { failed := true, code := .reset, value := 0, time := eventTime s, tag := f.tag } false))
            ++ posted.map (fun e => .taken e)) ∧
        t.orders.resetDue = false ∧ t.due = posted.map (fun e => .handOver e) ++ s.due ∧
        t.event = s.event ∧ t.port = s.port ∧ t.ic = s.ic ∧ t.filing = s.filing ∧ t.tb = s.tb) ∧
    (∀ (s : State) (e : Fin 16) (f : InFlight) (ev : Event), s.inFlight e = some f → s.event = some ev →
      (f.kind = 0 ∨ 10 < f.kind) →
      named (.handOver e) s = false ∧ microStep (.handOver e) s = complete e true .badKind 0 ev.tOld s)

/-- LOAD_CONFIG reads its block, CLOSE_INTERVAL closes at a boundary that can close. LOAD_CONFIG at its event with the
exchange area reachable: the block read is issued with the base and the instant, and the rest of the event waits; with
it out of reach the order fails with BUS_FAULT (the model's choice, log 12). CLOSE_INTERVAL: at a boundary that ends a
window with an interval open, ORDER joins the close and the order waits for the placing of the close's file; at any
other event it fails with BAD_STATE. The completion time is that of the event before any SET_TIME (the model's
reading, log 15). (R166, R168.) -/
def Obligations.LoadAndCloseOrdersAreCarriedOut : Prop :=
  ∀ (s : State) (e : Fin 16) (ds : List Due) (f : InFlight) (ev : Event), s.due = .handOver e :: ds →
    s.inFlight e = some f → s.event = some ev →
    (f.kind = 1 → s.port.exchange = .online → s.port.exbase ≠ 0 →
      exec (.loadConfig e) s = .next { s with
        due := [], event := some { ev with todo := ds }
        port := { s.port with
          configRead := some { entry := e, access := { base := s.port.exbase, issuedAt := s.tick } } } }) ∧
    (f.kind = 1 → (s.port.exchange ≠ .online ∨ s.port.exbase = 0) →
      exec (.loadConfig e) s = .next (advance (complete e true .busFault 0 ev.tOld { s with due := ds }))) ∧
    (f.kind = 2 → ev.kind = .boundary → s.ic.current ≠ none →
      exec (.closeInterval e) s = .next (advance { s with
        due := ds, event := some { ev with causes := ev.causes ||| (1#10 <<< 3) }
        ic := { s.ic with closeOrders := s.ic.closeOrders ++ [(e, s.ic.seq)] } })) ∧
    (f.kind = 2 → (ev.kind ≠ .boundary ∨ s.ic.current = none) →
      exec (.closeInterval e) s = .next (advance (complete e true .badState 0 ev.tOld { s with due := ds })))

/-- DEMAND_RESET joins the pending reset, TARIFF_SET forces a slot or clears the force. DEMAND_RESET at a boundary,
the first of a run included, joins the pending demand reset and is considered at that boundary; at a free tick it
fails with BAD_STATE. TARIFF_SET: a slot below n forces it and, in SYNC source, sets the stepped slot; AUTO clears the
force and leaves the stepped slot; any other value fails with BAD_PARAM. With no configuration active n is 1, so that
slot 0 alone can be forced, and whether the source counts as SYNC there is a free value (the model's choice, log 16).
An accepted TARIFF_SET completes with the slot that stands after the event once the event's other actions are done
(the model's order, log 11). The completion time is that of the event before any SET_TIME (the model's reading, log
15). (R103, R109, R170, R174.) -/
def Obligations.ResetAndTariffOrdersAreCarriedOut : Prop :=
  ∀ (s : State) (e : Fin 16) (ds : List Due) (f : InFlight) (ev : Event) (n : Nat) (sync : Bool),
    s.due = .handOver e :: ds → s.inFlight e = some f → s.event = some ev →
    n = (match s.store.active with | some c => c.slots | none => 1) →
    sync = (match s.store.active with
      | some c => decide (c.tariffSource = 1)
      | none => Config.unconfiguredTariffIsSync) →
    (f.kind = 4 → ev.kind ≠ .tick → exec (.demandReset e) s = .next (advance { s with
      due := ds, event := some { ev with demand := true }
      ic := { s.ic with demandPending := true, demandOrders := s.ic.demandOrders ++ [e] } })) ∧
    (f.kind = 4 → ev.kind = .tick →
      exec (.demandReset e) s = .next (advance (complete e true .badState 0 ev.tOld { s with due := ds }))) ∧
    (f.kind = 8 → param32 f.params 16 = 0xFFFFFFFF → exec (.tariffSet e) s = .next (advance { s with
      due := ds, event := some { ev with tariffSet := some none, finishing := ev.finishing ++ [.tariff e] }
      ic := { s.ic with forced := none } })) ∧
    (f.kind = 8 → param32 f.params 16 < 4 → param32 f.params 16 < n →
      exec (.tariffSet e) s = .next (advance { s with
        due := ds
        event := some { ev with
          tariffSet := some (some (param32 f.params 16)), finishing := ev.finishing ++ [.tariff e] }
        ic := { s.ic with
          forced := some (param32 f.params 16)
          stepped := if sync then param32 f.params 16 else s.ic.stepped } })) ∧
    (f.kind = 8 → (4 ≤ param32 f.params 16 ∨ n ≤ param32 f.params 16) → param32 f.params 16 ≠ 0xFFFFFFFF →
      exec (.tariffSet e) s = .next (advance (complete e true .badParam 0 ev.tOld { s with due := ds }))) ∧
    (∀ u : State, u.event = some { ev with finishing := [.tariff e] } →
      microStep .finishOrders u = complete e false .ok (BitVec.ofNat 64 u.ic.activeSlot) ev.tOld
        { u with event := some { ev with finishing := [] } })

/-- SET_TIME loads the time value, clears the sub-millisecond count and sets the day-of-week offset. SET_TIME at its
event with a time value below 2^48 and a day-of-week offset of 0 to 6: the time value that stood completes the order
as its result; the clock reads the loaded value at the event's reference tick, with the sub-millisecond count 0 there
and counting on from it, and the offset is stored; nothing else changes. Any other value fails with BAD_PARAM. The
completion carries the event's time value before any load (the model's reading, log 15). (R28, R169.) -/
def Obligations.SetTimeLoadsTheClock : Prop :=
  ∀ (s : State) (e : Fin 16) (ds : List Due) (f : InFlight) (ev : Event) (time off late : Nat),
    s.due = .handOver e :: ds → s.inFlight e = some f → f.kind = 3 → s.event = some ev →
    time = field f.params 0 8 → off = field f.params 8 4 → late = s.tick - ev.tick →
    (time < 2 ^ 48 → off ≤ 6 → ∃ u, u = complete e false .ok (BitVec.ofNat 64 ev.tNew) ev.tOld { s with due := ds } ∧
      exec (.setTime e) s = .next (advance { u with
        event := some { ev with tNew := time, timeSet := true }
        tb := { s.tb with
          timeValue := (time + late / 10000) % 2 ^ 48, subMs := late % 10000, dowOffset := off } })) ∧
    ((2 ^ 48 ≤ time ∨ 6 < off) →
      exec (.setTime e) s = .next (advance (complete e true .badParam 0 ev.tOld { s with due := ds })))

/-- SNAPSHOT captures an image of 3,584 bytes and completes when its writes are answered. SNAPSHOT at its event: a
length below 3,584 fails with SHORT_BUFFER, a buffer not aligned to 64 bytes with BAD_PARAM; otherwise the order waits
for the event's other actions (the model's order, log 11). Then, with the exchange ONLINE, the image of the accounts
as they stand, with the header of that moment (for its open fields log 34, for its time value after a SET_TIME log
40), is captured and its writes issued, but at a free tick or first boundary with a decomposition in progress the
header is fixed and the capture waits for it, and with the exchange FAULTED the order fails with BUS_FAULT.
SNAPSHOT_CAPTURE captures a waiting image, or, with the exchange FAULTED, fails the order with BUS_FAULT; what follows
comes about. SNAPSHOT_WRITTEN in time with nothing due ends the operation and completes the order with the sequence
number of the latest window in the image. The image has 3,584 bytes: the header, the 180 registers and the 40 demand
entries at their offsets of 11.7. That the window of the header is the last one whose results were taken, and no
window known by discard notices alone, is the model's choice, log 46. An answer at 2 ms is late by the model's choice,
log 14. The completion time is that of the event before any SET_TIME (the model's reading, log 15). (R84 to R86,
R171.) -/
def Obligations.SnapshotsCaptureAndWriteAnImage : Prop :=
  (∀ (s : State) (e : Fin 16) (ds : List Due) (f : InFlight) (ev : Event) (addr len : Nat),
      s.due = .handOver e :: ds → s.inFlight e = some f → f.kind = 5 → s.event = some ev →
      addr = field f.params 0 8 → len = field f.params 8 4 →
      (len < 3584 → exec (.snapshot e) s = .next (advance (complete e true .shortBuffer 0 ev.tOld
        { s with due := ds }))) ∧
      (3584 ≤ len → addr % 64 ≠ 0 → exec (.snapshot e) s = .next (advance (complete e true .badParam 0 ev.tOld
        { s with due := ds }))) ∧
      (3584 ≤ len → addr % 64 = 0 → exec (.snapshot e) s = .next (advance { s with
        due := ds, event := some { ev with finishing := ev.finishing ++ [.image e] }
        port := { s.port with snapshots := s.port.snapshots ++ [{
          entry := e, addr := BitVec.ofNat 64 addr, head := [], image := none, issuedAt := s.tick, seq := 0 }] } }))) ∧
    (∀ (s w : State) (e : Fin 16) (ev : Event) (h : List Byte), s.event = some { ev with finishing := [.image e] } →
      w = { s with event := some { ev with finishing := [] } } → h = snapshotHead s ev.tNew →
      (∃ p ∈ s.port.snapshots, p.entry = e) → (∀ p ∈ s.port.snapshots, p.entry = e → p.image = none) →
      ((ev.kind = .boundary ∨ s.spectral.decomposing = none) → s.port.exchange = .online →
        microStep .finishOrders s = { w with port := { s.port with snapshots := s.port.snapshots.map (fun p =>
          if p.entry = e then { p with
            head := h, image := some (snapshotImage s.acct h), issuedAt := s.tick, seq := s.acct.lastSeq } else p) } }) ∧
      ((ev.kind = .boundary ∨ s.spectral.decomposing = none) → s.port.exchange = .faulted →
        microStep .finishOrders s = complete e true .busFault 0 ev.tOld { w with
          port := { s.port with snapshots := s.port.snapshots.filter (fun p => p.entry ≠ e) } }) ∧
      (ev.kind ≠ .boundary → s.spectral.decomposing ≠ none →
        microStep .finishOrders s = { w with port := { s.port with snapshots := s.port.snapshots.map (fun p =>
          if p.entry = e then { p with head := h } else p) } })) ∧
    (∀ (s : State) (e : Fin 16) (ds : List Due), s.due = .snapCapture e :: ds →
      (∃ p ∈ s.port.snapshots, p.entry = e ∧ p.image = none) → s.port.exchange = .online →
      exec (.snapshotCapture e) s = .next (advance { s with
        due := ds
        port := { s.port with snapshots := s.port.snapshots.map (fun p =>
          if p.entry = e then { p with
            image := some (snapshotImage s.acct p.head), issuedAt := s.tick, seq := s.acct.lastSeq } else p) } })) ∧
    (∀ (s : State) (e : Fin 16) (ds : List Due) (time : Nat), s.due = .snapCapture e :: ds →
      (∃ p ∈ s.port.snapshots, p.entry = e ∧ p.image = none) → s.port.exchange = .faulted →
      time = (match s.event with
        | some ev => ev.tOld
        | none => match s.asOf with | none => s.tb.timeValue | some t => s.tb.timeAgo (s.tick - t)) →
      exec (.snapshotCapture e) s = .next (advance (complete e true .busFault 0 time { s with
        due := ds, port := { s.port with snapshots := s.port.snapshots.filter (fun p => p.entry ≠ e) } }))) ∧
    (∀ (s : State) (dt : Nat) (e : Fin 16) (p : Snapshot), quiet s →
      s.port.snapshots.find? (fun q => q.entry = e && q.image.isSome && decide (s.tick + dt < q.issuedAt + 20000)) =
        some p →
      exec (.snapshotWritten dt e) s = .next (complete e false .ok p.seq (elapse dt s).tb.timeValue { elapse dt s with
        port := { s.port with snapshots := s.port.snapshots.filter (fun q => q.entry ≠ e) } })) ∧
    (∀ (s : State) (t : Nat) (b : List Byte), shaped s → b = snapshotImage s.acct (snapshotHead s t) →
      b.length = 3584 ∧ ∀ x ∈ ([(0, 4, s.store.factory.epoch.toNat),
        (4, 4, match s.store.active with | some c => c.generation.toNat | none => 0), (8, 8, t),
        (16, 8, s.store.divisor.getD 0), (24, 8, s.ic.seq.toNat), (32, 8, s.acct.lastSeq.toNat),
        (40, 8, s.acct.lastEnd), (48, 8, 0), (56, 8, 0)]
        ++ (List.range 180).flatMap (fun r => [(64 + 16 * r, 8, (s.acct.regs.getD r {}).count.toNat),
          (72 + 16 * r, 8, (s.acct.regs.getD r {}).residue)])
        ++ (List.range 40).flatMap (fun e => [(2944 + 16 * e, 8, (s.acct.demand.getD e {}).max),
          (2952 + 16 * e, 8, (s.acct.demand.getD e {}).seq.toNat)]) : List (Nat × Nat × Nat)),
        (b.drop x.1).take x.2.1 = leBytes x.2.1 x.2.2)

/-- PARAM_READ returns a parameter and PARAM_WRITE stores one, clamped to its range. PARAM_READ of a monitor setting
completes with its stored value as it is handed over, and of a number that names no parameter fails with BAD_PARAM.
PARAM_READ of an active offset completes with the value last requested, or the offset in force; at a boundary that
ends a window it waits, unless a PARAM_WRITE of the event has written the offset, until the close is decided (the
model's order, log 11), and completes with the configured offset where that close activated a configuration and else
with the value it found. PARAM_READ of a read-only parameter completes with the value that stands once the event's
other actions are done (log 11). PARAM_WRITE of an active offset clamps the signed value to 2,047 either way, requests
the change, and completes with the stored value, OK or CLAMPED; of a monitor setting clamps it to its range, stores
it, marks the monitor written, and completes likewise; of a read-only parameter fails with READ_ONLY; of a number that
names none fails with BAD_PARAM. The completion time is that of the event before any SET_TIME (the model's reading,
log 15). Parameters 0 to 12 and 16 to 21 hold the figures of R187, 32 to 63 those of the four links of R188, and 256 +
16m to 268 + 16m the ten settings, the state, the count and the last value of monitor m, each modulo 2^32 (those of
the channels are in ChannelNumbers); every other number outside 64 to 91, 96 to 123, 128 to 155, 160 to 187, 192 to
219 and 224 to 251 names no parameter. The active offsets and the settings are read-write, all else read-only. The
settings' ranges are those of R190, and a setting written reads back and leaves the others. (R172, R173: the two
orders. R186 to R190: the parameters.) -/
def Obligations.ParametersAreReadAndWritten : Prop :=
  (∀ (s : State) (e : Fin 16) (ds : List Due) (f : InFlight) (ev : Event) (n : Nat), s.due = .handOver e :: ds →
    s.inFlight e = some f → s.event = some ev → n = field f.params 0 4 →
    (f.kind = 6 → 256 ≤ n → n < 320 → (n - 256) % 16 < 10 → exec (.paramRead e) s = .next (advance (complete e false .ok
        (BitVec.ofNat 64 ((s.monitor (Fin.ofNat 4 ((n - 256) / 16))).stored.get ((n - 256) % 16) % 2 ^ 32)) ev.tOld
        { s with due := ds }))) ∧
    (f.kind = 6 → 224 ≤ n → n < 252 → ∀ v : Int,
      ((∃ r, (s.channel (n - 224)).request = some r ∧ v = r.value) ∨
        (s.channel (n - 224)).request = none ∧ v = (s.channel (n - 224)).offset) →
      ((ev.kind ≠ .boundary ∨ ∃ r, (s.channel (n - 224)).request = some r ∧ r.late = true) →
        exec (.paramRead e) s = .next (advance (complete e false .ok (BitVec.ofInt 64 v) ev.tOld
          { s with due := ds }))) ∧
      (ev.kind = .boundary → (∀ r, (s.channel (n - 224)).request = some r → r.late = false) →
        exec (.paramRead e) s = .next (advance { s with
          due := ds, event := some { ev with finishing := ev.finishing ++ [.offset e (n - 224) v] } }))) ∧
    (f.kind = 6 → isReadWrite n = false → ∀ v, paramValue s n = some v →
      exec (.paramRead e) s = .next (advance { s with
        due := ds, event := some { ev with finishing := ev.finishing ++ [.read e n] } })) ∧
    (∀ (u w : State), w = { u with event := some { ev with finishing := [] } } →
      (u.event = some { ev with finishing := [.read e n] } → ∀ v, paramValue w n = some v →
        microStep .finishOrders u = complete e false .ok v ev.tOld w) ∧
      (∀ (ch : Nat) (v : Int), u.event = some { ev with finishing := [.offset e ch v] } →
        microStep .finishOrders u = complete e false .ok
          (BitVec.ofInt 64 (if ev.causes.getLsbD 7 then configuredOffset u.store ch else v)) ev.tOld w)) ∧
    (f.kind = 6 → paramValue s n = none →
      exec (.paramRead e) s = .next (advance (complete e true .badParam 0 ev.tOld { s with due := ds }))) ∧
    (f.kind = 7 → 224 ≤ n → n < 252 → ∀ w v : Int, w = signed 32 (field f.params 4 4) →
      v = (if w < -2047 then -2047 else if 2047 < w then 2047 else w) →
      exec (.paramWrite e) s = .next (advance (complete e false (if v = w then .ok else .clamped) (BitVec.ofInt 64 v)
        ev.tOld (requestOffset (n - 224) v false true { s with due := ds })))) ∧
    (f.kind = 7 → ∀ (m : Fin 4) (o lo hi v : Nat), o < 10 → n = 256 + 16 * m.val + o →
      (lo, hi) = settingRange s.tb.nom60 o → v = max lo (min hi (field f.params 4 4)) →
      exec (.paramWrite e) s = .next (advance (complete e false (if v = field f.params 4 4 then .ok else .clamped)
        (BitVec.ofNat 64 v) ev.tOld (State.setMonitor { s with due := ds } m { s.monitor m with
          stored := (s.monitor m).stored.put o v, dirty := true })))) ∧
    (f.kind = 7 → isReadWrite n = false → paramValue s n ≠ none →
      exec (.paramWrite e) s = .next (advance (complete e true .readOnly 0 ev.tOld { s with due := ds }))) ∧
    (f.kind = 7 → isReadWrite n = false → paramValue s n = none →
      exec (.paramWrite e) s = .next (advance (complete e true .badParam 0 ev.tOld { s with due := ds })))) ∧
  (∀ (s : State),
    (∀ x ∈ ([(0, s.store.factory.serial.toNat % 2 ^ 32), (1, s.store.factory.serial.toNat / 2 ^ 32),
        (2, s.store.factory.revision.toNat), (3, s.store.factory.epoch.toNat),
        (4, (if s.store.factory.missing then 1 else 0) + (if s.store.factory.unsaved then 2 else 0)),
        (5, if s.tb.nom60 then 60 else 50), (6, if s.store.divisor.isSome then 1 else 0),
        (7, s.store.divisor.getD 0 % 2 ^ 32), (8, s.store.divisor.getD 0 / 2 ^ 32),
        (9, (if s.store.active.isSome then 1 else 0) + (if s.store.pend.isSome then 1 else 0)),
        (10, match s.store.active with | some c => c.generation.toNat | none => 0),
        (11, match s.store.pend with | some c => c.1.generation.toNat | none => 0),
        (12, match s.store.active with | some c => (if c.memberMask = 0 then 0 else c.aggContracted) | none => 0),
        (16, match s.tb.lock with | .acquire => 0 | .locked => 1 | .holdover => 2 | .free => 3),
        (17, s.tb.steady), (18, s.tb.hold), (19, s.tb.pace),
        (20, match s.tb.lastVerdict with
          | .none => 0 | .valid => 1 | .noLink => 2 | .fewCrossings => 3 | .outOfRange => 4 | .weak => 5),
        (21, s.tb.lastMeasured)] : List (Nat × Nat)),
      paramValue s x.1 = some (BitVec.ofNat 64 (x.2 % 2 ^ 32))) ∧
    (∀ (l : Fin 4), ∀ x ∈ ([(0, match (s.link l).state with | .down => 0 | .seeking => 1 | .running => 2),
        (1, match (s.link l).dropReason with
          | .none => 0 | .silence => 1 | .framingRun => 2 | .parityRun => 3 | .moduleFault => 4 | .indexGap => 5),
        (2, (s.link l).goodFrames.toNat), (3, (s.link l).parityErrors.toNat), (4, (s.link l).framingErrors.toNat),
        (5, (s.link l).staleFrames.toNat), (6, (s.link l).substituted.toNat), (7, (s.link l).drops.toNat)]
          : List (Nat × Nat)),
      paramValue s (32 + 8 * l.val + x.1) = some (BitVec.ofNat 64 (x.2 % 2 ^ 32))) ∧
    (∀ (m : Fin 4) (k : MonSettings), k = (s.monitor m).stored → ∀ x ∈ ([(0, k.enable), (1, k.source), (2, k.kind),
        (3, k.phase), (4, k.lo), (5, k.hi), (6, k.threshold), (7, k.ratio), (8, k.persistence), (9, k.emission),
        (10, match (s.monitor m).state with | .off => 0 | .quiet => 1 | .rising => 2 | .active => 3),
        (11, (s.monitor m).count), (12, (s.monitor m).last)] : List (Nat × Nat)),
      paramValue s (256 + 16 * m.val + x.1) = some (BitVec.ofNat 64 (x.2 % 2 ^ 32)) ∧
        (x.1 < 10 → k.get x.1 = x.2)) ∧
    (∀ n, paramValue s n = none ↔ (13 ≤ n ∧ n ≤ 15) ∨ (22 ≤ n ∧ n ≤ 31) ∨ (92 ≤ n ∧ n ≤ 95) ∨ (124 ≤ n ∧ n ≤ 127) ∨
      (156 ≤ n ∧ n ≤ 159) ∨ (188 ≤ n ∧ n ≤ 191) ∨ (220 ≤ n ∧ n ≤ 223) ∨ (252 ≤ n ∧ n ≤ 255) ∨
      (256 ≤ n ∧ n < 320 ∧ 13 ≤ (n - 256) % 16) ∨ 320 ≤ n)) ∧
  (∀ n, isReadWrite n = true ↔ (224 ≤ n ∧ n < 252) ∨ (256 ≤ n ∧ n < 320 ∧ (n - 256) % 16 < 10)) ∧
  (∀ nom60 : Bool, (List.range 10).map (settingRange nom60) = [(0, 1), (0, 3), (0, 1), (1, 5),
    (1, if nom60 then 1536 else 1280), (1, if nom60 then 1536 else 1280), (1, 33554431), (50, 100), (1, 15), (0, 1)]) ∧
  (∀ (k : MonSettings) (o v : Nat), o < 10 →
    (k.put o v).get o = v ∧ ∀ o' < 10, o' ≠ o → (k.put o v).get o' = k.get o')

/-- CALIBRATE and LINK_RESTART begin or fail, and end at boundaries by a substituted sample or the 50th boundary.
CALIBRATE at a boundary that does not halt, on a channel 0 to 27 that is NORMAL, has no calibration in flight and
whose link is RUNNING, begins a calibration whose first measured window is the one that begins there; a channel number
above 27 fails with BAD_PARAM, one with a calibration in flight with BUSY, a STUCK one, or one whose link is not
RUNNING, with BAD_STATE, and so does every channel number 0 to 27 at a free tick and at the boundary that halts.
LINK_RESTART on a link 0 to 3 that is SEEKING or RUNNING with none in flight puts it in SEEKING with its last good
samples cleared and no drop counted; where it was RUNNING, each calibration of its channels ends FAILED with
BAD_STATE, by number (the order is the DESIGN CHOICE of log 21); a link number above 3 fails with BAD_PARAM, in flight
already with BUSY, DOWN with BAD_STATE. LINK_RESTART_TIMEOUT of a link still SEEKING at the 50th boundary after the
taking boundary: the order completes FAILED with TIMEOUT and result value 0, the link stays SEEKING and nothing else
of it changes; then what follows comes about. At any earlier boundary, and where the link is not SEEKING, a restart in
flight counts one boundary more and nothing else changes. At the boundary that ends one of a calibration's five
measured windows, a substituted sample of its channel in that window ends it: the order completes FAILED with
BAD_STATE and result value 0 and the calibration is gone; a window that is not measured, or without such a sample,
changes nothing there. The completion time is that of the event before any SET_TIME (the model's reading, log 15).
(R13, R22, R175, R176. R14: the count and the timeout of a restart. R23: a calibration at a boundary.) -/
def Obligations.CalibrationsAndRestarts : Prop :=
  (∀ (s : State) (e : Fin 16) (ds : List Due) (f : InFlight) (ev : Event) (n : Nat), s.due = .handOver e :: ds →
      s.inFlight e = some f → s.event = some ev → n = field f.params 0 4 →
      (f.kind = 9 → 27 < n →
        exec (.calibrate e) s = .next (advance (complete e true .badParam 0 ev.tOld { s with due := ds }))) ∧
      (f.kind = 9 → n ≤ 27 → (ev.kind = .tick ∨ ev.halting = true) →
        exec (.calibrate e) s = .next (advance (complete e true .badState 0 ev.tOld { s with due := ds }))) ∧
      (f.kind = 9 → n ≤ 27 → ev.kind ≠ .tick → ev.halting = false →
        ((s.channel n).calibration ≠ none →
          exec (.calibrate e) s = .next (advance (complete e true .busy 0 ev.tOld { s with due := ds }))) ∧
        ((s.channel n).calibration = none →
          ((s.channel n).stuck = true ∨ (s.link (Fin.ofNat 4 (n / 7))).state ≠ .running) →
          exec (.calibrate e) s = .next (advance (complete e true .badState 0 ev.tOld { s with due := ds }))) ∧
        ((s.channel n).calibration = none → (s.channel n).stuck = false →
          (s.link (Fin.ofNat 4 (n / 7))).state = .running →
          exec (.calibrate e) s = .next (advance (State.setChannel { s with due := ds } n { s.channel n with
            calibration := some { entry := e, firstWindow := s.tb.winNo, sum := 0 } })))) ∧
      (f.kind = 10 → 3 < n →
        exec (.linkRestart e) s = .next (advance (complete e true .badParam 0 ev.tOld { s with due := ds }))) ∧
      (f.kind = 10 → ∀ l : Fin 4, n = l.val →
        ((s.link l).restart ≠ none →
          exec (.linkRestart e) s = .next (advance (complete e true .busy 0 ev.tOld { s with due := ds }))) ∧
        ((s.link l).restart = none → (s.link l).state = .down →
          exec (.linkRestart e) s = .next (advance (complete e true .badState 0 ev.tOld { s with due := ds }))) ∧
        ((s.link l).restart = none → (s.link l).state = .seeking →
          exec (.linkRestart e) s = .next (advance (State.setLink { s with due := ds } l { s.link l with
            failRun := 0, syncRun := 0, syncLast := none, lastGood := List.replicate 7 none, runningAtStart := false
            enteredAt := none, restart := some { entry := e, boundaries := 0 } }))) ∧
        ((s.link l).restart = none → (s.link l).state = .running → l.val < s.links.length →
          ∃ t, exec (.linkRestart e) s = .next (advance t) ∧ t.due = ds ∧ (t.link l).state = .seeking ∧
            (t.link l).restart = some { entry := e, boundaries := 0 } ∧ (t.link l).drops = (s.link l).drops ∧
            (t.link l).dropReason = (s.link l).dropReason ∧ (t.link l).lastGood = List.replicate 7 none ∧
            (t.link l).slots.length = max (s.link l).slots.length (s.tb.strobe + 1) ∧ t.port = s.port ∧
            (∀ ch, t.channel ch = (if ch / 7 = l.val then { s.channel ch with calibration := none } else s.channel ch)) ∧
            t.orders = (((List.range 7).flatMap (fun c =>
              (s.channel (7 * l.val + c)).calibration.toList.map (fun c => c.entry))).foldl
                (fun u e => complete e true .badState 0 ev.tOld u) s).orders ∧
            (∀ l' : Fin 4, l' ≠ l → t.link l' = s.link l')))) ∧
  (∀ (s : State) (l : Fin 4) (r : Restart) (ds : List Due), s.due = .restartCheck l :: ds →
      (s.link l).restart = some r → (s.link l).state = .seeking → 49 ≤ r.boundaries →
      exec (.linkRestartTimeout l) s = .next (advance (complete r.entry true .timeout 0 (eventTime s)
        (State.setLink { s with due := ds } l { s.link l with restart := none })))) ∧
  (∀ (s : State) (l : Fin 4),
      (∀ r, (s.link l).restart = some r → ((s.link l).state ≠ .seeking ∨ r.boundaries < 49) →
        microStep (.restartCheck l) s =
          s.setLink l { s.link l with restart := some { entry := r.entry, boundaries := r.boundaries + 1 } }) ∧
      ((s.link l).restart = none → microStep (.restartCheck l) s = s)) ∧
  (∀ (s : State) (ch : Fin 28) (d : DecompWindow) (c : Calibration) (w : PointWindow),
      s.spectral.decomposing = some d → (s.channel ch.val).calibration = some c → w ∈ d.points →
      w.point = ch.val / 7 → (∀ w' ∈ d.points, w'.point = w.point → w' = w) →
      (c.firstWindow ≤ d.number → d.number < c.firstWindow + 5 →
        (∃ sl ∈ w.slots, (sl.ch.getD (ch.val % 7) {}).good = false) →
        microStep (.calibrationCheck ch) s = complete c.entry true .badState 0 (eventTime s)
          (s.setChannel ch { s.channel ch.val with calibration := none })) ∧
      ((d.number < c.firstWindow ∨ c.firstWindow + 5 ≤ d.number ∨
          ∀ sl ∈ w.slots, (sl.ch.getD (ch.val % 7) {}).good = true) → microStep (.calibrationCheck ch) s = s))

/-- Power signs choose the registers a result feeds, and every register update is exact. By the table of R70: P1 at or
above 0 feeds A+ with P1, below 0 A- with -P1; Q1 above 0 feeds QI or QII with Q1 and below 0 QIV or QIII with -Q1, by
the sign of P1; Q1 of 0 feeds no reactive quantity. Quantities are numbered A+ 0, A- 1, QI 2, QII 3, QIII 4, QIV 5. A
result that is not MISSING leaves every register that none of its quantities names as it was. A contribution E takes a
register to count plus floor((residue + E) / D) modulo 2^64 and residue (residue + E) mod D. For every list of
contributions at a D above 0 to a register with its residue below D, the residue stays below D and count x D + residue
is the value before plus their sum, modulo 2^64 x D. With D at least 2^32, a residue below 2^60 and E below 2^95 the
total is below 2^96 and the quotient below 2^64. All this holds of each register alone. The three harmonic quantities,
6 to 8, are the sum of the positive active powers of orders 2 to 50, the sum of the negative ones with the sign
turned, and the sum of the magnitudes of the reactive powers. A MISSING result changes no register; any other feeds
each of its quantities, value times duration, into the register of its point and tariff slot. (R69: the number of a
register. R70: the table of quadrants. R71: the harmonic quantities. R72: the results that contribute, and where. R73:
a contribution. R74: the register update.) -/
def Obligations.RegistersTakeTheirContributions : Prop :=
  ((∀ p q : Int,
        (0 ≤ p → 0 < q → fundamentalFeeds p q = [(0, p.natAbs), (2, q.natAbs)]) ∧
        (p < 0 → 0 < q → fundamentalFeeds p q = [(1, p.natAbs), (3, q.natAbs)]) ∧
        (p < 0 → q < 0 → fundamentalFeeds p q = [(1, p.natAbs), (4, q.natAbs)]) ∧
        (0 ≤ p → q < 0 → fundamentalFeeds p q = [(0, p.natAbs), (5, q.natAbs)]) ∧
        (0 ≤ p → q = 0 → fundamentalFeeds p q = [(0, p.natAbs)]) ∧
        (p < 0 → q = 0 → fundamentalFeeds p q = [(1, p.natAbs)])) ∧
      (∀ r : WinResult, ∃ plus minus reactive : Nat, feeds r = fundamentalFeeds (r.p3.getD 0 0) (r.q3.getD 0 0) ++
          [(6, plus), (7, minus), (8, reactive)] ∧
        (plus : Int) = (((r.p3.drop 1).filter (fun p => 0 < p))).sum ∧
        (minus : Int) = -(((r.p3.drop 1).filter (fun p => p < 0))).sum ∧
        reactive = ((r.q3.drop 1).map Int.natAbs).sum) ∧
      (∀ (d : Nat) (regs : List Reg) (r : WinResult), (r.cls = .missing → takeEnergy d regs r = regs) ∧
        (r.cls ≠ .missing → takeEnergy d regs r =
          (feeds r).foldl (feedRegister d r.point r.record.slot r.record.duration) regs)) ∧
      (∀ (d i : Nat) (regs : List Reg) (r : WinResult),
        (∀ f ∈ feeds r, i ≠ (r.point * 4 + r.record.slot) * 9 + f.1) →
        (takeEnergy d regs r).getD i {} = regs.getD i {})) ∧
  ((∀ (d e : Nat) (r : Reg), (Reg.add d e r).count.toNat = (r.count.toNat + (r.residue + e) / d) % 2 ^ 64 ∧
        (Reg.add d e r).residue = (r.residue + e) % d) ∧
      (∀ (d : Nat) (es : List Nat) (r : Reg), 0 < d → r.residue < d →
        (es.foldl (fun r e => Reg.add d e r) r).residue < d ∧
          ((es.foldl (fun r e => Reg.add d e r) r).count.toNat * d + (es.foldl (fun r e => Reg.add d e r) r).residue) %
              (2 ^ 64 * d) = (r.count.toNat * d + r.residue + es.sum) % (2 ^ 64 * d)) ∧
      (∀ d e x : Nat, 2 ^ 32 ≤ d → x < 2 ^ 60 → e < 2 ^ 95 → x + e < 2 ^ 96 ∧ (x + e) / d < 2 ^ 64) ∧
      (∀ (d point slot duration i : Nat) (regs : List Reg) (f : Nat × Nat), i < regs.length →
        (feedRegister d point slot duration regs f).getD i {} =
          (if i = (point * 4 + slot) * 9 + f.1 then Reg.add d (f.2 * duration) (regs.getD i {}) else regs.getD i {})))

/-- An interval demand enters the table where it is greater and the interval long enough. For every close in a slot
below 4, over a table of 40 entries: each part's demand is the delta times 3,600,000 divided by the duration in ms,
rounded down and saturated at 2^64 - 1, or 0 for 0 ms; it is excluded where the duration is 0 or twice it is below the
length; without DEMAND_RESET no maximum falls, each entry of a point of the file is at least its demand where it is
not excluded, and every entry that changed holds a demand of this close with its sequence number; with DEMAND_RESET
every entry is 0 afterwards, and each point of the file has one demand-close part, which holds the point's 8 entries
of the table as the same close without DEMAND_RESET leaves it, that is after this interval's demands were entered, in
order of slot and QI before A+. (R80 to R83: demand at a close.) -/
def Obligations.IntervalDemandsRaiseTheTable : Prop :=
  ∀ (a : Accounting) (c : Close) (ms : Nat) (t : List DemandEntry), a.demand.length = 40 → c.slot < 4 →
    ms = a.measured / 2560000 → t = (acctFinish a c).2.demand →
    (∀ r, delta a r = (a.regs.getD r {}).count - a.opening.getD r 0) ∧
    (∀ p ∈ (acctFinish a c).1.1,
      p.demandQI = (if ms = 0 then 0 else min ((delta a ((p.point * 4 + c.slot) * 9 + 2)).toNat * 3600000 / ms) (2 ^ 64 - 1)) ∧
      p.demandA = (if ms = 0 then 0 else min ((delta a ((p.point * 4 + c.slot) * 9)).toNat * 3600000 / ms) (2 ^ 64 - 1)) ∧
      (p.excluded = true ↔ ms = 0 ∨ ms * 2 < c.lengthMs)) ∧
    t.length = 40 ∧
    (c.causes.getLsbD 6 = false → (acctFinish a c).1.2 = [] ∧
      (∀ i < 40, (a.demand.getD i {}).max ≤ (t.getD i {}).max) ∧
      (∀ p ∈ (acctFinish a c).1.1, p.excluded = false →
        p.demandQI ≤ (t.getD ((p.point * 4 + c.slot) * 2) {}).max ∧
          p.demandA ≤ (t.getD ((p.point * 4 + c.slot) * 2 + 1) {}).max) ∧
      (∀ i < 40, t.getD i {} = a.demand.getD i {} ∨ ∃ p ∈ (acctFinish a c).1.1, p.excluded = false ∧
        (a.demand.getD i {}).max < (t.getD i {}).max ∧ (t.getD i {}).seq = c.seq ∧
          (i = (p.point * 4 + c.slot) * 2 ∧ (t.getD i {}).max = p.demandQI ∨
            i = (p.point * 4 + c.slot) * 2 + 1 ∧ (t.getD i {}).max = p.demandA))) ∧
    (c.causes.getLsbD 6 = true → t = List.replicate 40 { max := 0, seq := 0 } ∧
      ∀ u, u = (acctFinish a { c with causes := c.causes &&& ~~~(1#10 <<< 6) }).2.demand →
        (acctFinish a c).1.2 = c.points.map (fun p => {
          point := p, entries := (List.range 8).map (fun i => u.getD (p * 8 + i) {}) }))

/-- A merged file joins the records of each point: ends, sums, extremes and sets, and the larger demand that is not
excluded. Merging an older and a newer record: first sequence, start time and first generation are the older's, last
sequence, end time, last generation, tariff at close, cumulative counts and report floor the newer's; causes, tariff
mask, flags, partial mark and STUCK mask are unions; every count, sum and delta is added, deltas modulo 2^64; each
order maximum is the larger; the frequency extremes are those of the records that have a window; the event list is the
older's and then the newer's, the first 8 of them, the others counted as dropped; the merge count is the sum plus one.
Demand: where both are excluded or neither is, each is the larger of the two and the merged record is excluded exactly
where both are; where exactly one is excluded each demand is the other's and the merged record is not excluded. A
merged file holds its records in increasing point order, merged where both files have the point and unchanged where
one alone has it, then the demand-close records of both; its merge count is the sum plus one. (R146: merging of files.
R147 to R150: the merging of two records.) -/
def Obligations.MergedRecordsJoinTheirFigures : Prop :=
  (∀ a b m : IntervalRecord, m = mergeRecord a b →
    (m.point = a.point ∧ m.firstSeq = a.firstSeq ∧ m.startTime = a.startTime ∧ m.genFirst = a.genFirst ∧
      m.lastSeq = b.lastSeq ∧ m.endTime = b.endTime ∧ m.genLast = b.genLast ∧ m.tariffAtClose = b.tariffAtClose ∧
      m.cumulative = b.cumulative ∧ m.stats.floor = b.stats.floor ∧ m.merges = a.merges + b.merges + 1 ∧
      (∀ i, m.causes.getLsbD i = (a.causes.getLsbD i || b.causes.getLsbD i)) ∧
      (∀ i, m.tariffMask.getLsbD i = (a.tariffMask.getLsbD i || b.tariffMask.getLsbD i)) ∧
      m.partialMark = (a.partialMark || b.partialMark) ∧ m.unexpected = (a.unexpected || b.unexpected) ∧
      m.malformed = (a.malformed || b.malformed) ∧ m.timeout = (a.timeout || b.timeout)) ∧
    (m.stats.total = a.stats.total + b.stats.total ∧ m.stats.clean = a.stats.clean + b.stats.clean ∧
      m.stats.flagged = a.stats.flagged + b.stats.flagged ∧ m.stats.missing = a.stats.missing + b.stats.missing ∧
      m.stats.partials = a.stats.partials + b.stats.partials ∧ m.stats.unlocked = a.stats.unlocked + b.stats.unlocked ∧
      m.stats.discarded = a.stats.discarded + b.stats.discarded ∧
      m.stats.included = a.stats.included + b.stats.included ∧ m.stats.subst = a.stats.subst + b.stats.subst ∧
      m.stats.offsetUpdates = a.stats.offsetUpdates + b.stats.offsetUpdates ∧
      m.stats.fundSum = a.stats.fundSum + b.stats.fundSum ∧ m.stats.thdISum = a.stats.thdISum + b.stats.thdISum ∧
      m.stats.thdICount = a.stats.thdICount + b.stats.thdICount ∧ m.stats.thdVSum = a.stats.thdVSum + b.stats.thdVSum ∧
      m.stats.thdVCount = a.stats.thdVCount + b.stats.thdVCount ∧ m.stats.tddSum = a.stats.tddSum + b.stats.tddSum) ∧
    (a.stats.stuck.length = 7 → b.stats.stuck.length = 7 → ∀ i,
      m.stats.stuck.getD i false = (a.stats.stuck.getD i false || b.stats.stuck.getD i false)) ∧
    (a.stats.total = 0 → m.stats.minFreq = b.stats.minFreq ∧ m.stats.maxFreq = b.stats.maxFreq) ∧
    (a.stats.total ≠ 0 → b.stats.total = 0 →
      m.stats.minFreq = a.stats.minFreq ∧ m.stats.maxFreq = a.stats.maxFreq) ∧
    (a.stats.total ≠ 0 → b.stats.total ≠ 0 → m.stats.minFreq = min a.stats.minFreq b.stats.minFreq ∧
      m.stats.maxFreq = max a.stats.maxFreq b.stats.maxFreq) ∧
    (a.deltas.length = 36 → b.deltas.length = 36 → m.deltas.length = 36 ∧
      ∀ i, m.deltas.getD i 0 = a.deltas.getD i 0 + b.deltas.getD i 0) ∧
    (a.stats.orders.length = 49 → b.stats.orders.length = 49 → m.stats.orders.length = 49 ∧
      ∀ j < 49, m.stats.orders.getD j {} = {
        sum := (a.stats.orders.getD j {}).sum + (b.stats.orders.getD j {}).sum
        max := max (a.stats.orders.getD j {}).max (b.stats.orders.getD j {}).max
        exceed := (a.stats.orders.getD j {}).exceed + (b.stats.orders.getD j {}).exceed
        emission := (a.stats.orders.getD j {}).emission + (b.stats.orders.getD j {}).emission }) ∧
    (m.stats.events = (a.stats.events ++ b.stats.events).take 8 ∧ m.stats.dropped =
      a.stats.dropped + b.stats.dropped + ((a.stats.events ++ b.stats.events).drop 8).length) ∧
    (a.excluded = b.excluded → m.demandQI = max a.demandQI b.demandQI ∧ m.demandA = max a.demandA b.demandA ∧
      m.excluded = a.excluded) ∧
    (a.excluded = true → b.excluded = false → m.demandQI = b.demandQI ∧ m.demandA = b.demandA ∧ m.excluded = false) ∧
    (a.excluded = false → b.excluded = true → m.demandQI = a.demandQI ∧ m.demandA = a.demandA ∧ m.excluded = false)) ∧
  (∀ older newer m : IntervalFile, m = mergeFiles older newer →
    m.merges = older.merges + newer.merges + 1 ∧ m.demand = older.demand ++ newer.demand ∧
    (m.records.map (fun r => r.point)).Pairwise (· < ·) ∧
    (∀ p < 5, m.records.find? (fun r => r.point = p) =
      match older.records.find? (fun r => r.point = p), newer.records.find? (fun r => r.point = p) with
      | some a, some b => some (mergeRecord a b)
      | some a, none => some a
      | none, b => b) ∧
    (∀ r ∈ m.records, r.point < 5))

/-- Group and total RMS, powers, band values, order values, ratios and the aggregate result are the exact figures of
their rules. The root used is the exact square root rounded down. A band sum adds |X_k|^2 from lo to hi; S2_h is twice
the interior bins of the group plus its two edge bins. The spectra of a point are the phasors of its seven positions'
samples, oldest first. For every spectrum, the window total RMS and each group RMS are roots of their sums so rounded.
A phase THD is 65,535 below a fundamental of 16 fc, and otherwise the exact ratio of the root of the summed squares of
orders 2 to 50 to the fundamental, in units of 0.1 %, rounded down and limited to 65,534; the TDD is the same ratio to
the contracted current. The result of a metering point carries the window's record, generation, class, substituted
count, STUCK set and mark, and: W times the sum over three phases of Re(V)Re(I) + Im(V)Im(I), and of Im(V)Re(I) -
Re(V)Im(I), at bin hC; the group RMS values; the order values, each the largest of I1 to I3; the window THDs, each the
largest phase THD below 65,535, or 65,535; and, for each monitor in force whose source the point is, the band value by
its kind and phase selection and, in emission-only mode, the sum of the bins' three-phase active power. The aggregate
has a result where a member has one: point 4, the same record, the class and partial mark of the table of R58, and
order by order the sums of the members that are not MISSING; its other fields are empty. (R52 to R64: the figures of a
window result.) -/
def Obligations.RmsAndRatiosAreExactFloors : Prop :=
  (∀ n : Nat, isqrt n = Nat.sqrt n) ∧
    (∀ (nom60 : Bool) (spec : List (Int × Int)),
      (totalRms nom60 spec) ^ 2 ≤ bandSum spec 1 (windowLen nom60 / 2) ∧
        bandSum spec 1 (windowLen nom60 / 2) < (totalRms nom60 spec + 1) ^ 2 ∧
      ∀ h : Nat, 2 * (groupRms nom60 spec h) ^ 2 ≤ groupSum nom60 spec h ∧
        groupSum nom60 spec h < 2 * (groupRms nom60 spec h + 1) ^ 2) ∧
    (∀ (g1 : Nat) (rest : List Nat) (sq : Nat), sq = (rest.map (fun x => x * x)).sum →
      (g1 < 16 → phaseThd (g1 :: rest) = 65535) ∧
      (16 ≤ g1 → phaseThd (g1 :: rest) ≤ 65534 ∧ (phaseThd (g1 :: rest) * g1) ^ 2 ≤ 1000000 * sq ∧
        (phaseThd (g1 :: rest) < 65534 → 1000000 * sq < ((phaseThd (g1 :: rest) + 1) * g1) ^ 2)) ∧
      (∀ ic : Nat, 0 < ic → tddOf (g1 :: rest) ic ≤ 65534 ∧ (tddOf (g1 :: rest) ic * ic) ^ 2 ≤ 1000000 * sq ∧
        (tddOf (g1 :: rest) ic < 65534 → 1000000 * sq < ((tddOf (g1 :: rest) ic + 1) * ic) ^ 2))) ∧
    (∀ (spec : List (Int × Int)) (sq : Nat → Int),
      (∀ k, sq k = (spec.getD k (0, 0)).1 ^ 2 + (spec.getD k (0, 0)).2 ^ 2) →
      (∀ lo hi : Nat, (bandSum spec lo hi : Int) = ((List.range (hi + 1 - lo)).map (fun j => sq (lo + j))).sum) ∧
      (∀ (nom60 : Bool) (c h : Nat), c = (if nom60 then 12 else 10) → 1 ≤ h →
        (groupSum nom60 spec h : Int) =
          2 * ((List.range (c - 1)).map (fun j => sq (h * c - c / 2 + 1 + j))).sum
            + sq (h * c - c / 2) + sq (h * c + c / 2))) ∧
    (∀ (nom60 : Bool) (w : PointWindow), pointSpectra nom60 w =
      (List.range 7).map (fun pos => phasors nom60 (w.slots.reverse.map (fun sl => (sl.ch.getD pos {}).val)))) ∧
    (∀ (nom60 : Bool) (d : DecompWindow) (w : PointWindow) (specs : List (List (Int × Int))) (r : WinResult) (c : Nat)
        (V I : Nat → Nat → Int × Int) (P Q : Nat → Int) (G B : Nat → Nat → Nat → Nat),
      r = pointResult nom60 d w specs → c = (if nom60 then 12 else 10) →
      (∀ p k, V p k = (specs.getD p []).getD k (0, 0)) → (∀ p k, I p k = (specs.getD (p + 3) []).getD k (0, 0)) →
      (∀ k, P k = ((List.range 3).map (fun p => (V p k).1 * (I p k).1 + (V p k).2 * (I p k).2)).sum) →
      (∀ k, Q k = ((List.range 3).map (fun p => (V p k).2 * (I p k).1 - (V p k).1 * (I p k).2)).sum) →
      (∀ first p h, G first p h = groupRms nom60 (specs.getD (first + p) []) h) →
      (∀ pos lo hi, B pos lo hi = Nat.sqrt (bandSum (specs.getD pos []) lo hi)) →
      r.point = w.point ∧ r.record = d.record ∧ r.generation = d.cap.cfg.generation ∧ r.cls = w.cls ∧
      r.partialFlag = false ∧ r.subst = w.subst ∧ r.stuck = w.stuck ∧ r.mark = w.mark ∧
      r.p3 = (List.range 50).map (fun j => P ((j + 1) * c) * (d.cap.cfg.point w.point).weight) ∧
      r.q3 = (List.range 50).map (fun j => Q ((j + 1) * c) * (d.cap.cfg.point w.point).weight) ∧
      r.groupV = (List.range 3).map (fun p => (List.range 50).map (fun j => G 0 p (j + 1))) ∧
      r.groupI = (List.range 3).map (fun p => (List.range 50).map (fun j => G 3 p (j + 1))) ∧
      r.orderVals = (List.range 50).map (fun j => max (G 3 0 (j + 1)) (max (G 3 1 (j + 1)) (G 3 2 (j + 1)))) ∧
      (∀ x ∈ [(r.thdV, 0), (r.thdI, 3)], ∀ T : Nat → Nat,
        (∀ p, T p = phaseThd ((List.range 50).map (fun j => G x.2 p (j + 1)))) →
        ((∀ p < 3, T p = 65535) → x.1 = 65535) ∧
        ((∃ p < 3, T p < 65535) → (∃ p < 3, T p < 65535 ∧ x.1 = T p) ∧ ∀ p < 3, T p < 65535 → T p ≤ x.1)) ∧
      r.tdd = tddOf r.orderVals (d.cap.cfg.point w.point).contracted ∧
      r.bands = ([0, 1, 2, 3] : List (Fin 4)).filterMap (fun m =>
        match d.cap.mons.getD m.val {} with
        | st =>
          if st.enable = 1 ∧ st.lo ≤ st.hi ∧ st.source = w.point then some {
            mon := m
            value :=
              if st.phase = 4 then (if st.kind = 1 then 0 else B 6 st.lo st.hi)
              else match (if st.kind = 1 then 0 else 3) with
                | first =>
                  if st.phase = 5 then
                    max (B first st.lo st.hi) (max (B (first + 1) st.lo st.hi) (B (first + 2) st.lo st.hi))
                  else B (first + st.phase - 1) st.lo st.hi
            power := if st.emission = 1 then
              some ((List.range (st.hi + 1 - st.lo)).map (fun j => P (st.lo + j))).sum else none }
          else none)) ∧
    (∀ (d : DecompWindow) (results members : List WinResult),
      members = results.filter (fun r => d.cap.cfg.memberMask.testBit r.point) →
      (members = [] → aggregateResult d results = none) ∧
      (members ≠ [] → ∃ a : WinResult, aggregateResult d results = some a ∧
        a = { point := 4, record := d.record, generation := d.cap.cfg.generation, cls := a.cls
              partialFlag := a.partialFlag, p3 := a.p3, q3 := a.q3 } ∧
        ((∀ m ∈ members, m.cls = .clean) → a.cls = .clean ∧ a.partialFlag = false) ∧
        ((∀ m ∈ members, m.cls = .missing) → a.cls = .missing ∧ a.partialFlag = false) ∧
        ((∃ m ∈ members, m.cls = .missing) → (∃ m ∈ members, m.cls ≠ .missing) →
          a.cls = .flagged ∧ a.partialFlag = true) ∧
        ((∀ m ∈ members, m.cls ≠ .missing) → (∃ m ∈ members, m.cls = .flagged) →
          a.cls = .flagged ∧ a.partialFlag = false) ∧
        a.p3 = (List.range 50).map (fun j =>
          ((members.filter (fun m => m.cls ≠ .missing)).map (fun m => m.p3.getD j 0)).sum) ∧
        a.q3 = (List.range 50).map (fun j =>
          ((members.filter (fun m => m.cls ≠ .missing)).map (fun m => m.q3.getD j 0)).sum)))

/-- Every step keeps the counts of the parts, the base aligned, and every index in flight at most once. For every
state with 4 links, 28 channels, 180 registers and opening counts, 40 demand entries and 4 monitors; for every state
whose exchange area base is a multiple of 4,096; and for every state in which no entry index is in flight twice: if a
step answers a next state, that state has the same. (R1, R69, R82, R121, R159, R196: what every step keeps.) -/
def Obligations.EveryStepKeepsShapeAndBase : Prop :=
  (∀ s t : State, shaped s → step s = .next t → shaped t) ∧
    (∀ s t : State, baseAligned s → step s = .next t → baseAligned t) ∧
    (∀ s t : State, entriesOnce s → step s = .next t → entriesOnce t)

/-- Every step keeps the pace in the valid pace range of the nominal system. For every state whose pace and whose
verdicts yet to be taken lie in the valid pace range, with a steady count of at most 2 and a hold count of at most
149: if a step answers a next state, the same holds of it. (R39: the pace always lies within the valid pace range of
the nominal system.) -/
def Obligations.EveryStepKeepsThePaceValid : Prop :=
  ∀ s t : State, paceSound s → step s = .next t → paceSound t

/-- While the exchange is FAULTED no operation in the exchange area is in progress, after every step. For every state
that has no scan, header block write, block read, image write, transit or completion write in progress while the
exchange is FAULTED: if a step answers a next state, the same holds of it. (R202: the entry to FAULTED ends every
operation, and none begins until the exchange is ONLINE.) -/
def Obligations.FaultedExchangeStaysIdle : Prop :=
  ∀ s t : State, faultedIdle s → step s = .next t → faultedIdle t
end

