-- ==== Sys2Proof/Laws/State.lean ====
section
/-! SUPPORT. One lemma per field of the state for each small update of it, so that no proof unfolds a record update. -/

namespace Sys2Proof.Machine


/-! ## request -/

@[simp] theorem request_pending (c : IntCause) (s : State) : (request c s).pending = s.pending := rfl
@[simp] theorem request_due (c : IntCause) (s : State) : (request c s).due = s.due := rfl
@[simp] theorem request_event (c : IntCause) (s : State) : (request c s).event = s.event := rfl
@[simp] theorem request_tick (c : IntCause) (s : State) : (request c s).tick = s.tick := rfl
@[simp] theorem request_asOf (c : IntCause) (s : State) : (request c s).asOf = s.asOf := rfl
@[simp] theorem request_phase (c : IntCause) (s : State) : (request c s).phase = s.phase := rfl
@[simp] theorem request_links (c : IntCause) (s : State) : (request c s).links = s.links := rfl
@[simp] theorem request_channels (c : IntCause) (s : State) : (request c s).channels = s.channels := rfl
@[simp] theorem request_tb (c : IntCause) (s : State) : (request c s).tb = s.tb := rfl
@[simp] theorem request_spectral (c : IntCause) (s : State) : (request c s).spectral = s.spectral := rfl
@[simp] theorem request_acct (c : IntCause) (s : State) : (request c s).acct = s.acct := rfl
@[simp] theorem request_ic (c : IntCause) (s : State) : (request c s).ic = s.ic := rfl
@[simp] theorem request_stats (c : IntCause) (s : State) : (request c s).stats = s.stats := rfl
@[simp] theorem request_filing (c : IntCause) (s : State) : (request c s).filing = s.filing := rfl
@[simp] theorem request_orders (c : IntCause) (s : State) : (request c s).orders = s.orders := rfl
@[simp] theorem request_store (c : IntCause) (s : State) : (request c s).store = s.store := rfl
@[simp] theorem request_port_exbase (c : IntCause) (s : State) : (request c s).port.exbase = s.port.exbase := rfl
@[simp] theorem request_port_run (c : IntCause) (s : State) : (request c s).port.run = s.port.run := rfl
@[simp] theorem request_port_meas (c : IntCause) (s : State) : (request c s).port.meas = s.port.meas := rfl
@[simp] theorem request_port_exchange (c : IntCause) (s : State) : (request c s).port.exchange = s.port.exchange := rfl
@[simp] theorem request_port_intmask (c : IntCause) (s : State) : (request c s).port.intmask = s.port.intmask := rfl
@[simp] theorem request_port_startRefused (c : IntCause) (s : State) : (request c s).port.startRefused = s.port.startRefused := rfl
@[simp] theorem request_port_fault (c : IntCause) (s : State) : (request c s).port.fault = s.port.fault := rfl
@[simp] theorem request_port_updateCount (c : IntCause) (s : State) : (request c s).port.updateCount = s.port.updateCount := rfl
@[simp] theorem request_port_resetCause (c : IntCause) (s : State) : (request c s).port.resetCause = s.port.resetCause := rfl
@[simp] theorem request_port_scan (c : IntCause) (s : State) : (request c s).port.scan = s.port.scan := rfl
@[simp] theorem request_port_header (c : IntCause) (s : State) : (request c s).port.header = s.port.header := rfl
@[simp] theorem request_port_configRead (c : IntCause) (s : State) : (request c s).port.configRead = s.port.configRead := rfl
@[simp] theorem request_port_snapshots (c : IntCause) (s : State) : (request c s).port.snapshots = s.port.snapshots := rfl

/-! ## requestIf -/

@[simp] theorem requestIf_pending (b : Bool) (c : IntCause) (s : State) : (requestIf b c s).pending = s.pending := by cases b <;> rfl
@[simp] theorem requestIf_due (b : Bool) (c : IntCause) (s : State) : (requestIf b c s).due = s.due := by cases b <;> rfl
@[simp] theorem requestIf_event (b : Bool) (c : IntCause) (s : State) : (requestIf b c s).event = s.event := by cases b <;> rfl
@[simp] theorem requestIf_tick (b : Bool) (c : IntCause) (s : State) : (requestIf b c s).tick = s.tick := by cases b <;> rfl
@[simp] theorem requestIf_asOf (b : Bool) (c : IntCause) (s : State) : (requestIf b c s).asOf = s.asOf := by cases b <;> rfl
@[simp] theorem requestIf_phase (b : Bool) (c : IntCause) (s : State) : (requestIf b c s).phase = s.phase := by cases b <;> rfl
@[simp] theorem requestIf_links (b : Bool) (c : IntCause) (s : State) : (requestIf b c s).links = s.links := by cases b <;> rfl
@[simp] theorem requestIf_channels (b : Bool) (c : IntCause) (s : State) : (requestIf b c s).channels = s.channels := by cases b <;> rfl
@[simp] theorem requestIf_tb (b : Bool) (c : IntCause) (s : State) : (requestIf b c s).tb = s.tb := by cases b <;> rfl
@[simp] theorem requestIf_spectral (b : Bool) (c : IntCause) (s : State) : (requestIf b c s).spectral = s.spectral := by cases b <;> rfl
@[simp] theorem requestIf_acct (b : Bool) (c : IntCause) (s : State) : (requestIf b c s).acct = s.acct := by cases b <;> rfl
@[simp] theorem requestIf_ic (b : Bool) (c : IntCause) (s : State) : (requestIf b c s).ic = s.ic := by cases b <;> rfl
@[simp] theorem requestIf_stats (b : Bool) (c : IntCause) (s : State) : (requestIf b c s).stats = s.stats := by cases b <;> rfl
@[simp] theorem requestIf_filing (b : Bool) (c : IntCause) (s : State) : (requestIf b c s).filing = s.filing := by cases b <;> rfl
@[simp] theorem requestIf_orders (b : Bool) (c : IntCause) (s : State) : (requestIf b c s).orders = s.orders := by cases b <;> rfl
@[simp] theorem requestIf_store (b : Bool) (c : IntCause) (s : State) : (requestIf b c s).store = s.store := by cases b <;> rfl

/-! ## elapse -/

@[simp] theorem elapse_pending (n : Nat) (s : State) : (elapse n s).pending = s.pending := by unfold elapse; split <;> rfl
@[simp] theorem elapse_due (n : Nat) (s : State) : (elapse n s).due = s.due := by unfold elapse; split <;> rfl
@[simp] theorem elapse_event (n : Nat) (s : State) : (elapse n s).event = s.event := by unfold elapse; split <;> rfl
@[simp] theorem elapse_phase (n : Nat) (s : State) : (elapse n s).phase = s.phase := by unfold elapse; split <;> rfl
@[simp] theorem elapse_links (n : Nat) (s : State) : (elapse n s).links = s.links := by unfold elapse; split <;> rfl
@[simp] theorem elapse_channels (n : Nat) (s : State) : (elapse n s).channels = s.channels := by unfold elapse; split <;> rfl
@[simp] theorem elapse_spectral (n : Nat) (s : State) : (elapse n s).spectral = s.spectral := by unfold elapse; split <;> rfl
@[simp] theorem elapse_acct (n : Nat) (s : State) : (elapse n s).acct = s.acct := by unfold elapse; split <;> rfl
@[simp] theorem elapse_ic (n : Nat) (s : State) : (elapse n s).ic = s.ic := by unfold elapse; split <;> rfl
@[simp] theorem elapse_stats (n : Nat) (s : State) : (elapse n s).stats = s.stats := by unfold elapse; split <;> rfl
@[simp] theorem elapse_filing (n : Nat) (s : State) : (elapse n s).filing = s.filing := by unfold elapse; split <;> rfl
@[simp] theorem elapse_orders (n : Nat) (s : State) : (elapse n s).orders = s.orders := by unfold elapse; split <;> rfl
@[simp] theorem elapse_store (n : Nat) (s : State) : (elapse n s).store = s.store := by unfold elapse; split <;> rfl
@[simp] theorem elapse_port (n : Nat) (s : State) : (elapse n s).port = s.port := by unfold elapse; split <;> rfl
@[simp] theorem elapse_tick (n : Nat) (s : State) : (elapse n s).tick = s.tick + n := by unfold elapse; split <;> rfl
@[simp] theorem elapse_asOf (n : Nat) (s : State) : (elapse n s).asOf = s.asOf := by unfold elapse; split <;> rfl

/-! ## waitUntil -/

@[simp] theorem waitUntil_pending (t : Nat) (s : State) : (waitUntil t s).pending = s.pending := by simp [waitUntil]
@[simp] theorem waitUntil_due (t : Nat) (s : State) : (waitUntil t s).due = s.due := by simp [waitUntil]
@[simp] theorem waitUntil_event (t : Nat) (s : State) : (waitUntil t s).event = s.event := by simp [waitUntil]
@[simp] theorem waitUntil_phase (t : Nat) (s : State) : (waitUntil t s).phase = s.phase := by simp [waitUntil]
@[simp] theorem waitUntil_links (t : Nat) (s : State) : (waitUntil t s).links = s.links := by simp [waitUntil]
@[simp] theorem waitUntil_channels (t : Nat) (s : State) : (waitUntil t s).channels = s.channels := by simp [waitUntil]
@[simp] theorem waitUntil_spectral (t : Nat) (s : State) : (waitUntil t s).spectral = s.spectral := by simp [waitUntil]
@[simp] theorem waitUntil_acct (t : Nat) (s : State) : (waitUntil t s).acct = s.acct := by simp [waitUntil]
@[simp] theorem waitUntil_ic (t : Nat) (s : State) : (waitUntil t s).ic = s.ic := by simp [waitUntil]
@[simp] theorem waitUntil_stats (t : Nat) (s : State) : (waitUntil t s).stats = s.stats := by simp [waitUntil]
@[simp] theorem waitUntil_filing (t : Nat) (s : State) : (waitUntil t s).filing = s.filing := by simp [waitUntil]
@[simp] theorem waitUntil_orders (t : Nat) (s : State) : (waitUntil t s).orders = s.orders := by simp [waitUntil]
@[simp] theorem waitUntil_store (t : Nat) (s : State) : (waitUntil t s).store = s.store := by simp [waitUntil]
@[simp] theorem waitUntil_port (t : Nat) (s : State) : (waitUntil t s).port = s.port := by simp [waitUntil]

/-! ## pushDue -/

@[simp] theorem pushDue_pending (ds : List Due) (s : State) : (pushDue ds s).pending = s.pending := rfl
@[simp] theorem pushDue_event (ds : List Due) (s : State) : (pushDue ds s).event = s.event := rfl
@[simp] theorem pushDue_tick (ds : List Due) (s : State) : (pushDue ds s).tick = s.tick := rfl
@[simp] theorem pushDue_asOf (ds : List Due) (s : State) : (pushDue ds s).asOf = s.asOf := rfl
@[simp] theorem pushDue_phase (ds : List Due) (s : State) : (pushDue ds s).phase = s.phase := rfl
@[simp] theorem pushDue_links (ds : List Due) (s : State) : (pushDue ds s).links = s.links := rfl
@[simp] theorem pushDue_channels (ds : List Due) (s : State) : (pushDue ds s).channels = s.channels := rfl
@[simp] theorem pushDue_tb (ds : List Due) (s : State) : (pushDue ds s).tb = s.tb := rfl
@[simp] theorem pushDue_spectral (ds : List Due) (s : State) : (pushDue ds s).spectral = s.spectral := rfl
@[simp] theorem pushDue_acct (ds : List Due) (s : State) : (pushDue ds s).acct = s.acct := rfl
@[simp] theorem pushDue_ic (ds : List Due) (s : State) : (pushDue ds s).ic = s.ic := rfl
@[simp] theorem pushDue_stats (ds : List Due) (s : State) : (pushDue ds s).stats = s.stats := rfl
@[simp] theorem pushDue_filing (ds : List Due) (s : State) : (pushDue ds s).filing = s.filing := rfl
@[simp] theorem pushDue_orders (ds : List Due) (s : State) : (pushDue ds s).orders = s.orders := rfl
@[simp] theorem pushDue_store (ds : List Due) (s : State) : (pushDue ds s).store = s.store := rfl
@[simp] theorem pushDue_port (ds : List Due) (s : State) : (pushDue ds s).port = s.port := rfl
@[simp] theorem pushDue_due (ds : List Due) (s : State) : (pushDue ds s).due = ds ++ s.due := rfl

/-! ## modEvent -/

@[simp] theorem modEvent_pending (f : Event → Event) (s : State) : (modEvent f s).pending = s.pending := rfl
@[simp] theorem modEvent_due (f : Event → Event) (s : State) : (modEvent f s).due = s.due := rfl
@[simp] theorem modEvent_tick (f : Event → Event) (s : State) : (modEvent f s).tick = s.tick := rfl
@[simp] theorem modEvent_asOf (f : Event → Event) (s : State) : (modEvent f s).asOf = s.asOf := rfl
@[simp] theorem modEvent_phase (f : Event → Event) (s : State) : (modEvent f s).phase = s.phase := rfl
@[simp] theorem modEvent_links (f : Event → Event) (s : State) : (modEvent f s).links = s.links := rfl
@[simp] theorem modEvent_channels (f : Event → Event) (s : State) : (modEvent f s).channels = s.channels := rfl
@[simp] theorem modEvent_tb (f : Event → Event) (s : State) : (modEvent f s).tb = s.tb := rfl
@[simp] theorem modEvent_spectral (f : Event → Event) (s : State) : (modEvent f s).spectral = s.spectral := rfl
@[simp] theorem modEvent_acct (f : Event → Event) (s : State) : (modEvent f s).acct = s.acct := rfl
@[simp] theorem modEvent_ic (f : Event → Event) (s : State) : (modEvent f s).ic = s.ic := rfl
@[simp] theorem modEvent_stats (f : Event → Event) (s : State) : (modEvent f s).stats = s.stats := rfl
@[simp] theorem modEvent_filing (f : Event → Event) (s : State) : (modEvent f s).filing = s.filing := rfl
@[simp] theorem modEvent_orders (f : Event → Event) (s : State) : (modEvent f s).orders = s.orders := rfl
@[simp] theorem modEvent_store (f : Event → Event) (s : State) : (modEvent f s).store = s.store := rfl
@[simp] theorem modEvent_port (f : Event → Event) (s : State) : (modEvent f s).port = s.port := rfl
@[simp] theorem modEvent_event (f : Event → Event) (s : State) : (modEvent f s).event = s.event.map f := rfl

/-! ## pump -/

@[simp] theorem pump_pending  (s : State) : (pump s).pending = s.pending := by unfold pump; split <;> rfl
@[simp] theorem pump_due  (s : State) : (pump s).due = s.due := by unfold pump; split <;> rfl
@[simp] theorem pump_event  (s : State) : (pump s).event = s.event := by unfold pump; split <;> rfl
@[simp] theorem pump_tick  (s : State) : (pump s).tick = s.tick := by unfold pump; split <;> rfl
@[simp] theorem pump_asOf  (s : State) : (pump s).asOf = s.asOf := by unfold pump; split <;> rfl
@[simp] theorem pump_phase  (s : State) : (pump s).phase = s.phase := by unfold pump; split <;> rfl
@[simp] theorem pump_links  (s : State) : (pump s).links = s.links := by unfold pump; split <;> rfl
@[simp] theorem pump_channels  (s : State) : (pump s).channels = s.channels := by unfold pump; split <;> rfl
@[simp] theorem pump_tb  (s : State) : (pump s).tb = s.tb := by unfold pump; split <;> rfl
@[simp] theorem pump_spectral  (s : State) : (pump s).spectral = s.spectral := by unfold pump; split <;> rfl
@[simp] theorem pump_acct  (s : State) : (pump s).acct = s.acct := by unfold pump; split <;> rfl
@[simp] theorem pump_ic  (s : State) : (pump s).ic = s.ic := by unfold pump; split <;> rfl
@[simp] theorem pump_stats  (s : State) : (pump s).stats = s.stats := by unfold pump; split <;> rfl
@[simp] theorem pump_filing  (s : State) : (pump s).filing = s.filing := by unfold pump; split <;> rfl
@[simp] theorem pump_store  (s : State) : (pump s).store = s.store := by unfold pump; split <;> rfl
@[simp] theorem pump_port  (s : State) : (pump s).port = s.port := by unfold pump; split <;> rfl
@[simp] theorem pump_inFlight (s : State) : (pump s).orders.inFlight = s.orders.inFlight := by unfold pump; split <;> rfl
@[simp] theorem pump_queue (s : State) : (pump s).orders.queue = s.orders.queue := by unfold pump; split <;> rfl
@[simp] theorem pump_resetDue (s : State) : (pump s).orders.resetDue = s.orders.resetDue := by unfold pump; split <;> rfl

/-! ## complete -/

@[simp] theorem complete_pending (e : Fin 16) (failed : Bool) (code : ResultCode) (value : Word64) (time : Nat) (s : State) : (complete e failed code value time s).pending = s.pending := by
  unfold complete; split
  · rfl
  · split
    · rfl
    · simp
@[simp] theorem complete_due (e : Fin 16) (failed : Bool) (code : ResultCode) (value : Word64) (time : Nat) (s : State) : (complete e failed code value time s).due = s.due := by
  unfold complete; split
  · rfl
  · split
    · rfl
    · simp
@[simp] theorem complete_event (e : Fin 16) (failed : Bool) (code : ResultCode) (value : Word64) (time : Nat) (s : State) : (complete e failed code value time s).event = s.event := by
  unfold complete; split
  · rfl
  · split
    · rfl
    · simp
@[simp] theorem complete_tick (e : Fin 16) (failed : Bool) (code : ResultCode) (value : Word64) (time : Nat) (s : State) : (complete e failed code value time s).tick = s.tick := by
  unfold complete; split
  · rfl
  · split
    · rfl
    · simp
@[simp] theorem complete_asOf (e : Fin 16) (failed : Bool) (code : ResultCode) (value : Word64) (time : Nat) (s : State) : (complete e failed code value time s).asOf = s.asOf := by
  unfold complete; split
  · rfl
  · split
    · rfl
    · simp
@[simp] theorem complete_phase (e : Fin 16) (failed : Bool) (code : ResultCode) (value : Word64) (time : Nat) (s : State) : (complete e failed code value time s).phase = s.phase := by
  unfold complete; split
  · rfl
  · split
    · rfl
    · simp
@[simp] theorem complete_links (e : Fin 16) (failed : Bool) (code : ResultCode) (value : Word64) (time : Nat) (s : State) : (complete e failed code value time s).links = s.links := by
  unfold complete; split
  · rfl
  · split
    · rfl
    · simp
@[simp] theorem complete_channels (e : Fin 16) (failed : Bool) (code : ResultCode) (value : Word64) (time : Nat) (s : State) : (complete e failed code value time s).channels = s.channels := by
  unfold complete; split
  · rfl
  · split
    · rfl
    · simp
@[simp] theorem complete_tb (e : Fin 16) (failed : Bool) (code : ResultCode) (value : Word64) (time : Nat) (s : State) : (complete e failed code value time s).tb = s.tb := by
  unfold complete; split
  · rfl
  · split
    · rfl
    · simp
@[simp] theorem complete_spectral (e : Fin 16) (failed : Bool) (code : ResultCode) (value : Word64) (time : Nat) (s : State) : (complete e failed code value time s).spectral = s.spectral := by
  unfold complete; split
  · rfl
  · split
    · rfl
    · simp
@[simp] theorem complete_acct (e : Fin 16) (failed : Bool) (code : ResultCode) (value : Word64) (time : Nat) (s : State) : (complete e failed code value time s).acct = s.acct := by
  unfold complete; split
  · rfl
  · split
    · rfl
    · simp
@[simp] theorem complete_ic (e : Fin 16) (failed : Bool) (code : ResultCode) (value : Word64) (time : Nat) (s : State) : (complete e failed code value time s).ic = s.ic := by
  unfold complete; split
  · rfl
  · split
    · rfl
    · simp
@[simp] theorem complete_stats (e : Fin 16) (failed : Bool) (code : ResultCode) (value : Word64) (time : Nat) (s : State) : (complete e failed code value time s).stats = s.stats := by
  unfold complete; split
  · rfl
  · split
    · rfl
    · simp
@[simp] theorem complete_filing (e : Fin 16) (failed : Bool) (code : ResultCode) (value : Word64) (time : Nat) (s : State) : (complete e failed code value time s).filing = s.filing := by
  unfold complete; split
  · rfl
  · split
    · rfl
    · simp
@[simp] theorem complete_store (e : Fin 16) (failed : Bool) (code : ResultCode) (value : Word64) (time : Nat) (s : State) : (complete e failed code value time s).store = s.store := by
  unfold complete; split
  · rfl
  · split
    · rfl
    · simp
@[simp] theorem complete_port (e : Fin 16) (failed : Bool) (code : ResultCode) (value : Word64) (time : Nat) (s : State) : (complete e failed code value time s).port = s.port := by
  unfold complete; split
  · rfl
  · split
    · rfl
    · simp

/-! ## completeOk -/

@[simp] theorem completeOk_pending (e : Fin 16) (value : Word64) (time : Nat) (s : State) : (completeOk e value time s).pending = s.pending := by simp [completeOk]
@[simp] theorem completeOk_due (e : Fin 16) (value : Word64) (time : Nat) (s : State) : (completeOk e value time s).due = s.due := by simp [completeOk]
@[simp] theorem completeOk_event (e : Fin 16) (value : Word64) (time : Nat) (s : State) : (completeOk e value time s).event = s.event := by simp [completeOk]
@[simp] theorem completeOk_tick (e : Fin 16) (value : Word64) (time : Nat) (s : State) : (completeOk e value time s).tick = s.tick := by simp [completeOk]
@[simp] theorem completeOk_asOf (e : Fin 16) (value : Word64) (time : Nat) (s : State) : (completeOk e value time s).asOf = s.asOf := by simp [completeOk]
@[simp] theorem completeOk_phase (e : Fin 16) (value : Word64) (time : Nat) (s : State) : (completeOk e value time s).phase = s.phase := by simp [completeOk]
@[simp] theorem completeOk_links (e : Fin 16) (value : Word64) (time : Nat) (s : State) : (completeOk e value time s).links = s.links := by simp [completeOk]
@[simp] theorem completeOk_channels (e : Fin 16) (value : Word64) (time : Nat) (s : State) : (completeOk e value time s).channels = s.channels := by simp [completeOk]
@[simp] theorem completeOk_tb (e : Fin 16) (value : Word64) (time : Nat) (s : State) : (completeOk e value time s).tb = s.tb := by simp [completeOk]
@[simp] theorem completeOk_spectral (e : Fin 16) (value : Word64) (time : Nat) (s : State) : (completeOk e value time s).spectral = s.spectral := by simp [completeOk]
@[simp] theorem completeOk_acct (e : Fin 16) (value : Word64) (time : Nat) (s : State) : (completeOk e value time s).acct = s.acct := by simp [completeOk]
@[simp] theorem completeOk_ic (e : Fin 16) (value : Word64) (time : Nat) (s : State) : (completeOk e value time s).ic = s.ic := by simp [completeOk]
@[simp] theorem completeOk_stats (e : Fin 16) (value : Word64) (time : Nat) (s : State) : (completeOk e value time s).stats = s.stats := by simp [completeOk]
@[simp] theorem completeOk_filing (e : Fin 16) (value : Word64) (time : Nat) (s : State) : (completeOk e value time s).filing = s.filing := by simp [completeOk]
@[simp] theorem completeOk_store (e : Fin 16) (value : Word64) (time : Nat) (s : State) : (completeOk e value time s).store = s.store := by simp [completeOk]
@[simp] theorem completeOk_port (e : Fin 16) (value : Word64) (time : Nat) (s : State) : (completeOk e value time s).port = s.port := by simp [completeOk]

/-! ## completeFail -/

@[simp] theorem completeFail_pending (e : Fin 16) (code : ResultCode) (time : Nat) (s : State) : (completeFail e code time s).pending = s.pending := by simp [completeFail]
@[simp] theorem completeFail_due (e : Fin 16) (code : ResultCode) (time : Nat) (s : State) : (completeFail e code time s).due = s.due := by simp [completeFail]
@[simp] theorem completeFail_event (e : Fin 16) (code : ResultCode) (time : Nat) (s : State) : (completeFail e code time s).event = s.event := by simp [completeFail]
@[simp] theorem completeFail_tick (e : Fin 16) (code : ResultCode) (time : Nat) (s : State) : (completeFail e code time s).tick = s.tick := by simp [completeFail]
@[simp] theorem completeFail_asOf (e : Fin 16) (code : ResultCode) (time : Nat) (s : State) : (completeFail e code time s).asOf = s.asOf := by simp [completeFail]
@[simp] theorem completeFail_phase (e : Fin 16) (code : ResultCode) (time : Nat) (s : State) : (completeFail e code time s).phase = s.phase := by simp [completeFail]
@[simp] theorem completeFail_links (e : Fin 16) (code : ResultCode) (time : Nat) (s : State) : (completeFail e code time s).links = s.links := by simp [completeFail]
@[simp] theorem completeFail_channels (e : Fin 16) (code : ResultCode) (time : Nat) (s : State) : (completeFail e code time s).channels = s.channels := by simp [completeFail]
@[simp] theorem completeFail_tb (e : Fin 16) (code : ResultCode) (time : Nat) (s : State) : (completeFail e code time s).tb = s.tb := by simp [completeFail]
@[simp] theorem completeFail_spectral (e : Fin 16) (code : ResultCode) (time : Nat) (s : State) : (completeFail e code time s).spectral = s.spectral := by simp [completeFail]
@[simp] theorem completeFail_acct (e : Fin 16) (code : ResultCode) (time : Nat) (s : State) : (completeFail e code time s).acct = s.acct := by simp [completeFail]
@[simp] theorem completeFail_ic (e : Fin 16) (code : ResultCode) (time : Nat) (s : State) : (completeFail e code time s).ic = s.ic := by simp [completeFail]
@[simp] theorem completeFail_stats (e : Fin 16) (code : ResultCode) (time : Nat) (s : State) : (completeFail e code time s).stats = s.stats := by simp [completeFail]
@[simp] theorem completeFail_filing (e : Fin 16) (code : ResultCode) (time : Nat) (s : State) : (completeFail e code time s).filing = s.filing := by simp [completeFail]
@[simp] theorem completeFail_store (e : Fin 16) (code : ResultCode) (time : Nat) (s : State) : (completeFail e code time s).store = s.store := by simp [completeFail]
@[simp] theorem completeFail_port (e : Fin 16) (code : ResultCode) (time : Nat) (s : State) : (completeFail e code time s).port = s.port := by simp [completeFail]

/-! ## setLink -/

@[simp] theorem setLink_pending (l : Fin 4) (k : Link) (s : State) : (s.setLink l k).pending = s.pending := rfl
@[simp] theorem setLink_due (l : Fin 4) (k : Link) (s : State) : (s.setLink l k).due = s.due := rfl
@[simp] theorem setLink_event (l : Fin 4) (k : Link) (s : State) : (s.setLink l k).event = s.event := rfl
@[simp] theorem setLink_tick (l : Fin 4) (k : Link) (s : State) : (s.setLink l k).tick = s.tick := rfl
@[simp] theorem setLink_asOf (l : Fin 4) (k : Link) (s : State) : (s.setLink l k).asOf = s.asOf := rfl
@[simp] theorem setLink_phase (l : Fin 4) (k : Link) (s : State) : (s.setLink l k).phase = s.phase := rfl
@[simp] theorem setLink_channels (l : Fin 4) (k : Link) (s : State) : (s.setLink l k).channels = s.channels := rfl
@[simp] theorem setLink_tb (l : Fin 4) (k : Link) (s : State) : (s.setLink l k).tb = s.tb := rfl
@[simp] theorem setLink_spectral (l : Fin 4) (k : Link) (s : State) : (s.setLink l k).spectral = s.spectral := rfl
@[simp] theorem setLink_acct (l : Fin 4) (k : Link) (s : State) : (s.setLink l k).acct = s.acct := rfl
@[simp] theorem setLink_ic (l : Fin 4) (k : Link) (s : State) : (s.setLink l k).ic = s.ic := rfl
@[simp] theorem setLink_stats (l : Fin 4) (k : Link) (s : State) : (s.setLink l k).stats = s.stats := rfl
@[simp] theorem setLink_filing (l : Fin 4) (k : Link) (s : State) : (s.setLink l k).filing = s.filing := rfl
@[simp] theorem setLink_orders (l : Fin 4) (k : Link) (s : State) : (s.setLink l k).orders = s.orders := rfl
@[simp] theorem setLink_store (l : Fin 4) (k : Link) (s : State) : (s.setLink l k).store = s.store := rfl
@[simp] theorem setLink_port (l : Fin 4) (k : Link) (s : State) : (s.setLink l k).port = s.port := rfl

/-! ## setChannel -/

@[simp] theorem setChannel_pending (ch : Nat) (c : Channel) (s : State) : (s.setChannel ch c).pending = s.pending := rfl
@[simp] theorem setChannel_due (ch : Nat) (c : Channel) (s : State) : (s.setChannel ch c).due = s.due := rfl
@[simp] theorem setChannel_event (ch : Nat) (c : Channel) (s : State) : (s.setChannel ch c).event = s.event := rfl
@[simp] theorem setChannel_tick (ch : Nat) (c : Channel) (s : State) : (s.setChannel ch c).tick = s.tick := rfl
@[simp] theorem setChannel_asOf (ch : Nat) (c : Channel) (s : State) : (s.setChannel ch c).asOf = s.asOf := rfl
@[simp] theorem setChannel_phase (ch : Nat) (c : Channel) (s : State) : (s.setChannel ch c).phase = s.phase := rfl
@[simp] theorem setChannel_links (ch : Nat) (c : Channel) (s : State) : (s.setChannel ch c).links = s.links := rfl
@[simp] theorem setChannel_tb (ch : Nat) (c : Channel) (s : State) : (s.setChannel ch c).tb = s.tb := rfl
@[simp] theorem setChannel_spectral (ch : Nat) (c : Channel) (s : State) : (s.setChannel ch c).spectral = s.spectral := rfl
@[simp] theorem setChannel_acct (ch : Nat) (c : Channel) (s : State) : (s.setChannel ch c).acct = s.acct := rfl
@[simp] theorem setChannel_ic (ch : Nat) (c : Channel) (s : State) : (s.setChannel ch c).ic = s.ic := rfl
@[simp] theorem setChannel_stats (ch : Nat) (c : Channel) (s : State) : (s.setChannel ch c).stats = s.stats := rfl
@[simp] theorem setChannel_filing (ch : Nat) (c : Channel) (s : State) : (s.setChannel ch c).filing = s.filing := rfl
@[simp] theorem setChannel_orders (ch : Nat) (c : Channel) (s : State) : (s.setChannel ch c).orders = s.orders := rfl
@[simp] theorem setChannel_store (ch : Nat) (c : Channel) (s : State) : (s.setChannel ch c).store = s.store := rfl
@[simp] theorem setChannel_port (ch : Nat) (c : Channel) (s : State) : (s.setChannel ch c).port = s.port := rfl

/-! ## setMonitor -/

@[simp] theorem setMonitor_pending (m : Fin 4) (k : Monitor) (s : State) : (s.setMonitor m k).pending = s.pending := rfl
@[simp] theorem setMonitor_due (m : Fin 4) (k : Monitor) (s : State) : (s.setMonitor m k).due = s.due := rfl
@[simp] theorem setMonitor_event (m : Fin 4) (k : Monitor) (s : State) : (s.setMonitor m k).event = s.event := rfl
@[simp] theorem setMonitor_tick (m : Fin 4) (k : Monitor) (s : State) : (s.setMonitor m k).tick = s.tick := rfl
@[simp] theorem setMonitor_asOf (m : Fin 4) (k : Monitor) (s : State) : (s.setMonitor m k).asOf = s.asOf := rfl
@[simp] theorem setMonitor_phase (m : Fin 4) (k : Monitor) (s : State) : (s.setMonitor m k).phase = s.phase := rfl
@[simp] theorem setMonitor_links (m : Fin 4) (k : Monitor) (s : State) : (s.setMonitor m k).links = s.links := rfl
@[simp] theorem setMonitor_channels (m : Fin 4) (k : Monitor) (s : State) : (s.setMonitor m k).channels = s.channels := rfl
@[simp] theorem setMonitor_tb (m : Fin 4) (k : Monitor) (s : State) : (s.setMonitor m k).tb = s.tb := rfl
@[simp] theorem setMonitor_spectral (m : Fin 4) (k : Monitor) (s : State) : (s.setMonitor m k).spectral = s.spectral := rfl
@[simp] theorem setMonitor_acct (m : Fin 4) (k : Monitor) (s : State) : (s.setMonitor m k).acct = s.acct := rfl
@[simp] theorem setMonitor_ic (m : Fin 4) (k : Monitor) (s : State) : (s.setMonitor m k).ic = s.ic := rfl
@[simp] theorem setMonitor_filing (m : Fin 4) (k : Monitor) (s : State) : (s.setMonitor m k).filing = s.filing := rfl
@[simp] theorem setMonitor_orders (m : Fin 4) (k : Monitor) (s : State) : (s.setMonitor m k).orders = s.orders := rfl
@[simp] theorem setMonitor_store (m : Fin 4) (k : Monitor) (s : State) : (s.setMonitor m k).store = s.store := rfl
@[simp] theorem setMonitor_port (m : Fin 4) (k : Monitor) (s : State) : (s.setMonitor m k).port = s.port := rfl

/-! ## modDecoder -/

@[simp] theorem modDecoder_pending (f : Decoder → Decoder) (s : State) : (modDecoder f s).pending = s.pending := rfl
@[simp] theorem modDecoder_due (f : Decoder → Decoder) (s : State) : (modDecoder f s).due = s.due := rfl
@[simp] theorem modDecoder_event (f : Decoder → Decoder) (s : State) : (modDecoder f s).event = s.event := rfl
@[simp] theorem modDecoder_tick (f : Decoder → Decoder) (s : State) : (modDecoder f s).tick = s.tick := rfl
@[simp] theorem modDecoder_asOf (f : Decoder → Decoder) (s : State) : (modDecoder f s).asOf = s.asOf := rfl
@[simp] theorem modDecoder_phase (f : Decoder → Decoder) (s : State) : (modDecoder f s).phase = s.phase := rfl
@[simp] theorem modDecoder_links (f : Decoder → Decoder) (s : State) : (modDecoder f s).links = s.links := rfl
@[simp] theorem modDecoder_channels (f : Decoder → Decoder) (s : State) : (modDecoder f s).channels = s.channels := rfl
@[simp] theorem modDecoder_tb (f : Decoder → Decoder) (s : State) : (modDecoder f s).tb = s.tb := rfl
@[simp] theorem modDecoder_spectral (f : Decoder → Decoder) (s : State) : (modDecoder f s).spectral = s.spectral := rfl
@[simp] theorem modDecoder_acct (f : Decoder → Decoder) (s : State) : (modDecoder f s).acct = s.acct := rfl
@[simp] theorem modDecoder_stats (f : Decoder → Decoder) (s : State) : (modDecoder f s).stats = s.stats := rfl
@[simp] theorem modDecoder_filing (f : Decoder → Decoder) (s : State) : (modDecoder f s).filing = s.filing := rfl
@[simp] theorem modDecoder_orders (f : Decoder → Decoder) (s : State) : (modDecoder f s).orders = s.orders := rfl
@[simp] theorem modDecoder_store (f : Decoder → Decoder) (s : State) : (modDecoder f s).store = s.store := rfl
@[simp] theorem modDecoder_port (f : Decoder → Decoder) (s : State) : (modDecoder f s).port = s.port := rfl

/-! ## modAcc -/

@[simp] theorem modAcc_pending (p : Nat) (f : Acc → Acc) (s : State) : (modAcc p f s).pending = s.pending := rfl
@[simp] theorem modAcc_due (p : Nat) (f : Acc → Acc) (s : State) : (modAcc p f s).due = s.due := rfl
@[simp] theorem modAcc_event (p : Nat) (f : Acc → Acc) (s : State) : (modAcc p f s).event = s.event := rfl
@[simp] theorem modAcc_tick (p : Nat) (f : Acc → Acc) (s : State) : (modAcc p f s).tick = s.tick := rfl
@[simp] theorem modAcc_asOf (p : Nat) (f : Acc → Acc) (s : State) : (modAcc p f s).asOf = s.asOf := rfl
@[simp] theorem modAcc_phase (p : Nat) (f : Acc → Acc) (s : State) : (modAcc p f s).phase = s.phase := rfl
@[simp] theorem modAcc_links (p : Nat) (f : Acc → Acc) (s : State) : (modAcc p f s).links = s.links := rfl
@[simp] theorem modAcc_channels (p : Nat) (f : Acc → Acc) (s : State) : (modAcc p f s).channels = s.channels := rfl
@[simp] theorem modAcc_tb (p : Nat) (f : Acc → Acc) (s : State) : (modAcc p f s).tb = s.tb := rfl
@[simp] theorem modAcc_spectral (p : Nat) (f : Acc → Acc) (s : State) : (modAcc p f s).spectral = s.spectral := rfl
@[simp] theorem modAcc_acct (p : Nat) (f : Acc → Acc) (s : State) : (modAcc p f s).acct = s.acct := rfl
@[simp] theorem modAcc_ic (p : Nat) (f : Acc → Acc) (s : State) : (modAcc p f s).ic = s.ic := rfl
@[simp] theorem modAcc_filing (p : Nat) (f : Acc → Acc) (s : State) : (modAcc p f s).filing = s.filing := rfl
@[simp] theorem modAcc_orders (p : Nat) (f : Acc → Acc) (s : State) : (modAcc p f s).orders = s.orders := rfl
@[simp] theorem modAcc_store (p : Nat) (f : Acc → Acc) (s : State) : (modAcc p f s).store = s.store := rfl
@[simp] theorem modAcc_port (p : Nat) (f : Acc → Acc) (s : State) : (modAcc p f s).port = s.port := rfl

/-! ## addParts -/

@[simp] theorem addParts_pending (seq : Word64) (f : Assembly → Assembly) (s : State) : (addParts seq f s).pending = s.pending := rfl
@[simp] theorem addParts_due (seq : Word64) (f : Assembly → Assembly) (s : State) : (addParts seq f s).due = s.due := rfl
@[simp] theorem addParts_event (seq : Word64) (f : Assembly → Assembly) (s : State) : (addParts seq f s).event = s.event := rfl
@[simp] theorem addParts_tick (seq : Word64) (f : Assembly → Assembly) (s : State) : (addParts seq f s).tick = s.tick := rfl
@[simp] theorem addParts_asOf (seq : Word64) (f : Assembly → Assembly) (s : State) : (addParts seq f s).asOf = s.asOf := rfl
@[simp] theorem addParts_phase (seq : Word64) (f : Assembly → Assembly) (s : State) : (addParts seq f s).phase = s.phase := rfl
@[simp] theorem addParts_links (seq : Word64) (f : Assembly → Assembly) (s : State) : (addParts seq f s).links = s.links := rfl
@[simp] theorem addParts_channels (seq : Word64) (f : Assembly → Assembly) (s : State) : (addParts seq f s).channels = s.channels := rfl
@[simp] theorem addParts_tb (seq : Word64) (f : Assembly → Assembly) (s : State) : (addParts seq f s).tb = s.tb := rfl
@[simp] theorem addParts_spectral (seq : Word64) (f : Assembly → Assembly) (s : State) : (addParts seq f s).spectral = s.spectral := rfl
@[simp] theorem addParts_acct (seq : Word64) (f : Assembly → Assembly) (s : State) : (addParts seq f s).acct = s.acct := rfl
@[simp] theorem addParts_ic (seq : Word64) (f : Assembly → Assembly) (s : State) : (addParts seq f s).ic = s.ic := rfl
@[simp] theorem addParts_stats (seq : Word64) (f : Assembly → Assembly) (s : State) : (addParts seq f s).stats = s.stats := rfl
@[simp] theorem addParts_orders (seq : Word64) (f : Assembly → Assembly) (s : State) : (addParts seq f s).orders = s.orders := rfl
@[simp] theorem addParts_store (seq : Word64) (f : Assembly → Assembly) (s : State) : (addParts seq f s).store = s.store := rfl
@[simp] theorem addParts_port (seq : Word64) (f : Assembly → Assembly) (s : State) : (addParts seq f s).port = s.port := rfl

/-! ## modFactory -/

@[simp] theorem modFactory_pending (f : Factory → Factory) (s : State) : (modFactory f s).pending = s.pending := rfl
@[simp] theorem modFactory_due (f : Factory → Factory) (s : State) : (modFactory f s).due = s.due := rfl
@[simp] theorem modFactory_event (f : Factory → Factory) (s : State) : (modFactory f s).event = s.event := rfl
@[simp] theorem modFactory_tick (f : Factory → Factory) (s : State) : (modFactory f s).tick = s.tick := rfl
@[simp] theorem modFactory_asOf (f : Factory → Factory) (s : State) : (modFactory f s).asOf = s.asOf := rfl
@[simp] theorem modFactory_phase (f : Factory → Factory) (s : State) : (modFactory f s).phase = s.phase := rfl
@[simp] theorem modFactory_links (f : Factory → Factory) (s : State) : (modFactory f s).links = s.links := rfl
@[simp] theorem modFactory_channels (f : Factory → Factory) (s : State) : (modFactory f s).channels = s.channels := rfl
@[simp] theorem modFactory_tb (f : Factory → Factory) (s : State) : (modFactory f s).tb = s.tb := rfl
@[simp] theorem modFactory_spectral (f : Factory → Factory) (s : State) : (modFactory f s).spectral = s.spectral := rfl
@[simp] theorem modFactory_acct (f : Factory → Factory) (s : State) : (modFactory f s).acct = s.acct := rfl
@[simp] theorem modFactory_ic (f : Factory → Factory) (s : State) : (modFactory f s).ic = s.ic := rfl
@[simp] theorem modFactory_stats (f : Factory → Factory) (s : State) : (modFactory f s).stats = s.stats := rfl
@[simp] theorem modFactory_filing (f : Factory → Factory) (s : State) : (modFactory f s).filing = s.filing := rfl
@[simp] theorem modFactory_orders (f : Factory → Factory) (s : State) : (modFactory f s).orders = s.orders := rfl
@[simp] theorem modFactory_port (f : Factory → Factory) (s : State) : (modFactory f s).port = s.port := rfl

/-! ## addCause -/

@[simp] theorem addCause_pending (c : Cause) (s : State) : (addCause c s).pending = s.pending := rfl
@[simp] theorem addCause_due (c : Cause) (s : State) : (addCause c s).due = s.due := rfl
@[simp] theorem addCause_tick (c : Cause) (s : State) : (addCause c s).tick = s.tick := rfl
@[simp] theorem addCause_asOf (c : Cause) (s : State) : (addCause c s).asOf = s.asOf := rfl
@[simp] theorem addCause_phase (c : Cause) (s : State) : (addCause c s).phase = s.phase := rfl
@[simp] theorem addCause_links (c : Cause) (s : State) : (addCause c s).links = s.links := rfl
@[simp] theorem addCause_channels (c : Cause) (s : State) : (addCause c s).channels = s.channels := rfl
@[simp] theorem addCause_tb (c : Cause) (s : State) : (addCause c s).tb = s.tb := rfl
@[simp] theorem addCause_spectral (c : Cause) (s : State) : (addCause c s).spectral = s.spectral := rfl
@[simp] theorem addCause_acct (c : Cause) (s : State) : (addCause c s).acct = s.acct := rfl
@[simp] theorem addCause_ic (c : Cause) (s : State) : (addCause c s).ic = s.ic := rfl
@[simp] theorem addCause_stats (c : Cause) (s : State) : (addCause c s).stats = s.stats := rfl
@[simp] theorem addCause_filing (c : Cause) (s : State) : (addCause c s).filing = s.filing := rfl
@[simp] theorem addCause_orders (c : Cause) (s : State) : (addCause c s).orders = s.orders := rfl
@[simp] theorem addCause_store (c : Cause) (s : State) : (addCause c s).store = s.store := rfl
@[simp] theorem addCause_port (c : Cause) (s : State) : (addCause c s).port = s.port := rfl

/-! ## finishLater -/

@[simp] theorem finishLater_pending (f : Finishing) (s : State) : (finishLater f s).pending = s.pending := rfl
@[simp] theorem finishLater_due (f : Finishing) (s : State) : (finishLater f s).due = s.due := rfl
@[simp] theorem finishLater_tick (f : Finishing) (s : State) : (finishLater f s).tick = s.tick := rfl
@[simp] theorem finishLater_asOf (f : Finishing) (s : State) : (finishLater f s).asOf = s.asOf := rfl
@[simp] theorem finishLater_phase (f : Finishing) (s : State) : (finishLater f s).phase = s.phase := rfl
@[simp] theorem finishLater_links (f : Finishing) (s : State) : (finishLater f s).links = s.links := rfl
@[simp] theorem finishLater_channels (f : Finishing) (s : State) : (finishLater f s).channels = s.channels := rfl
@[simp] theorem finishLater_tb (f : Finishing) (s : State) : (finishLater f s).tb = s.tb := rfl
@[simp] theorem finishLater_spectral (f : Finishing) (s : State) : (finishLater f s).spectral = s.spectral := rfl
@[simp] theorem finishLater_acct (f : Finishing) (s : State) : (finishLater f s).acct = s.acct := rfl
@[simp] theorem finishLater_ic (f : Finishing) (s : State) : (finishLater f s).ic = s.ic := rfl
@[simp] theorem finishLater_stats (f : Finishing) (s : State) : (finishLater f s).stats = s.stats := rfl
@[simp] theorem finishLater_filing (f : Finishing) (s : State) : (finishLater f s).filing = s.filing := rfl
@[simp] theorem finishLater_orders (f : Finishing) (s : State) : (finishLater f s).orders = s.orders := rfl
@[simp] theorem finishLater_store (f : Finishing) (s : State) : (finishLater f s).store = s.store := rfl
@[simp] theorem finishLater_port (f : Finishing) (s : State) : (finishLater f s).port = s.port := rfl

/-! ## settleRequest -/

@[simp] theorem settleRequest_stuck (m : Bool) (c : Channel) : (settleRequest m c).stuck = c.stuck := by
  unfold settleRequest; split <;> (try split) <;> rfl
@[simp] theorem settleRequest_calibration (m : Bool) (c : Channel) : (settleRequest m c).calibration = c.calibration := by
  unfold settleRequest; split <;> (try split) <;> rfl
@[simp] theorem settleRequest_lastRms (m : Bool) (c : Channel) : (settleRequest m c).lastRms = c.lastRms := by
  unfold settleRequest; split <;> (try split) <;> rfl

end Sys2Proof.Machine
end

