-- ==== Sys2Proof/Laws/Parts.lean ====
section
/-! SUPPORT. One lemma for each part of what is due: what it does, and when it is a row of the command table. -/

namespace Sys2Proof.Machine

/-! ## What a part does -/

@[simp] theorem microStep_frame (l : Fin 4) (bytes : List Byte) (s : State) :
    microStep (.frame l bytes) s = frameStep l bytes s := rfl

@[simp] theorem microStep_seekFrame (l : Fin 4) (bytes : List Byte) (s : State) :
    microStep (.seekFrame l bytes) s = seekingFrame l bytes s := rfl

@[simp] theorem microStep_enterRunning (l : Fin 4) (bytes : List Byte) (s : State) :
    microStep (.enterRunning l bytes) s = enterRunning l bytes s := rfl

@[simp] theorem microStep_drop (l : Fin 4) (reason : DropReason) (s : State) :
    microStep (.drop l reason) s = dropLink l reason s := rfl

@[simp] theorem microStep_strobe (s : State) :
    microStep (.strobe) s = strobeStep s := rfl

@[simp] theorem microStep_finishLink (l : Fin 4) (s : State) :
    microStep (.finishLink l) s = finishLink l s := rfl

@[simp] theorem microStep_closeWindow (s : State) :
    microStep (.closeWindow) s = closeWindow s := rfl

@[simp] theorem microStep_calibrationCheck (ch : Fin 28) (s : State) :
    microStep (.calibrationCheck ch) s = calibrationCheck ch s := rfl

@[simp] theorem microStep_offsetEffect (ch : Fin 28) (s : State) :
    microStep (.offsetEffect ch) s = offsetEffect ch s := rfl

@[simp] theorem microStep_clip (ch : Fin 28) (clipped : Bool) (s : State) :
    microStep (.clip ch clipped) s = clipStep ch clipped s := rfl

@[simp] theorem microStep_restartCheck (l : Fin 4) (s : State) :
    microStep (.restartCheck l) s = restartCheck l s := rfl

@[simp] theorem microStep_lockStep (s : State) :
    microStep (.lockStep) s = lockStep s := rfl

@[simp] theorem microStep_monitorEffect (s : State) :
    microStep (.monitorEffect) s = monitorEffect s := rfl

@[simp] theorem microStep_scan (s : State) :
    microStep (.scan) s = beginScan s := rfl

@[simp] theorem microStep_takeOrders (table : List Byte) (s : State) :
    microStep (.takeOrders table) s = takeOrders table s := rfl

@[simp] theorem microStep_handOver (entry : Fin 16) (s : State) :
    microStep (.handOver entry) s = handOver entry s := rfl

@[simp] theorem microStep_intervalEnd (s : State) :
    microStep (.intervalEnd) s = onlyIf intervalEndDue takeIntervalEnd s := rfl

@[simp] theorem microStep_tariffStep (s : State) :
    microStep (.tariffStep) s = onlyIf tariffStepDue takeTariffStep s := rfl

@[simp] theorem microStep_clockCheck (s : State) :
    microStep (.clockCheck) s = onlyIf clockArises (addCause .clock) s := rfl

@[simp] theorem microStep_timeoutCheck (s : State) :
    microStep (.timeoutCheck) s = onlyIf timeoutArises takeTimeout s := rfl

@[simp] theorem microStep_demandApply (s : State) :
    microStep (.demandApply) s = onlyIf demandApplies applyDemandReset s := rfl

@[simp] theorem microStep_decide (s : State) :
    microStep (.decide) s = decideClose s := rfl

@[simp] theorem microStep_activate (cfg : Cfg) (entry : Fin 16) (s : State) :
    microStep (.activate cfg entry) s = activate cfg entry s := rfl

@[simp] theorem microStep_close (s : State) :
    microStep (.close) s = closeEvent s := rfl

@[simp] theorem microStep_settleTariff (s : State) :
    microStep (.settleTariff) s = settleInterval s := rfl

@[simp] theorem microStep_finishOrders (s : State) :
    microStep (.finishOrders) s = finishOrders s := rfl

@[simp] theorem microStep_heldRetry (s : State) :
    microStep (.heldRetry) s = onlyIf canRetry retryHeld s := rfl

@[simp] theorem microStep_header (s : State) :
    microStep (.header) s = beginHeader s := rfl

@[simp] theorem microStep_endEvent (s : State) :
    microStep (.endEvent) s = endEvent s := rfl

@[simp] theorem microStep_decompose (s : State) :
    microStep (.decompose) s = decompose s := rfl

@[simp] theorem microStep_idle (ch : Fin 28) (isIdle : Bool) (mean : Int) (s : State) :
    microStep (.idle ch isIdle mean) s = idleStep ch isIdle mean s := rfl

@[simp] theorem microStep_monitorStep (m : Fin 4) (value : Nat) (eligible : Bool) (point : Nat) (index : Nat) (s : State) :
    microStep (.monitorStep m value eligible point index) s = monitorStep m value eligible point index s := rfl

@[simp] theorem microStep_monitorRestart (m : Fin 4) (s : State) :
    microStep (.monitorRestart m) s = monitorRestart m s := rfl

@[simp] theorem microStep_acctFinish (s : State) :
    microStep (.acctFinish) s = onlyIf acctCanFinish acctFinishStep s := rfl

@[simp] theorem microStep_statFinish (s : State) :
    microStep (.statFinish) s = onlyIf statCanFinish statFinishStep s := rfl

@[simp] theorem microStep_fileComplete (seq : Word64) (s : State) :
    microStep (.fileComplete seq) s = completeFile seq s := rfl

@[simp] theorem microStep_snapCapture (entry : Fin 16) (s : State) :
    microStep (.snapCapture entry) s = captureSnapshot entry s := rfl

@[simp] theorem microStep_statReset (s : State) :
    microStep (.statReset) s = statReset s := rfl

@[simp] theorem microStep_asOf (tick : Option Nat) (s : State) :
    microStep (.asOf tick) s = { s with asOf := tick } := rfl

/-! ## When a part is named -/

@[simp] theorem named_frame (l : Fin 4) (bytes : List Byte) (s : State) :
    named (.frame l bytes) s = (false : Bool) := rfl

@[simp] theorem named_seekFrame (l : Fin 4) (bytes : List Byte) (s : State) :
    named (.seekFrame l bytes) s = (false : Bool) := rfl

@[simp] theorem named_enterRunning (l : Fin 4) (bytes : List Byte) (s : State) :
    named (.enterRunning l bytes) s = (true : Bool) := rfl

@[simp] theorem named_drop (l : Fin 4) (reason : DropReason) (s : State) :
    named (.drop l reason) s = (true : Bool) := rfl

@[simp] theorem named_strobe (s : State) :
    named (.strobe) s = (false : Bool) := rfl

@[simp] theorem named_finishLink (l : Fin 4) (s : State) :
    named (.finishLink l) s = (false : Bool) := rfl

@[simp] theorem named_closeWindow (s : State) :
    named (.closeWindow) s = (false : Bool) := rfl

@[simp] theorem named_calibrationCheck (ch : Fin 28) (s : State) :
    named (.calibrationCheck ch) s = (false : Bool) := rfl

@[simp] theorem named_offsetEffect (ch : Fin 28) (s : State) :
    named (.offsetEffect ch) s = ((s.channel ch.val).request.isSome : Bool) := rfl

@[simp] theorem named_clip (ch : Fin 28) (clipped : Bool) (s : State) :
    named (.clip ch clipped) s = (becomesStuck (s.channel ch.val) clipped || becomesNormal (s.channel ch.val) clipped : Bool) := rfl

@[simp] theorem named_restartCheck (l : Fin 4) (s : State) :
    named (.restartCheck l) s = (restartExpires (s.link l) : Bool) := rfl

@[simp] theorem named_lockStep (s : State) :
    named (.lockStep) s = (lockAcquires s || holdoverExpires s : Bool) := rfl

@[simp] theorem named_monitorEffect (s : State) :
    named (.monitorEffect) s = (settingsWait s : Bool) := rfl

@[simp] theorem named_scan (s : State) :
    named (.scan) s = (false : Bool) := rfl

@[simp] theorem named_takeOrders (table : List Byte) (s : State) :
    named (.takeOrders table) s = (false : Bool) := rfl

@[simp] theorem named_handOver (entry : Fin 16) (s : State) :
    named (.handOver entry) s = ((1 ≤ s.orderKind entry && s.orderKind entry ≤ 10 : Bool) : Bool) := rfl

@[simp] theorem named_intervalEnd (s : State) :
    named (.intervalEnd) s = (intervalEndDue s : Bool) := rfl

@[simp] theorem named_tariffStep (s : State) :
    named (.tariffStep) s = (tariffStepDue s : Bool) := rfl

@[simp] theorem named_clockCheck (s : State) :
    named (.clockCheck) s = (clockArises s : Bool) := rfl

@[simp] theorem named_timeoutCheck (s : State) :
    named (.timeoutCheck) s = (timeoutArises s : Bool) := rfl

@[simp] theorem named_demandApply (s : State) :
    named (.demandApply) s = (demandApplies s : Bool) := rfl

@[simp] theorem named_decide (s : State) :
    named (.decide) s = (false : Bool) := rfl

@[simp] theorem named_activate (cfg : Cfg) (entry : Fin 16) (s : State) :
    named (.activate cfg entry) s = (true : Bool) := rfl

@[simp] theorem named_close (s : State) :
    named (.close) s = (false : Bool) := rfl

@[simp] theorem named_settleTariff (s : State) :
    named (.settleTariff) s = (false : Bool) := rfl

@[simp] theorem named_finishOrders (s : State) :
    named (.finishOrders) s = (false : Bool) := rfl

@[simp] theorem named_heldRetry (s : State) :
    named (.heldRetry) s = (canRetry s : Bool) := rfl

@[simp] theorem named_header (s : State) :
    named (.header) s = (false : Bool) := rfl

@[simp] theorem named_endEvent (s : State) :
    named (.endEvent) s = (false : Bool) := rfl

@[simp] theorem named_decompose (s : State) :
    named (.decompose) s = (false : Bool) := rfl

@[simp] theorem named_idle (ch : Fin 28) (isIdle : Bool) (mean : Int) (s : State) :
    named (.idle ch isIdle mean) s = (idleReaches s ch isIdle : Bool) := rfl

@[simp] theorem named_monitorStep (m : Fin 4) (value : Nat) (eligible : Bool) (point : Nat) (index : Nat) (s : State) :
    named (.monitorStep m value eligible point index) s = (turnsOn (s.monitor m) value eligible : Bool) := rfl

@[simp] theorem named_monitorRestart (m : Fin 4) (s : State) :
    named (.monitorRestart m) s = (true : Bool) := rfl

@[simp] theorem named_acctFinish (s : State) :
    named (.acctFinish) s = (acctCanFinish s : Bool) := rfl

@[simp] theorem named_statFinish (s : State) :
    named (.statFinish) s = (statCanFinish s : Bool) := rfl

@[simp] theorem named_fileComplete (seq : Word64) (s : State) :
    named (.fileComplete seq) s = (true : Bool) := rfl

@[simp] theorem named_snapCapture (entry : Fin 16) (s : State) :
    named (.snapCapture entry) s = (capturePending entry s : Bool) := rfl

@[simp] theorem named_statReset (s : State) :
    named (.statReset) s = (false : Bool) := rfl

@[simp] theorem named_asOf (tick : Option Nat) (s : State) : named (.asOf tick) s = false := rfl

end Sys2Proof.Machine
end

