-- ==== Sys2Proof/Laws/Events.lean ====
section
/-! SUPPORT. What `settle`, `advance` and `perform` do, and what the three kinds of command come to, said once. -/

namespace Sys2Proof.Machine

/-! ## Nothing due -/

theorem fuelFor_succ (s : State) : ∃ n, fuelFor s = n + 1 := ⟨fuelFor s - 1, by unfold fuelFor; omega⟩

theorem settleFor_nil (n : Nat) (s : State) (h : s.due = []) : settleFor n s = s := by
  cases n <;> simp [settleFor, h]

theorem advanceFor_nil (n : Nat) (s : State) (h : s.due = []) : advanceFor n s = s := by
  cases n <;> simp [advanceFor, h]

theorem settle_nil (s : State) (h : s.due = []) : settle s = s := settleFor_nil _ s h

theorem advance_nil (s : State) (h : s.due = []) : advance s = s := advanceFor_nil _ s h

/-! ## A part that a command names -/

theorem advanceFor_named (n : Nat) (s : State) (d : Due) (ds : List Due) (h : s.due = d :: ds)
    (hn : named d { s with due := ds } = true) : advanceFor n s = s := by
  cases n <;> simp [advanceFor, h, hn]

theorem advance_named (s : State) (d : Due) (ds : List Due) (h : s.due = d :: ds)
    (hn : named d { s with due := ds } = true) : advance s = s := advanceFor_named _ s d ds h hn

/-- The command of the part at the front of what is due: the part, and then what follows it. -/
theorem perform_front (wanted : Due → State → Bool) (s : State) (d : Due) (ds : List Due) (h : s.due = d :: ds)
    (hn : named d { s with due := ds } = true) (hw : wanted d { s with due := ds } = true) :
    perform wanted s = advance (microStep d { s with due := ds }) := by
  obtain ⟨n, hf⟩ := fuelFor_succ s
  unfold perform
  rw [hf]
  simp [reachFor, h, hn, hw]

/-- Where nothing is due the command of an inner part changes nothing. -/
theorem perform_nil (wanted : Due → State → Bool) (s : State) (h : s.due = []) : perform wanted s = s := by
  obtain ⟨n, hf⟩ := fuelFor_succ s
  unfold perform
  rw [hf]
  simp [reachFor, h]

/-! ## One unnamed part, then the rest -/

/-- `advance` and `settle` over a bound that need not be the state's own. -/
theorem advanceFor_step (n : Nat) (s : State) (d : Due) (ds : List Due) (h : s.due = d :: ds)
    (hn : named d { s with due := ds } = false) :
    advanceFor (n + 1) s = advanceFor n (microStep d { s with due := ds }) := by
  simp [advanceFor, h, hn]

theorem settleFor_step (n : Nat) (s : State) (d : Due) (ds : List Due) (h : s.due = d :: ds) :
    settleFor (n + 1) s = settleFor n (microStep d { s with due := ds }) := by
  simp [settleFor, h]

/-! ## Invariants -/

/-- What every part keeps, `settle`, `advance` and `perform` keep. -/
theorem settleFor_keeps (P : State → Prop) (hd : ∀ s ds, P s → P { s with due := ds })
    (hm : ∀ d s, P s → P (microStep d s)) : ∀ n s, P s → P (settleFor n s)
  | 0, _, h => h
  | n + 1, s, h => by
    unfold settleFor
    split
    · exact h
    · exact settleFor_keeps P hd hm n _ (hm _ _ (hd _ _ h))

theorem advanceFor_keeps (P : State → Prop) (hd : ∀ s ds, P s → P { s with due := ds })
    (hm : ∀ d s, P s → P (microStep d s)) : ∀ n s, P s → P (advanceFor n s)
  | 0, _, h => h
  | n + 1, s, h => by
    unfold advanceFor
    split
    · exact h
    · split
      · exact h
      · exact advanceFor_keeps P hd hm n _ (hm _ _ (hd _ _ h))

theorem reachFor_keeps (P : State → Prop) (hd : ∀ s ds, P s → P { s with due := ds })
    (hm : ∀ d s, P s → P (microStep d s)) (wanted : Due → State → Bool) :
    ∀ n s s', P s → reachFor wanted n s = some s' → P s'
  | 0, _, _, _, e => by simp [reachFor] at e
  | n + 1, s, s', h, e => by
    unfold reachFor at e
    split at e
    · simp at e
    · simp only at e
      split at e
      · cases e
        exact hm _ _ (hd _ _ h)
      · exact reachFor_keeps P hd hm wanted n _ _ (hm _ _ (hd _ _ h)) e

theorem perform_keeps (P : State → Prop) (hd : ∀ s ds, P s → P { s with due := ds })
    (hm : ∀ d s, P s → P (microStep d s)) (wanted : Due → State → Bool) (s : State) (h : P s) :
    P (perform wanted s) := by
  unfold perform
  split
  · next s' e => exact advanceFor_keeps P hd hm _ _ (reachFor_keeps P hd hm wanted _ _ _ h e)
  · exact h

/-! ## Commands from outside and from the engine's timers -/

/-- While nothing is due and no reset is in progress, a command from outside lets time pass, acts, and lets what
follows come about. -/
theorem fromOutside_quiet (dt : Nat) (act : State → State) (s : State) (hp : s.phase = .running) (hd : s.due = []) :
    fromOutside dt act s = advance (act (elapse dt s)) := by
  simp [fromOutside, inReset, hp, settle_nil s hd]

/-- The same, for an act that leaves nothing due. -/
theorem fromOutside_plain (dt : Nat) (act : State → State) (s : State) (hp : s.phase = .running) (hd : s.due = [])
    (ha : (act (elapse dt s)).due = []) : fromOutside dt act s = act (elapse dt s) := by
  rw [fromOutside_quiet dt act s hp hd, advance_nil _ ha]

/-- While a power-on or pin reset is in progress only time passes (R195). -/
theorem fromOutside_inReset (dt : Nat) (act : State → State) (s : State) (hp : s.phase ≠ .running) :
    fromOutside dt act s = elapse dt s := by
  simp [fromOutside, inReset, hp]

theorem fromTimer_quiet (instant : State → Option Nat) (act : State → State) (s : State) (t : Nat)
    (hp : s.phase = .running) (hd : s.due = []) (hi : instant s = some t) :
    fromTimer instant act s = advance (act (waitUntil t s)) := by
  simp [fromTimer, inReset, hp, settle_nil s hd, hi]

theorem fromTimer_none (instant : State → Option Nat) (act : State → State) (s : State)
    (hd : s.due = []) (hi : instant s = none) : fromTimer instant act s = s := by
  simp only [fromTimer, settle_nil s hd, hi]
  split <;> rfl

end Sys2Proof.Machine
end

