-- ==== Sys2Proof/Laws/Ops.lean ====
section
/-! SUPPORT. What each shared operation can do, said once: time, the completion queue, orders handed over, calibrations,
closes, files, discards, and the bytes of a field. -/

namespace Sys2Proof.Machine

/-! ## Lists -/

/-- What each step of a fold keeps, the fold keeps. -/
theorem foldl_keeps {α β : Type} (P : β → Prop) (f : β → α → β) (h : ∀ b a, P b → P (f b a)) :
    ∀ (l : List α) (b : β), P b → P (l.foldl f b)
  | [], _, hb => hb
  | a :: l, b, hb => foldl_keeps P f h l _ (h b a hb)

/-- The bytes of a list whose members take n bytes each. -/
theorem flatten_length {α : Type} (l : List α) (f : α → List Byte) (n : Nat) (h : ∀ a, (f a).length = n) :
    (l.map f).flatten.length = n * l.length := by
  induction l with
  | nil => rfl
  | cons a l ih => simp only [List.map_cons, List.flatten_cons, List.length_append, h, ih, List.length_cons]; ring

@[simp] theorem leBytes_length (w v : Nat) : (leBytes w v).length = w := by
  induction w generalizing v with
  | zero => rfl
  | succ w ih => simp [leBytes, ih]

@[simp] theorem leSat_length (w v : Nat) : (leSat w v).length = w := leBytes_length _ _

@[simp] theorem zeros_length (n : Nat) : (zeros n).length = n := by simp [zeros]

/-- A field reads back the value written, modulo its width. -/
theorem leNat_leBytes (w v : Nat) : leNat (leBytes w v) = v % 256 ^ w := by
  induction w generalizing v with
  | zero => simp [leBytes, leNat, Nat.mod_one]
  | succ w ih =>
    rw [leBytes, leNat, ih, BitVec.toNat_ofNat, show 256 ^ (w + 1) = 256 * 256 ^ w by ring, Nat.mod_mul]

/-! ## Clamping and rounding -/

theorem clampInt_range (lo hi v : Int) (h : lo ≤ hi) : lo ≤ clampInt lo hi v ∧ clampInt lo hi v ≤ hi := by
  unfold clampInt; split_ifs <;> omega

theorem clampNat_eq (lo hi v : Nat) (h : lo ≤ hi) : clampNat lo hi v = max lo (min hi v) := by
  unfold clampNat; split_ifs <;> omega

/-! ## Time -/

theorem elapse_running (n : Nat) (s : State) (h : s.phase = .running) :
    elapse n s = { s with tick := s.tick + n, tb := s.tb.advance n } := by simp [elapse, inReset, h]

theorem elapse_inReset (n : Nat) (s : State) (h : s.phase ≠ .running) :
    elapse n s = { s with tick := s.tick + n } := by simp [elapse, inReset, h]

/-- Time that passes changes the tick and the clock alone. -/
theorem elapse_spec (n : Nat) (s : State) :
    ∃ tb, elapse n s = { s with tick := s.tick + n, tb := tb } ∧ (tb = s.tb ∨ tb = s.tb.advance n) := by
  unfold elapse
  split
  · exact ⟨s.tb, rfl, .inl rfl⟩
  · exact ⟨_, rfl, .inr rfl⟩

/-- Waiting for an instant ends at it, or at once where it has passed. -/
theorem waitUntil_instant (t : Nat) (s : State) : (waitUntil t s).tick = max s.tick t := by
  simp only [waitUntil, elapse_tick]; omega

/-- Outside a replay the part in hand falls now. -/
theorem partTime_now (s : State) (h : s.asOf = none) : partTime s = s.tb.timeValue := by simp [partTime, h]

/-- The clock of `n` ticks ago is the one that `n` ticks bring to what stands now. -/
theorem timeAgo_advance (tb : Timebase) (n : Nat) (hv : tb.timeValue < 2 ^ 48) (hs : tb.subMs < 10000) :
    (tb.advance n).timeAgo n = tb.timeValue := by
  simp only [Timebase.timeAgo, Timebase.advance]
  omega

/-! ## The completion queue -/

/-- Issuing the head of the queue changes nothing but the access in progress. -/
theorem pump_spec (s : State) : ∃ h, pump s = { s with orders := { s.orders with head := h } } ∧
    (h = s.orders.head ∨ canAccess s = true ∧ h = some { base := s.port.exbase, issuedAt := s.tick }) := by
  unfold pump
  split
  · next hc => exact ⟨_, rfl, .inr ⟨by simp_all, rfl⟩⟩
  · exact ⟨s.orders.head, rfl, .inl rfl⟩

/-- A completion changes the order unit alone: it marks the entry completed and adds one write, or does nothing. -/
theorem complete_spec (e : Fin 16) (failed : Bool) (code : ResultCode) (value : Word64) (time : Nat) (s : State) :
    complete e failed code value time s = s ∨ ∃ f h, s.inFlight e = some f ∧ f.completed = false ∧
      complete e failed code value time s = { s with orders := { s.orders with
        inFlight := s.orders.inFlight.map (fun g => if g.entry = e then { g with completed := true } else g)
        queue := s.orders.queue ++ [.completion e { failed, code, value, time, tag := f.tag } false]
        head := h } } := by
  unfold complete
  split
  · exact .inl rfl
  · next f hf =>
    split
    · exact .inl rfl
    · next hc =>
      obtain ⟨h, hp, -⟩ := pump_spec { s with orders := { s.orders with
        inFlight := s.orders.inFlight.map (fun g => if g.entry = e then { g with completed := true } else g)
        queue := s.orders.queue ++ [.completion e { failed, code, value, time, tag := f.tag } false] } }
      exact .inr ⟨f, h, hf, by simpa using hc, hp⟩

/-- A completion changes the order unit alone. -/
theorem complete_orders_only (e : Fin 16) (failed : Bool) (code : ResultCode) (value : Word64) (time : Nat) (s : State) :
    ∃ o, complete e failed code value time s = { s with orders := o } := by
  rcases complete_spec e failed code value time s with h | ⟨_, _, _, _, h⟩
  · exact ⟨s.orders, h⟩
  · exact ⟨_, h⟩

/-- Completions in turn change the order unit alone. -/
theorem foldl_completeOk {α : Type} (entry : α → Fin 16) (value : State → α → Word64) (time : State → Nat) (l : List α)
    (s : State) : ∃ o, l.foldl (fun s a => completeOk (entry a) (value s a) (time s) s) s = { s with orders := o } := by
  refine foldl_keeps (fun t => ∃ o, t = { s with orders := o }) _ ?_ l s ⟨s.orders, rfl⟩
  rintro _ a ⟨o, rfl⟩
  obtain ⟨o', h⟩ := complete_orders_only (entry a) false .ok (value { s with orders := o } a)
    (time { s with orders := o }) { s with orders := o }
  exact ⟨o', h⟩

theorem foldl_completeFail {α : Type} (entry : α → Fin 16) (code : ResultCode) (time : State → Nat) (l : List α)
    (s : State) : ∃ o, l.foldl (fun s a => completeFail (entry a) code (time s) s) s = { s with orders := o } := by
  refine foldl_keeps (fun t => ∃ o, t = { s with orders := o }) _ ?_ l s ⟨s.orders, rfl⟩
  rintro _ a ⟨o, rfl⟩
  obtain ⟨o', h⟩ := complete_orders_only (entry a) true code 0 (time { s with orders := o }) { s with orders := o }
  exact ⟨o', h⟩

/-! ## Orders -/

/-- The order found for an entry is that entry's. -/
theorem inFlight_entry (s : State) (e : Fin 16) (f : InFlight) (h : s.inFlight e = some f) : f.entry = e := by
  simpa using List.find?_some h

/-- The command of an order kind, at the order at the front of what is due: the order is carried out, and then what
follows it. -/
theorem perform_handsOver (k : Nat) (s : State) (e : Fin 16) (ds : List Due) (f : InFlight)
    (hd : s.due = .handOver e :: ds) (hf : s.inFlight e = some f) (hk : f.kind = k) (h1 : 1 ≤ k) (h2 : k ≤ 10) :
    perform (handsOver k e) s = advance (carryOut f { s with due := ds }) := by
  have hf' : State.inFlight { s with due := ds } e = some f := hf
  rw [perform_front _ s _ ds hd (by simp [State.orderKind, hf', hk, h1, h2])
    (by simp [handsOver, State.orderKind, hf', hk])]
  simp [handOver, hf']

/-- The in-flight order and the TAKEN write that taking an entry adds. -/
def takenOrder (table : List Byte) (e : Fin 16) : InFlight :=
  { entry := e, kind := entryKind (tableEntry table e.val), tag := entryTag (tableEntry table e.val)
    params := entryParams (tableEntry table e.val) }

theorem takeEntry_spec (table : List Byte) (s : State) (e : Fin 16) :
    ∃ h, takeEntry table s e = { s with orders := { s.orders with
      head := h, inFlight := s.orders.inFlight ++ [takenOrder table e], queue := s.orders.queue ++ [.taken e] } } := by
  obtain ⟨h, hp, -⟩ := pump_spec { s with orders := { s.orders with
    inFlight := s.orders.inFlight ++ [takenOrder table e], queue := s.orders.queue ++ [.taken e] } }
  exact ⟨h, hp⟩

/-- Taking entries in turn adds their orders and their TAKEN writes, in that order. -/
theorem foldl_takeEntry (table : List Byte) : ∀ (l : List (Fin 16)) (s : State),
    ∃ h, l.foldl (takeEntry table) s = { s with orders := { s.orders with
      head := h
      inFlight := s.orders.inFlight ++ l.map (takenOrder table)
      queue := s.orders.queue ++ l.map (fun e => .taken e) } }
  | [], s => ⟨s.orders.head, by simp⟩
  | e :: l, s => by
    obtain ⟨h, hh⟩ := takeEntry_spec table s e
    obtain ⟨h', hh'⟩ := foldl_takeEntry table l (takeEntry table s e)
    exact ⟨h', by rw [List.foldl_cons, hh', hh]; simp⟩

/-- The RESET completions of a soft reset change the order unit alone. -/
theorem resetCompletions_spec (s : State) : ∃ o, resetCompletions s = { s with orders := o } := by
  unfold resetCompletions
  split
  · obtain ⟨o, h⟩ := foldl_completeFail (fun e => e) .reset eventTime
      ((List.finRange 16).filter (fun e => s.orders.inFlight.any (fun f => f.entry = e && f.ended))) s
    simp only [h]
    exact ⟨_, rfl⟩
  · exact ⟨s.orders, rfl⟩

/-- Taking: the orders and their TAKEN writes are added, and the orders are handed over before what is still due. -/
theorem takeOrders_spec (table : List Byte) (s : State) : ∃ h, takeOrders table s =
    { resetCompletions s with
      orders := { (resetCompletions s).orders with
        head := h
        inFlight := (resetCompletions s).orders.inFlight ++ (takenEntries (resetCompletions s) table).map (takenOrder table)
        queue := (resetCompletions s).orders.queue ++ (takenEntries (resetCompletions s) table).map (fun e => .taken e) }
      due := (takenEntries (resetCompletions s) table).map Due.handOver ++ s.due } := by
  obtain ⟨h, hh⟩ := foldl_takeEntry table (takenEntries (resetCompletions s) table) (resetCompletions s)
  obtain ⟨o, ho⟩ := resetCompletions_spec s
  refine ⟨h, ?_⟩
  simp only [takeOrders, hh, pushDue]
  rw [ho]

/-- A capture touches the order unit and the snapshots alone. -/
theorem captureSnapshot_spec (e : Fin 16) (s : State) : ∃ o ps, captureSnapshot e s = { s with
    orders := o, port := { s.port with snapshots := ps } } := by
  unfold captureSnapshot
  cases s.port.snapshots.find? (fun p => p.entry = e && p.image.isNone) with
  | none => exact ⟨s.orders, s.port.snapshots, rfl⟩
  | some p =>
    simp only
    split_ifs
    · exact ⟨s.orders, _, rfl⟩
    · obtain ⟨o, h⟩ := complete_orders_only e true .busFault 0 (eventTime s)
        { s with port := { s.port with snapshots := s.port.snapshots.filter (fun p => p.entry ≠ e) } }
      exact ⟨o, _, h⟩

/-- The end of an order at its event touches the order unit, the snapshots and what is to be written of them alone. -/
theorem finishOrder_spec (f : Finishing) (s : State) : ∃ o ps, finishOrder s f = { s with
    orders := o, port := { s.port with snapshots := ps } } := by
  cases f with
  | tariff e =>
    obtain ⟨o, h⟩ := complete_orders_only e false .ok (BitVec.ofNat 64 s.ic.activeSlot) (eventTime s) s
    exact ⟨o, s.port.snapshots, h⟩
  | read e n =>
    rw [show finishOrder s (.read e n) = completeRead e n s from rfl]
    unfold completeRead
    split
    · next v _ =>
      obtain ⟨o, h⟩ := complete_orders_only e false .ok v (eventTime s) s
      exact ⟨o, s.port.snapshots, h⟩
    · obtain ⟨o, h⟩ := complete_orders_only e true .badParam 0 (eventTime s) s
      exact ⟨o, s.port.snapshots, h⟩
  | offset e ch stored =>
    obtain ⟨o, h⟩ := complete_orders_only e false .ok
      (signedValue (if activatedHere s then configuredOffset s.store ch else stored)) (eventTime s) s
    exact ⟨o, s.port.snapshots, h⟩
  | image e =>
    rw [show finishOrder s (.image e) = finishSnapshot e s from rfl]
    unfold finishSnapshot
    simp only
    split_ifs
    · exact ⟨s.orders, _, rfl⟩
    · exact captureSnapshot_spec e (fixHead e s)

/-- The orders that finish with an event touch the order unit, the snapshots and the event alone. -/
theorem finishOrders_spec (s : State) : ∃ o ps, finishOrders s = { s with
    orders := o, port := { s.port with snapshots := ps }, event := s.event.map (fun ev => { ev with finishing := [] }) } := by
  unfold finishOrders
  cases he : s.event with
  | none => exact ⟨s.orders, s.port.snapshots, by cases s; cases he; rfl⟩
  | some ev =>
    have start : modEvent (fun ev => { ev with finishing := [] }) s =
        { s with event := some { ev with finishing := [] } } := by rw [modEvent, he]; rfl
    simp only [start]
    refine foldl_keeps (fun t => ∃ o ps, t = { s with
      orders := o, port := { s.port with snapshots := ps }, event := some { ev with finishing := [] } }) _ ?_ _ _
      ⟨s.orders, s.port.snapshots, rfl⟩
    rintro _ f ⟨o, ps, rfl⟩
    obtain ⟨o', ps', h⟩ := finishOrder_spec f { s with
      orders := o, port := { s.port with snapshots := ps }, event := some { ev with finishing := [] } }
    exact ⟨o', ps', h⟩

/-! ## A write of ENGCTL -/

/-- A RUN field moves RUN, the measurement state, START_REFUSED and the cause START alone; at RUN's present level it does
not act. -/
theorem writeRun_spec (run : Bool) (s : State) :
    (run = s.port.run → writeRun run s = s) ∧ ∃ r m refused cs, writeRun run s = { s with port := { s.port with
      run := r, meas := m, startRefused := refused, intcause := cs } } ∧
      (cs = s.port.intcause ∨ cs = s.port.intcause ||| (1#9 <<< 8)) := by
  constructor
  · rintro rfl; unfold writeRun setRun clearRun; cases s.port.run <;> simp
  · cases run
    · show ∃ r m refused cs, clearRun s = _ ∧ _
      unfold clearRun
      split
      · exact ⟨_, _, _, _, rfl, .inl rfl⟩
      · split
        · exact ⟨_, _, _, _, rfl, .inr rfl⟩
        · exact ⟨_, _, _, _, rfl, .inr rfl⟩
        · exact ⟨_, _, _, _, rfl, .inl rfl⟩
    · show ∃ r m refused cs, setRun s = _ ∧ _
      unfold setRun
      split
      · exact ⟨_, _, _, _, rfl, .inl rfl⟩
      · split
        · split <;> exact ⟨_, _, _, _, rfl, .inr rfl⟩
        · exact ⟨_, _, _, _, rfl, .inr rfl⟩
        · exact ⟨_, _, _, _, rfl, .inl rfl⟩

/-- A RESUME moves the exchange state and the write at the head of the completion queue alone, and by BUSFAULT and the
exchange state alone. -/
theorem resumeExchange_spec (s : State) : ∃ x h, resumeExchange s = { s with
    orders := { s.orders with head := h }, port := { s.port with exchange := x } } ∧
    ((s.port.exchange = .faulted ∧ causeSet .busfault s = false ∧ x = .online) ∨
      x = s.port.exchange ∧ h = s.orders.head) := by
  unfold resumeExchange
  split
  · next hc =>
    obtain ⟨h, hp, -⟩ := pump_spec { s with port := { s.port with exchange := .online } }
    exact ⟨.online, h, hp, .inl (by simpa using hc)⟩
  · exact ⟨_, _, rfl, .inr ⟨rfl, rfl⟩⟩

/-- A RUN field leaves BUSFAULT as it is. -/
theorem busfault_writeRun (run : Bool) (s : State) : causeSet .busfault (writeRun run s) = causeSet .busfault s := by
  obtain ⟨-, r, m, refused, cs, h, hc⟩ := writeRun_spec run s
  rw [h]
  rcases hc with rfl | rfl
  · rfl
  · simp [causeSet, IntCause.bit]

/-- A RUN field looks at nothing of the order unit and the exchange state. -/
theorem writeRun_frame (run : Bool) (s : State) (o : OrderUnit) (x : Exchange) :
    writeRun run { s with orders := o, port := { s.port with exchange := x } } =
      { writeRun run s with orders := o, port := { (writeRun run s).port with exchange := x } } := by
  cases run
  · show clearRun _ = { clearRun s with orders := o, port := { (clearRun s).port with exchange := x } }
    simp only [clearRun]
    split
    · rfl
    · split <;> rfl
  · show setRun _ = { setRun s with orders := o, port := { (setRun s).port with exchange := x } }
    simp only [setRun]
    split
    · rfl
    · split
      · split <;> rfl
      · rfl
      · rfl

/-- R197: RUN and RESUME of one write affect different state, so their order makes no difference. -/
theorem resumeExchange_writeRun (run : Bool) (s : State) :
    resumeExchange (writeRun run s) = writeRun run (resumeExchange s) := by
  have hb := busfault_writeRun run s
  obtain ⟨-, r, m, refused, cs, hw, -⟩ := writeRun_spec run s
  have hx : (writeRun run s).port.exchange = s.port.exchange := by rw [hw]
  unfold resumeExchange
  rw [hb, hx]
  split
  · have hp : ∀ t : State, pump t = { t with orders := (pump t).orders } := fun t => by
      obtain ⟨h, e, -⟩ := pump_spec t; rw [e]
    have ho : (pump { writeRun run s with port := { (writeRun run s).port with exchange := .online } }).orders =
        (pump { s with port := { s.port with exchange := .online } }).orders := by
      rw [hw]; simp only [pump, canAccess]; split_ifs <;> rfl
    rw [hp { writeRun run s with port := _ }, hp { s with port := _ }, ho]
    exact (writeRun_frame run s _ .online).symm
  · rfl

/-- R197: with SRST a write of ENGCTL is the soft reset, whatever else it carries. -/
@[simp] theorem writeEngctl_srst (run resume : Bool) (s : State) : writeEngctl run resume true s = softReset s := rfl

@[simp] theorem writeEngctl_run (run : Bool) (s : State) : writeEngctl run false false s = writeRun run s := rfl

@[simp] theorem writeEngctl_resume (run : Bool) (s : State) :
    writeEngctl run true false s = resumeExchange (writeRun run s) := rfl

/-! ## Bus accesses -/

/-- A confirming read lies in the run it confirms. -/
theorem confirmingPlace_spec (run : Nat × Nat) (h : 0 < run.2) :
    ∃ k, 1 ≤ k ∧ k ≤ run.2 ∧ confirmingPlace run = run.1 + run.2 - k :=
  ⟨clampNat 1 run.2 (Config.confirmingReadBytes run.2), by rw [clampNat_eq _ _ _ h]; omega,
    by rw [clampNat_eq _ _ _ h]; omega, rfl⟩

/-- The place of a write of a group: the offset given, inside the group's runs. -/
theorem accessPlace_write (op : BusOp) (h : readsOnly op = false) (off p : Nat) (s : State) :
    accessPlace op .write off s = some p ↔ p = off ∧ ∃ r ∈ groupRuns op s, r.1 ≤ off ∧ off < r.1 + r.2 := by
  simp only [accessPlace, h]
  split
  · next hr => simp at hr; constructor
               · rintro h; cases h; exact ⟨rfl, by simpa using hr⟩
               · rintro ⟨rfl, _⟩; rfl
  · next hr => simp at hr; simp; rintro rfl a b hm h1; exact hr a b hm h1

/-! ## Channels and links -/

/-- A change of offset touches its channel alone. -/
theorem requestOffset_spec (ch : Nat) (v : Int) (idle late : Bool) (s : State) :
    ∃ c, requestOffset ch v idle late s = s.setChannel ch c ∧ c.stuck = (s.channel ch).stuck ∧
      c.calibration = (s.channel ch).calibration ∧ c.lastRms = (s.channel ch).lastRms := by
  unfold requestOffset takeOffset
  split <;> exact ⟨_, rfl, rfl, rfl, rfl⟩

/-- One window of a calibration touches its channel and the order unit alone, and leaves the last window RMS. -/
theorem calibrationStep_spec (ch number n rms floor : Nat) (sum : Int) (s : State) :
    ∃ c o, calibrationStep ch number n rms floor sum s = { s with channels := s.channels.set ch c, orders := o } ∧
      (ch < s.channels.length → c.lastRms = (s.channel ch).lastRms) := by
  have same : s.channels.set ch (s.channel ch) = s.channels := by
    unfold State.channel
    rcases Nat.lt_or_ge ch s.channels.length with h | h
    · rw [List.getD_eq_getElem _ _ h, List.set_getElem_self]
    · rw [List.set_eq_of_length_le h]
  have stays : ∃ c o, s = { s with channels := s.channels.set ch c, orders := o } ∧
      (ch < s.channels.length → c.lastRms = (s.channel ch).lastRms) := ⟨s.channel ch, s.orders, by rw [same], fun _ => rfl⟩
  unfold calibrationStep
  split
  · exact stays
  · next c hc =>
    split_ifs
    · exact stays
    · unfold failCalibration
      rw [hc]
      obtain ⟨o, h⟩ := complete_orders_only c.entry true .loadPresent 0 (eventTime s)
        (s.setChannel ch { s.channel ch with calibration := none })
      exact ⟨_, o, h, fun _ => rfl⟩
    · obtain ⟨o, h⟩ := complete_orders_only c.entry false .ok
        (BitVec.ofInt 64 (clampInt (-2047) 2047 (roundHalfAway (c.sum + sum) (5 * n)))) (eventTime s)
        (s.setChannel ch { s.channel ch with calibration := none })
      simp only [completeOk, h]
      obtain ⟨c', hr, -, -, hl⟩ := requestOffset_spec ch (clampInt (-2047) 2047 (roundHalfAway (c.sum + sum) (5 * n)))
        false false { s.setChannel ch { s.channel ch with calibration := none } with orders := o }
      refine ⟨c', o, by rw [hr]; simp [State.setChannel], fun hlt => hl.trans ?_⟩
      simp [State.channel, State.setChannel, hlt]
    · exact ⟨_, s.orders, rfl, fun _ => rfl⟩

/-- The failure of a calibration touches the channels and the order unit alone. -/
theorem failCalibration_spec (code : ResultCode) (ch : Nat) (s : State) :
    ∃ cs o, failCalibration code ch s = { s with channels := cs, orders := o } ∧ cs.length = s.channels.length := by
  unfold failCalibration
  split
  · next c hc =>
    obtain ⟨o, h⟩ := complete_orders_only c.entry true code 0 (eventTime s)
      (s.setChannel ch { s.channel ch with calibration := none })
    exact ⟨s.channels.set ch _, o, h, by simp⟩
  · exact ⟨s.channels, s.orders, rfl, rfl⟩

theorem failCalibrationsOf_spec (l : Fin 4) (s : State) :
    ∃ cs o, failCalibrationsOf l s = { s with channels := cs, orders := o } ∧ cs.length = s.channels.length := by
  refine foldl_keeps (fun t => ∃ cs o, t = { s with channels := cs, orders := o } ∧ cs.length = s.channels.length) _ ?_
    (List.range 7) s ⟨s.channels, s.orders, rfl, rfl⟩
  rintro _ c ⟨cs, o, rfl, hl⟩
  obtain ⟨cs', o', h, hl'⟩ := failCalibration_spec .badState (channelOf l.val c) { s with channels := cs, orders := o }
  exact ⟨cs', o', h, hl'.trans hl⟩

/-- The failure of a restart touches the links and the order unit alone. -/
theorem failRestart_spec (l : Fin 4) (code : ResultCode) (s : State) :
    ∃ ls o, failRestart l code s = { s with links := ls, orders := o } ∧ ls.length = s.links.length := by
  unfold failRestart
  split
  · next r hr =>
    obtain ⟨o, h⟩ := complete_orders_only r.entry true code 0 (eventTime s)
      (s.setLink l { s.link l with restart := none })
    exact ⟨s.links.set l.val _, o, h, by simp⟩
  · exact ⟨s.links, s.orders, rfl, rfl⟩

/-- A drop touches the links, the channels, the order unit and INTCAUSE alone. -/
theorem dropLink_spec (l : Fin 4) (reason : DropReason) (s : State) :
    ∃ ls cs o, dropLink l reason s = { s with
      links := ls, channels := cs, orders := o
      port := { s.port with intcause := s.port.intcause ||| (1#9 <<< 5) } } ∧
      ls.length = s.links.length ∧ cs.length = s.channels.length := by
  unfold dropLink
  obtain ⟨cs, o, h, hl⟩ := failCalibrationsOf_spec l (request .link (s.setLink l
    { fillLastGood (s.tb.strobe + 1) (s.link l) with
      state := .seeking, dropReason := reason, drops := (fillLastGood (s.tb.strobe + 1) (s.link l)).drops + 1
      failRun := 0, syncRun := 0, syncLast := none, lastGood := List.replicate 7 none }))
  exact ⟨_, cs, o, h, by simp [State.setLink], hl⟩

/-! ## Events and causes -/

/-- The lock step changes the timebase, and requests LOCK where the state moves into or out of LOCKED. -/
theorem lockStep_spec (s : State) : ∃ tb, lockStep s = requestIf (lockMoves s.tb.lock tb.lock) .lock
    { s with tb := { tb with winLocked := tb.lock = .locked } } ∧ tb = if s.halting then lockReset s.tb else lockNext s.tb :=
  ⟨_, rfl, rfl⟩

/-- A burst's action touches the interval controller and INTCAUSE alone, and 4 to 6 pulses mark a demand reset that comes
after the event in hand. -/
theorem burstAction_spec (n : Nat) (s : State) : ∃ ic cs event, burstAction n s = { s with
    ic := ic, port := { s.port with intcause := cs }, event := event } ∧
    ic.seq = s.ic.seq ∧ ic.activeSlot = s.ic.activeSlot ∧
    event = if 4 ≤ n ∧ n ≤ 6 then s.event.map (fun ev => { ev with lateDemand := true }) else s.event := by
  unfold burstAction markMalformed modEvent
  rcases Nat.lt_or_ge n 7 with h | h
  · interval_cases n <;> exact ⟨_, _, _, rfl, rfl, rfl, rfl⟩
  · have h0 : n ≠ 0 := by omega
    have h1 : n ≠ 1 := by omega
    have h3 : ¬ n ≤ 3 := by omega
    have h6 : ¬ n ≤ 6 := by omega
    simp only [h0, h1, h3, h6, and_false, if_false]
    exact ⟨_, _, s.event, rfl, rfl, rfl, rfl⟩

/-! ## Closes and files -/

/-- A close that is passed on reaches the accounting, statistics and filing units; without an open interval nothing
happens. -/
theorem passClose_spec (cs : CauseSet) (t : Nat) (s : State) :
    (s.ic.current = none → passClose cs t s = s) ∧
      ∀ o, s.ic.current = some o → passClose cs t s = { s with
        ic := { s.ic with current := none }
        acct := { s.acct with closes := s.acct.closes ++ [closeOf s.ic.seq o cs t] }
        stats := { s.stats with closes := s.stats.closes ++ [closeOf s.ic.seq o cs t] }
        filing := { s.filing with
          assemblies := s.filing.assemblies ++ [{ close := closeOf s.ic.seq o cs t }] } } := by
  constructor
  · intro h; simp [passClose, h]
  · intro o h; simp [passClose, h]

/-- A discard touches the window store and the accumulators alone. -/
theorem discardWindow_spec (s : State) : ∃ accs, discardWindow s = { s with
    spectral := {}, stats := { s.stats with accs := accs } } := by
  unfold discardWindow
  split
  · exact ⟨s.stats.accs, rfl⟩
  · refine foldl_keeps (fun t => ∃ accs, t = { s with spectral := {}, stats := { s.stats with accs := accs } }) _ ?_ _ _
      ⟨s.stats.accs, rfl⟩
    rintro _ p ⟨accs, rfl⟩
    exact ⟨_, rfl⟩

/-- The report of a close completes the orders that wait for it and forgets them; nothing else changes. -/
theorem reportClose_spec (s : State) (seq : Word64) : ∃ o, reportClose s seq = { s with
    ic := { s.ic with closeOrders := s.ic.closeOrders.filter (fun c => c.2 ≠ seq) }, orders := o } := by
  obtain ⟨o, h⟩ := foldl_completeOk (fun c : Fin 16 × Word64 => c.1) (fun _ _ => seq) partTime
    (s.ic.closeOrders.filter (fun c => c.2 = seq))
    { s with ic := { s.ic with closeOrders := s.ic.closeOrders.filter (fun c => c.2 ≠ seq) } }
  exact ⟨o, h⟩

/-- The reports of a file's closes touch the waiting CLOSE_INTERVAL orders and the order unit alone. -/
theorem reportFile_spec (f : IntervalFile) (s : State) : ∃ c o, reportFile f s = { s with
    ic := { s.ic with closeOrders := c }, orders := o } := by
  refine foldl_keeps (fun t => ∃ c o, t = { s with ic := { s.ic with closeOrders := c }, orders := o }) _ ?_ _ _
    ⟨s.ic.closeOrders, s.orders, rfl⟩
  rintro _ q ⟨c, o, rfl⟩
  obtain ⟨o', h⟩ := reportClose_spec { s with ic := { s.ic with closeOrders := c }, orders := o } q
  exact ⟨_, o', h⟩

/-- A file that is held leaves the transit as it is and requests HOLD. -/
theorem holdFile_spec (f : IntervalFile) (s : State) : ∃ c o, holdFile f s = { s with
    filing := { s.filing with held := some (reported f) }, ic := { s.ic with closeOrders := c }, orders := o
    port := { s.port with intcause := s.port.intcause ||| (1#9 <<< 1) } } := by
  obtain ⟨c, o, h⟩ := reportFile_spec f { s with filing := { s.filing with held := some (reported f) } }
  exact ⟨c, o, by unfold holdFile; rw [h]; rfl⟩

/-- A transit that ends without a page leaves its file in the holding file and nothing in transit. -/
theorem returnTransit_spec (quiet : Bool) (s : State) :
    (s.filing.transit = none → returnTransit quiet s = s) ∧
      (s.filing.transit ≠ none → ∃ f c o cs, returnTransit quiet s = { s with
        filing := f, ic := { s.ic with closeOrders := c }, orders := o, port := { s.port with intcause := cs } } ∧
        f.transit = none ∧ f.held ≠ none ∧ f.assemblies = s.filing.assemblies ∧
        (quiet = true → cs = s.port.intcause)) := by
  constructor
  · intro h; simp [returnTransit, h]
  · intro h
    obtain ⟨t, ht⟩ := Option.ne_none_iff_exists'.mp h
    simp only [returnTransit, ht]
    generalize hX : ({ s with filing := _ } : State) = X
    obtain ⟨c, o, hr⟩ := reportFile_spec t.file X
    rw [hr]
    subst hX
    unfold requestIf
    split
    · next hq => exact ⟨_, c, o, _, rfl, rfl, by simp, rfl, fun hq' => by simp [hq'] at hq⟩
    · exact ⟨_, c, o, s.port.intcause, rfl, rfl, by simp, rfl, fun _ => rfl⟩

/-- The parts of a close that is finished go to its assembly; nothing of the timebase, the links or the port changes. -/
theorem acctFinishStep_spec (s : State) :
    ∃ a f d, acctFinishStep s = { s with acct := a, filing := { s.filing with assemblies := f }, due := d } := by
  unfold acctFinishStep fileReady addParts
  split
  · simp only []
    split <;> exact ⟨_, _, _, rfl⟩
  · exact ⟨s.acct, s.filing.assemblies, s.due, rfl⟩

theorem statFinishStep_spec (s : State) :
    ∃ st f d, statFinishStep s = { s with stats := st, filing := { s.filing with assemblies := f }, due := d } := by
  unfold statFinishStep fileReady addParts statAfterClose statOpen
  split
  · simp only []
    split_ifs <;> (try split) <;> exact ⟨_, _, _, rfl⟩
  · exact ⟨s.stats, s.filing.assemblies, s.due, rfl⟩

end Sys2Proof.Machine
end

