-- ==== Sys2Proof/Laws/Boundaries.lean ====
section
/-! SUPPORT. What a boundary ends, said once: the calibrations and restarts that a halt, a link drop or a restart fails, each
by its order's completion, in turn, and what the end of a window leaves of a link, of a channel and of the timebase. -/

namespace Sys2Proof.Machine

/-! ## Completions by BAD_STATE and the like, in turn -/

/-- What a completion leaves in the order unit rests on the order unit, the exchange state, the base and the tick. -/
theorem complete_orders_congr (e : Fin 16) (failed : Bool) (code : ResultCode) (value : Word64) (time : Nat)
    (s t : State) (ho : s.orders = t.orders) (hx : s.port.exchange = t.port.exchange)
    (hb : s.port.exbase = t.port.exbase) (ht : s.tick = t.tick) :
    (complete e failed code value time s).orders = (complete e failed code value time t).orders := by
  unfold complete State.inFlight pump canAccess
  rw [ho]
  split
  · exact ho
  · split
    · exact ho
    · simp only [hx, hb, ht]; split_ifs <;> rfl

/-- A completion touches the order unit alone. -/
theorem complete_only (e : Fin 16) (failed : Bool) (code : ResultCode) (value : Word64) (time : Nat) (s : State) :
    complete e failed code value time s = { s with orders := (complete e failed code value time s).orders } := by
  obtain ⟨o, h⟩ := complete_orders_only e failed code value time s
  rw [h]

/-- Orders that fail in turn, with one code and at one time value. -/
def failInTurn (code : ResultCode) (time : Nat) (es : List (Fin 16)) (s : State) : State :=
  es.foldl (fun u e => complete e true code 0 time u) s

/-- Failing in turn touches the order unit alone. -/
theorem failInTurn_only (code : ResultCode) (time : Nat) (es : List (Fin 16)) (s : State) :
    failInTurn code time es s = { s with orders := (failInTurn code time es s).orders } := by
  obtain ⟨o, h⟩ := foldl_completeFail (fun e => e) code (fun _ => time) es s
  have : failInTurn code time es s = { s with orders := o } := h
  rw [this]

/-- What failing in turn leaves in the order unit rests on the order unit, the exchange state, the base and the tick. -/
theorem failInTurn_congr (code : ResultCode) (time : Nat) : ∀ (es : List (Fin 16)) (s t : State), s.orders = t.orders →
    s.port.exchange = t.port.exchange → s.port.exbase = t.port.exbase → s.tick = t.tick →
    (failInTurn code time es s).orders = (failInTurn code time es t).orders
  | [], _, _, ho, _, _, _ => ho
  | e :: es, s, t, ho, hx, hb, ht => by
    obtain ⟨o, hs⟩ := complete_orders_only e true code 0 time s
    obtain ⟨o', ht'⟩ := complete_orders_only e true code 0 time t
    refine failInTurn_congr code time es (complete e true code 0 time s) (complete e true code 0 time t)
      (complete_orders_congr e true code 0 time s t ho hx hb ht) ?_ ?_ ?_ <;> rw [hs, ht'] <;> assumption

/-- Failing in turn, one list after another. -/
theorem failInTurn_append (code : ResultCode) (time : Nat) (a b : List (Fin 16)) (s : State) :
    failInTurn code time (a ++ b) s = failInTurn code time b (failInTurn code time a s) := List.foldl_append

/-- The order that waits for a calibration. -/
def Channel.calibrationEntry (c : Channel) : List (Fin 16) := c.calibration.toList.map (fun x => x.entry)

/-- The orders that wait for the calibrations of a link's channels, by channel number. -/
def calibrationEntries (l : Fin 4) (s : State) : List (Fin 16) :=
  (List.range 7).flatMap (fun pos => (s.channel (channelOf l.val pos)).calibrationEntry)

/-- The order that waits for a link's restart. -/
def restartEntry (l : Fin 4) (s : State) : List (Fin 16) := (s.link l).restart.toList.map (fun r => r.entry)

/-- One channel set, with any order unit. -/
theorem channel_set (s : State) (ch n : Nat) (c : Channel) (o : OrderUnit) :
    State.channel { s with channels := s.channels.set n c, orders := o } ch =
      if ch = n ∧ n < s.channels.length then c else s.channel ch := by
  unfold State.channel
  simp only [List.getD_eq_getElem?_getD, List.getElem?_set]
  split_ifs <;> simp_all

/-- The calibration of one channel that fails. -/
theorem failCalibration_eq (code : ResultCode) (ch : Nat) (s : State) :
    failCalibration code ch s = { s with
      channels := s.channels.set ch { s.channel ch with calibration := none }
      orders := (failInTurn code (eventTime s) (s.channel ch).calibrationEntry s).orders } := by
  unfold failCalibration
  cases h : (s.channel ch).calibration with
  | none =>
    have hc : ({ s.channel ch with calibration := none } : Channel) = s.channel ch := by rw [← h]
    have same : s.channels.set ch (s.channel ch) = s.channels := by
      unfold State.channel
      rcases Nat.lt_or_ge ch s.channels.length with h | h
      · rw [List.getD_eq_getElem _ _ h, List.set_getElem_self]
      · rw [List.set_eq_of_length_le h]
    simp only [hc, same]
    simp [Channel.calibrationEntry, h, failInTurn]
  | some c =>
    have := complete_orders_congr c.entry true code 0 (eventTime s) s
      (s.setChannel ch { s.channel ch with calibration := none }) rfl rfl rfl rfl
    simp only [completeFail, Channel.calibrationEntry, h, Option.toList, List.map, failInTurn, List.foldl]
    rw [this]
    exact complete_only c.entry true code 0 (eventTime s) (s.setChannel ch { s.channel ch with calibration := none })

/-- The calibrations of channels that fail in turn. -/
theorem failCalibrations_eq (code : ResultCode) : ∀ (chs : List Nat) (s : State), chs.Nodup →
    ∃ cs, chs.foldl (fun s ch => failCalibration code ch s) s = { s with
      channels := cs
      orders := (failInTurn code (eventTime s) (chs.flatMap (fun ch => (s.channel ch).calibrationEntry)) s).orders } ∧
      cs.length = s.channels.length ∧
      ∀ ch, cs.getD ch {} = if ch ∈ chs then { s.channel ch with calibration := none } else s.channel ch
  | [], s, _ => ⟨s.channels, rfl, rfl, fun ch => by simp [State.channel]⟩
  | n :: chs, s, hn => by
    obtain ⟨hn1, hn2⟩ := List.nodup_cons.mp hn
    obtain ⟨cs, h, hl, hc⟩ := failCalibrations_eq code chs (failCalibration code n s) hn2
    have hf := failCalibration_eq code n s
    have hch : ∀ ch, ch ≠ n → (failCalibration code n s).channel ch = s.channel ch := fun ch hne => by
      rw [hf, channel_set]; simp [hne]
    have hself : (failCalibration code n s).channel n = { s.channel n with calibration := none } := by
      rw [hf, channel_set]
      split_ifs with hlt
      · rfl
      · have : s.channel n = {} := by
          unfold State.channel; rw [List.getD_eq_default]; simp at hlt; exact hlt
        rw [this]
    have hent : chs.flatMap (fun ch => ((failCalibration code n s).channel ch).calibrationEntry) =
        chs.flatMap (fun ch => (s.channel ch).calibrationEntry) :=
      List.flatMap_congr fun ch hm => by rw [hch ch (fun e => hn1 (e ▸ hm))]
    refine ⟨cs, ?_, by rw [hl, hf]; simp, fun ch => ?_⟩
    · rw [List.foldl_cons, h, hent, List.flatMap_cons]
      have et : eventTime (failCalibration code n s) = eventTime s := by rw [hf]; rfl
      have ho : (failInTurn code (eventTime s) (chs.flatMap fun ch => (s.channel ch).calibrationEntry)
          (failCalibration code n s)).orders = (failInTurn code (eventTime s) ((s.channel n).calibrationEntry ++
            chs.flatMap fun ch => (s.channel ch).calibrationEntry) s).orders := by
        have key := failInTurn_only code (eventTime s) (s.channel n).calibrationEntry s
        rw [failInTurn_append]
        refine failInTurn_congr code (eventTime s) _ _ _ ?_ ?_ ?_ ?_ <;> rw [hf, key]
      rw [et, ho, hf]
    · rw [hc ch]
      by_cases e : ch = n
      · subst e; simp [hn1, hself]
      · simp [e, hch ch e]


/-- The calibrations of one link's channels that fail, by channel number. -/
theorem failCalibrationsOf_eq (l : Fin 4) (s : State) :
    ∃ cs, failCalibrationsOf l s = { s with
      channels := cs, orders := (failInTurn .badState (eventTime s) (calibrationEntries l s) s).orders } ∧
      cs.length = s.channels.length ∧
      ∀ ch, cs.getD ch {} = if ch / 7 = l.val then { s.channel ch with calibration := none } else s.channel ch := by
  obtain ⟨cs, h, hl, hc⟩ := failCalibrations_eq .badState ((List.range 7).map (channelOf l.val)) s
    ((List.nodup_range).map (fun a b h => by simpa [channelOf] using h))
  rw [List.foldl_map] at h
  rw [List.flatMap_map] at h
  refine ⟨cs, h, hl, fun ch => ?_⟩
  rw [hc ch]
  have : ch ∈ (List.range 7).map (channelOf l.val) ↔ ch / 7 = l.val := by
    simp only [List.mem_map, List.mem_range, channelOf]
    constructor
    · rintro ⟨a, ha, rfl⟩; omega
    · intro h; exact ⟨ch % 7, Nat.mod_lt _ (by norm_num), by omega⟩
  simp only [this]

/-- The restart of one link that fails. -/
theorem failRestart_eq (l : Fin 4) (code : ResultCode) (s : State) : failRestart l code s = { s with
    links := s.links.set l.val { s.link l with restart := none }
    orders := (failInTurn code (eventTime s) (restartEntry l s) s).orders } := by
  unfold failRestart
  cases h : (s.link l).restart with
  | none =>
    have hc : ({ s.link l with restart := none } : Link) = s.link l := by rw [← h]
    have same : s.links.set l.val (s.link l) = s.links := by
      unfold State.link
      rcases Nat.lt_or_ge l.val s.links.length with h | h
      · rw [List.getD_eq_getElem _ _ h, List.set_getElem_self]
      · rw [List.set_eq_of_length_le h]
    simp only [hc, same]
    simp [restartEntry, h, failInTurn]
  | some r =>
    have := complete_orders_congr r.entry true code 0 (eventTime s) s
      (s.setLink l { s.link l with restart := none }) rfl rfl rfl rfl
    simp only [completeFail, restartEntry, h, Option.toList, List.map, failInTurn, List.foldl]
    rw [this]
    exact complete_only r.entry true code 0 (eventTime s) (s.setLink l { s.link l with restart := none })

/-- R10, R14, R23: what a halt ends on the links of a list, link by link. -/
theorem failInFlight_eq : ∀ (ls : List (Fin 4)) (s : State), ls.Nodup →
    ∃ links cs, ls.foldl (fun s l => failCalibrationsOf l (failRestart l .badState s)) s = { s with
      links := links, channels := cs
      orders := (failInTurn .badState (eventTime s)
        (ls.flatMap (fun l => restartEntry l s ++ calibrationEntries l s)) s).orders } ∧
      links.length = s.links.length ∧ cs.length = s.channels.length ∧
      (∀ i, links.getD i {} = if ∃ l ∈ ls, i = l.val then { s.links.getD i {} with restart := none }
        else s.links.getD i {}) ∧
      (∀ ch, cs.getD ch {} = if ∃ l ∈ ls, ch / 7 = l.val then { s.channel ch with calibration := none } else s.channel ch)
  | [], s, _ => ⟨s.links, s.channels, rfl, rfl, rfl, fun i => by simp, fun ch => by simp [State.channel]⟩
  | n :: ls, s, hn => by
    obtain ⟨hn1, hn2⟩ := List.nodup_cons.mp hn
    have hr := failRestart_eq n .badState s
    obtain ⟨cs1, hc1, hl1, hg1⟩ := failCalibrationsOf_eq n (failRestart n .badState s)
    generalize hu : failCalibrationsOf n (failRestart n .badState s) = u at hc1
    obtain ⟨links, cs, h, hll, hlc, hgl, hgc⟩ := failInFlight_eq ls u hn2
    have et1 : eventTime (failRestart n .badState s) = eventTime s := by rw [hr]; rfl
    have et : eventTime u = eventTime s := by rw [hc1, ← et1]; rfl
    have hcal : ∀ l, calibrationEntries l (failRestart n .badState s) = calibrationEntries l s := fun l => by rw [hr]; rfl
    have huch : ∀ ch, u.channel ch = if ch / 7 = n.val then { s.channel ch with calibration := none } else s.channel ch :=
      fun ch => by
        have := hg1 ch
        rw [show (failRestart n .badState s).channel ch = s.channel ch by rw [hr]; rfl] at this
        rw [← this, hc1]; rfl
    have hulink : ∀ i, u.links.getD i {} = if i = n.val then { s.links.getD i {} with restart := none }
        else s.links.getD i {} := fun i => by
      rw [hc1, hr]
      simp only [List.getD_eq_getElem?_getD, List.getElem?_set, State.link]
      by_cases e : n.val = i
      · subst e
        by_cases hlt : n.val < s.links.length <;> simp [hlt]
      · simp [e, Ne.symm e]
    have hent : ∀ l ∈ ls, restartEntry l u ++ calibrationEntries l u = restartEntry l s ++ calibrationEntries l s := by
      intro l hm
      have hne : l ≠ n := fun e => hn1 (e ▸ hm)
      have hv : l.val ≠ n.val := fun e => hne (Fin.ext e)
      have h1 : restartEntry l u = restartEntry l s := by
        unfold restartEntry State.link; rw [hulink]; simp [hv]
      have h2 : calibrationEntries l u = calibrationEntries l s := by
        unfold calibrationEntries
        refine List.flatMap_congr fun pos hp => ?_
        have : channelOf l.val pos / 7 ≠ n.val := by
          simp only [List.mem_range] at hp; unfold channelOf; omega
        rw [huch]; simp [this]
      rw [h1, h2]
    refine ⟨links, cs, ?_, ?_, ?_, fun i => ?_, fun ch => ?_⟩
    · rw [List.foldl_cons, hu, h, et, List.flatMap_cons, List.flatMap_congr hent]
      have ho : (failInTurn .badState (eventTime s) (ls.flatMap fun l => restartEntry l s ++ calibrationEntries l s)
          u).orders = (failInTurn .badState (eventTime s) (restartEntry n s ++ calibrationEntries n s ++
            ls.flatMap fun l => restartEntry l s ++ calibrationEntries l s) s).orders := by
        rw [failInTurn_append, failInTurn_append]
        have k1 := failInTurn_only .badState (eventTime s) (restartEntry n s) s
        have k2 := failInTurn_only .badState (eventTime s) (calibrationEntries n s)
          (failInTurn .badState (eventTime s) (restartEntry n s) s)
        refine failInTurn_congr _ _ _ _ _ ?_ ?_ ?_ ?_
        · rw [hc1, et1, hcal]
          refine failInTurn_congr _ _ _ _ _ ?_ ?_ ?_ ?_ <;> rw [hr, k1]
        all_goals rw [hc1, hr, k2, k1]
      rw [ho, hc1, hr]
    · rw [hll, hc1, hr]; simp
    · rw [hlc, hc1, hl1, hr]
    · rw [hgl, hulink]
      by_cases e : i = n.val
      · subst e; simp
      · simp [e]
    · rw [hgc, huch]
      by_cases e : ch / 7 = n.val
      · simp [e]
      · simp [e]

/-- R10, R14, R23, R200: measurement reaches HALTED. -/
theorem haltRun_eq (s : State) : ∃ links cs, haltRun s = { s with
    links := links, channels := cs
    orders := (failInTurn .badState (eventTime s)
      (allLinks.flatMap (fun l => restartEntry l s ++ calibrationEntries l s)) s).orders
    spectral := { s.spectral with cap := none }
    tb := { s.tb with freeTickAt := s.tick + 2000000 }
    port := { s.port with meas := .halted, intcause := s.port.intcause ||| (1#9 <<< 8) } } ∧
    links.length = s.links.length ∧ cs.length = s.channels.length ∧
    (∀ i < s.links.length, links.getD i {} = linkDown (s.links.getD i {})) ∧
    (∀ ch < 28, cs.getD ch {} = { s.channel ch with calibration := none }) := by
  obtain ⟨links, cs, h, hll, hlc, hgl, hgc⟩ := failInFlight_eq allLinks s (by decide)
  refine ⟨links.map linkDown, cs, ?_, by simpa using hll, hlc, fun i hi => ?_, fun ch hch => ?_⟩
  · unfold haltRun; rw [h]; rfl
  · have : (links.map linkDown).getD i {} = linkDown (links.getD i {}) := by
      simp [List.getD_eq_getElem?_getD, hll, hi]
    rw [this, hgl]
    split_ifs <;> rfl
  · rw [hgc, if_pos]
    exact ⟨⟨ch / 7, by omega⟩, by
      have : ∀ l : Fin 4, l ∈ allLinks := by decide
      exact this _, rfl⟩

/-! ## The end of a window -/

/-- R2, R8: what the end of a window leaves of a link: of a link that is DOWN, everything. -/
theorem rollLink_eq (tb : Timebase) (k : Link) : rollLink tb k = if k.state = .down then k else { k with
    slots := if k.state = .running then [] else [zeroSlot]
    enteredAt := none
    runningAtStart := decide (k.state = .running)
    substituted := k.substituted + BitVec.ofNat 32 (substCount k.slots)
    prevV1 := lastV1 tb k } := by
  unfold rollLink openRecord
  cases k.state <;> simp

@[simp] theorem rollLink_restart (tb : Timebase) (k : Link) : (rollLink tb k).restart = k.restart := by
  rw [rollLink_eq]; split_ifs <;> rfl

@[simp] theorem rollLink_state (tb : Timebase) (k : Link) : (rollLink tb k).state = k.state := by
  rw [rollLink_eq]; split_ifs <;> rfl

/-- A link of a list on which a function that leaves a default link as it is has acted. -/
theorem getD_map_link (f : Link → Link) (hf : f {} = {}) (ls : List Link) (l : Nat) :
    (ls.map f).getD l {} = f (ls.getD l {}) := by
  simp only [List.getD_eq_getElem?_getD, List.getElem?_map]
  cases ls[l]? with
  | none => exact hf.symm
  | some k => rfl

theorem getD_map_rollLink (tb : Timebase) (ls : List Link) (l : Nat) :
    (ls.map (rollLink tb)).getD l {} = rollLink tb (ls.getD l {}) :=
  getD_map_link _ (by simp [rollLink]) ls l

/-- The marks of the window that ended, taken off a list of channels. -/
theorem getD_map_unmark (cs : List Channel) (ch : Nat) :
    (cs.map (fun c => { c with mark := false })).getD ch {} = { cs.getD ch {} with mark := false } := by
  simp only [List.getD_eq_getElem?_getD, List.getElem?_map]
  cases cs[ch]? <;> rfl

/-- The end of a window at a boundary that does not halt: the whole of what it leaves. -/
theorem closeWindow_eq (s : State) (ev : Event) (h : s.event = some ev) (hh : ev.halting = false) :
    closeWindow s = { s with
      spectral := { s.spectral with decomposing := some (endingWindow ev s) }
      links := s.links.map (rollLink s.tb)
      channels := s.channels.map (fun c => { c with mark := false })
      tb := rollTimebase (endingCrossings s) s.tb
      due := afterWindow (endingWindow ev s) s ++ s.due } := by
  unfold closeWindow
  rw [h]
  simp only [hh, Bool.false_eq_true, if_false, pushDue]
  congr 1
  unfold afterWindow State.channel State.link
  simp only [getD_map_unmark, getD_map_rollLink, rollLink_restart]

/-- The end of a window at the boundary that halts: the halt comes before what the end of the window makes due. -/
theorem closeWindow_halting (s w : State) (ev : Event) (h : s.event = some ev) (hh : ev.halting = true)
    (hw : w = { s with
      spectral := { s.spectral with decomposing := some (endingWindow ev s) }
      links := s.links.map (rollLink s.tb)
      channels := s.channels.map (fun c => { c with mark := false })
      tb := rollTimebase (endingCrossings s) s.tb }) :
    closeWindow s = pushDue (afterWindow (endingWindow ev s) (haltRun w)) (haltRun w) := by
  unfold closeWindow
  split
  · simp_all
  · rename_i e he
    obtain rfl : e = ev := by rw [h] at he; exact (Option.some.inj he).symm
    simp only [if_pos hh, hw]

end Sys2Proof.Machine
end

