-- ==== Sys2Proof/Laws/Cosines.lean ====
section
/-! SUPPORT. The fixed-point table of cosines of the spectral unit: every entry lies within 2^24 of its cosine, times 2^p. -/

namespace Sys2Proof.Machine

/-! ## The integer square root -/

theorem isqrtAux_spec : ∀ (fuel n : Nat), n < 4 ^ fuel →
    isqrtAux fuel n * isqrtAux fuel n ≤ n ∧ n < (isqrtAux fuel n + 1) * (isqrtAux fuel n + 1)
  | 0, n, h => by simp [isqrtAux] at h ⊢; omega
  | fuel + 1, n, h => by
    have hd : n / 4 < 4 ^ fuel := by rw [Nat.div_lt_iff_lt_mul (by norm_num)]; rwa [pow_succ] at h
    obtain ⟨h1, h2⟩ := isqrtAux_spec fuel (n / 4) hd
    generalize hr : isqrtAux fuel (n / 4) = r at h1 h2
    have h3 : 4 * (n / 4) ≤ n ∧ n < 4 * (n / 4) + 4 := by omega
    have h5 : n < (2 * r + 2) * (2 * r + 2) := by nlinarith
    have h6 : 2 * r * (2 * r) ≤ n := by nlinarith
    unfold isqrtAux
    by_cases h0 : n = 0
    · simp [h0]
    · simp only [h0, if_false, hr]
      by_cases hc : (2 * r + 1) * (2 * r + 1) ≤ n
      · rw [if_pos hc]; exact ⟨hc, h5⟩
      · rw [if_neg hc]; exact ⟨h6, by omega⟩

theorem isqrt_bounds (n : Nat) : isqrt n * isqrt n ≤ n ∧ n < (isqrt n + 1) * (isqrt n + 1) := by
  refine isqrtAux_spec _ n ?_
  have h : n < 2 ^ (n.log2 + 1) := Nat.lt_log2_self
  refine h.trans_le ?_
  rw [show (4 : Nat) = 2 ^ 2 by rfl, ← pow_mul]
  exact Nat.pow_le_pow_right (by norm_num) (by omega)

/-- The root of a whole number lies within 1 below the exact root. -/
theorem isqrt_near (n : Nat) : (isqrt n : ℝ) ≤ √n ∧ √n < isqrt n + 1 := by
  obtain ⟨h1, h2⟩ := isqrt_bounds n
  constructor
  · apply Real.le_sqrt_of_sq_le; rw [pow_two]; exact_mod_cast h1
  · rw [Real.sqrt_lt' (by positivity), pow_two]; exact_mod_cast h2

/-! ## The cosines -/

theorem sqrt_near (x y : ℝ) (hx : 0 ≤ x) (hy : 0 < y) : |√x - y| ≤ |x - y ^ 2| / y := by
  rw [le_div_iff₀ hy]
  have h : x - y ^ 2 = (√x - y) * (√x + y) := by nlinarith [Real.sq_sqrt hx]
  rw [h, abs_mul]
  have : y ≤ |√x + y| := le_trans (by linarith [Real.sqrt_nonneg x]) (le_abs_self _)
  exact mul_le_mul_of_nonneg_left this (abs_nonneg _)

/-- Half an angle: the error of the cosine is divided by 2 cos (θ/2), and rounding adds less than 1. -/
theorem halfAngle_near (p : Nat) (hp : 1 ≤ p) (c : Int) (θ e k : ℝ) (hk : 0 < k) (hc : k ≤ Real.cos (θ / 2))
    (hp0 : 0 ≤ (2 ^ p : Int) + c) (he : |(c : ℝ) - 2 ^ p * Real.cos θ| ≤ e) :
    |(halfAngle p c : ℝ) - 2 ^ p * Real.cos (θ / 2)| ≤ e / (2 * k) + 1 := by
  obtain ⟨q, rfl⟩ : ∃ q, p = q + 1 := ⟨p - 1, by omega⟩
  set M : ℝ := 2 ^ (q + 1) with hM
  have hM0 : 0 < M := by positivity
  obtain ⟨m, hm⟩ : ∃ m : Nat, (2 ^ (q + 1) : Int) + c = m := ⟨_, (Int.toNat_of_nonneg hp0).symm⟩
  have h1 : halfAngle (q + 1) c = (isqrt (m * 2 ^ q) : Nat) := by
    unfold halfAngle
    push_cast
    rw [hm, Int.toNat_natCast, pow_succ, ← mul_assoc, Nat.mul_div_cancel _ (by norm_num)]
  have hmr : M + c = m := by rw [hM]; exact_mod_cast congrArg (Int.cast (R := ℝ)) hm
  have hn : (((m * 2 ^ q : Nat)) : ℝ) = (M + c) * M / 2 := by rw [hmr, hM]; push_cast; ring
  obtain ⟨h2, h3⟩ := isqrt_near (m * 2 ^ q)
  rw [hn] at h2 h3
  have hy : 0 < M * Real.cos (θ / 2) := mul_pos hM0 (hk.trans_le hc)
  have hB : 0 ≤ (M + c) * M / 2 := by rw [hmr]; positivity
  have h4 := sqrt_near _ _ hB hy
  have hcos : Real.cos θ = 2 * Real.cos (θ / 2) ^ 2 - 1 := by rw [← Real.cos_two_mul]; ring_nf
  have h5 : (M + c) * M / 2 - (M * Real.cos (θ / 2)) ^ 2 = (c - M * Real.cos θ) * M / 2 := by rw [hcos]; ring
  have h6 : |(M + c) * M / 2 - (M * Real.cos (θ / 2)) ^ 2| / (M * Real.cos (θ / 2)) ≤ e / (2 * k) := by
    rw [h5, div_le_div_iff₀ hy (by positivity), abs_div, abs_mul, abs_of_pos hM0, abs_two]
    have he0 : 0 ≤ e := (abs_nonneg _).trans he
    nlinarith [mul_le_mul he hc hk.le he0, mul_pos hM0 hk, abs_nonneg ((c : ℝ) - M * Real.cos θ)]
  rw [h1, Int.cast_natCast]
  rw [abs_le] at h4 ⊢
  constructor <;> linarith [h4.1, h4.2]

theorem cos_half_le (θ : ℝ) (h0 : 0 ≤ θ) (h1 : θ ≤ Real.pi) : Real.cos θ ≤ Real.cos (θ / 2) :=
  Real.cos_le_cos_of_nonneg_of_le_pi (by linarith) h1 (by linarith)

/-- Repeated halving keeps the error at most 3. -/
theorem iterate_halfAngle (p : Nat) (hp : 8 ≤ p) : ∀ (n : Nat) (c : Int) (θ : ℝ), 0 ≤ θ → θ ≤ Real.pi / 2 →
    3 / 4 ≤ Real.cos (θ / 2) → |(c : ℝ) - 2 ^ p * Real.cos θ| ≤ 3 →
    |(iterate (halfAngle p) n c : ℝ) - 2 ^ p * Real.cos (θ / 2 ^ n)| ≤ 3
  | 0, c, θ, _, _, _, he => by simpa [iterate] using he
  | n + 1, c, θ, h0, h1, h2, he => by
    have hM : (256 : ℝ) ≤ 2 ^ p := by
      calc (256 : ℝ) = 2 ^ 8 := by norm_num
        _ ≤ 2 ^ p := pow_le_pow_right₀ (by norm_num) hp
    have hcos : 0 ≤ Real.cos θ := Real.cos_nonneg_of_neg_pi_div_two_le_of_le (by linarith [Real.pi_pos]) h1
    have hp0 : 0 ≤ (2 ^ p : Int) + c := by
      have : (0 : ℝ) ≤ 2 ^ p + c := by
        have := (abs_le.1 he).1
        nlinarith
      exact_mod_cast this
    have h3 := halfAngle_near p (by omega) c θ 3 (3 / 4) (by norm_num) h2 hp0 he
    have h4 : 3 / 4 ≤ Real.cos (θ / 2 / 2) := h2.trans (cos_half_le _ (by linarith) (by linarith [Real.pi_pos]))
    have := iterate_halfAngle p hp n (halfAngle p c) (θ / 2) (by linarith) (by linarith) h4
      (h3.trans (by norm_num))
    rw [pow_succ', ← div_div]
    exact this

theorem cos_two_pi_div_five : Real.cos (2 * Real.pi / 5) = (√5 - 1) / 4 := by
  have h : 2 * Real.pi / 5 = 2 * (Real.pi / 5) := by ring
  rw [h, Real.cos_two_mul, Real.cos_pi_div_five]
  nlinarith [Real.sq_sqrt (show (0 : ℝ) ≤ 5 by norm_num)]

/-- The cosine of one N-th part of a turn. -/
theorem cosFirst_near (nom60 : Bool) (p : Nat) (hp : 8 ≤ p) :
    |(cosFirst nom60 p : ℝ) - 2 ^ p * Real.cos (2 * Real.pi / windowLen nom60)| ≤ 3 := by
  have hpi := Real.pi_pos
  cases nom60
  · have h1 : (windowLen false : ℝ) = 2560 := by norm_num [windowLen, cycles]
    have h2 : 2 * Real.pi / 5 / 2 ^ 9 = 2 * Real.pi / windowLen false := by rw [h1]; ring
    unfold cosFirst
    simp only [Bool.false_eq_true, if_false]
    rw [← h2]
    refine iterate_halfAngle p hp 9 _ _ (by positivity) (by linarith) ?_ ?_
    · have : 2 * Real.pi / 5 / 2 = Real.pi / 5 := by ring
      rw [this, Real.cos_pi_div_five]
      have : (2 : ℝ) ≤ √5 := Real.le_sqrt_of_sq_le (by norm_num)
      linarith
    · rw [cos_two_pi_div_five]
      obtain ⟨h3, h4⟩ := isqrt_near (5 * 4 ^ p)
      have h5 : √((5 * 4 ^ p : Nat) : ℝ) = √5 * 2 ^ p := by
        push_cast
        rw [Real.sqrt_mul (by norm_num), show (4 : ℝ) ^ p = (2 ^ p) ^ 2 by rw [← pow_mul, mul_comm, pow_mul]; norm_num,
          Real.sqrt_sq (by positivity)]
      rw [h5] at h3 h4
      obtain ⟨d, r, h6, h7, h8⟩ : ∃ d r : Int, ((isqrt (5 * 4 ^ p) : Nat) - (2 ^ p : Nat) : Int) = 4 * d + r ∧ 0 ≤ r ∧ r < 4 :=
        ⟨_, _, (Int.mul_ediv_add_emod _ 4).symm, Int.emod_nonneg _ (by norm_num), Int.emod_lt_of_pos _ (by norm_num)⟩
      have h9 : ((isqrt (5 * 4 ^ p) : Nat) - (2 ^ p : Nat) : Int) / 4 = d := by omega
      rw [h9]
      have h10 : (isqrt (5 * 4 ^ p) : ℝ) - 2 ^ p = 4 * d + r := by exact_mod_cast congrArg (Int.cast (R := ℝ)) h6
      have h11 : (0 : ℝ) ≤ r := by exact_mod_cast h7
      have h12 : (r : ℝ) < 4 := by exact_mod_cast h8
      rw [abs_le]
      constructor <;> nlinarith
  · have h1 : (windowLen true : ℝ) = 3072 := by norm_num [windowLen, cycles]
    have h2 : Real.pi / 3 / 2 ^ 9 = 2 * Real.pi / windowLen true := by rw [h1]; ring
    have h3 : Real.cos (2 * Real.pi / 3) = -(1 / 2) := by
      have : 2 * Real.pi / 3 = Real.pi - Real.pi / 3 := by ring
      rw [this, Real.cos_pi_sub, Real.cos_pi_div_three]
    unfold cosFirst
    simp only [if_true]
    rw [← h2]
    obtain ⟨q, rfl⟩ : ∃ q, p = q + 1 := ⟨p - 1, by omega⟩
    have h4 : 2 ^ (q + 1) / 2 = 2 ^ q := by rw [pow_succ, Nat.mul_div_cancel _ (by norm_num)]
    have h6 := halfAngle_near (q + 1) (by omega) (-((2 ^ (q + 1) / 2 : Nat) : Int)) (2 * Real.pi / 3) 0 (1 / 2) (by norm_num)
      (by have : 2 * Real.pi / 3 / 2 = Real.pi / 3 := by ring
          rw [this, Real.cos_pi_div_three])
      (by rw [h4, pow_succ]; push_cast; have : (0 : Int) < 2 ^ q := by positivity
          linarith)
      (by rw [h3, h4]; push_cast; rw [pow_succ]; ring_nf; simp)
    have h7 : 2 * Real.pi / 3 / 2 = Real.pi / 3 := by ring
    rw [h7] at h6
    exact iterate_halfAngle (q + 1) hp 9 _ _ (by positivity) (by linarith) (by
      have : Real.pi / 3 / 2 = Real.pi / 6 := by ring
      rw [this, Real.cos_pi_div_six]
      have : (3 / 2 : ℝ) ≤ √3 := Real.le_sqrt_of_sq_le (by norm_num)
      linarith) (h6.trans (by norm_num))

theorem windowLen_cast (nom60 : Bool) : (windowLen nom60 : ℝ) = if nom60 then 3072 else 2560 := by
  cases nom60 <;> norm_num [windowLen, cycles]

theorem turn_bounds (nom60 : Bool) :
    1 / 768 ≤ Real.sin (2 * Real.pi / windowLen nom60) ∧ (0 : ℝ) < windowLen nom60 ∧ (windowLen nom60 : ℝ) ≤ 3072 := by
  have hpi := Real.pi_pos
  have hn : (0 : ℝ) < windowLen nom60 ∧ (windowLen nom60 : ℝ) ≤ 3072 ∧ (4 : ℝ) ≤ windowLen nom60 := by
    rw [windowLen_cast]; cases nom60 <;> norm_num
  refine ⟨?_, hn.1, hn.2.1⟩
  have h := Real.mul_le_sin (x := 2 * Real.pi / windowLen nom60) (by positivity) (by
    rw [div_le_div_iff₀ hn.1 (by norm_num)]; nlinarith [hn.2.2])
  refine le_trans ?_ h
  rw [show 2 / Real.pi * (2 * Real.pi / windowLen nom60) = 4 / windowLen nom60 by field_simp; ring,
    div_le_div_iff₀ (by norm_num) hn.1]
  linarith [hn.2.1]

/-- The sine that goes with the first cosine. -/
theorem sineFirst_near (nom60 : Bool) (p : Nat) (hp : 32 ≤ p) (c1 : Int)
    (hc : |(c1 : ℝ) - 2 ^ p * Real.cos (2 * Real.pi / windowLen nom60)| ≤ 3) :
    |((isqrt ((4 ^ p : Nat) - c1 * c1).toNat : Nat) : ℝ) - 2 ^ p * Real.sin (2 * Real.pi / windowLen nom60)| ≤ 4611 := by
  set α := 2 * Real.pi / windowLen nom60
  obtain ⟨hs, hn0, hn1⟩ := turn_bounds nom60
  set M : ℝ := 2 ^ p with hM
  have hM1 : (4294967296 : ℝ) ≤ M := by
    calc (4294967296 : ℝ) = 2 ^ 32 := by norm_num
      _ ≤ 2 ^ p := pow_le_pow_right₀ (by norm_num) hp
  set e : ℝ := c1 - M * Real.cos α with he
  have hce : (c1 : ℝ) = M * Real.cos α + e := by rw [he]; ring
  have hsc := Real.sin_sq_add_cos_sq α
  have hc1 := Real.cos_le_one α
  have hc2 := Real.neg_one_le_cos α
  obtain ⟨he1, he2⟩ := abs_le.1 hc
  have h4 : (((4 ^ p : Nat) : Int) : ℝ) = M ^ 2 := by
    push_cast; rw [hM, ← pow_mul, mul_comm p 2, pow_mul]; norm_num
  have hd : |2 * M * Real.cos α * e + e ^ 2| ≤ 6 * M + 9 := by
    refine (abs_add_le _ _).trans ?_
    have h5 : |2 * M * Real.cos α * e| ≤ 6 * M := by
      rw [abs_mul, abs_mul, abs_of_pos (by linarith : (0 : ℝ) < 2 * M)]
      have := Real.abs_cos_le_one α
      calc 2 * M * |Real.cos α| * |e| ≤ 2 * M * 1 * 3 := by gcongr
        _ = 6 * M := by ring
    have h6 : |e ^ 2| ≤ 9 := by rw [abs_of_nonneg (sq_nonneg _)]; nlinarith
    linarith
  have hB : (((4 ^ p : Nat) - c1 * c1 : Int) : ℝ) = (M * Real.sin α) ^ 2 - (2 * M * Real.cos α * e + e ^ 2) := by
    rw [Int.cast_sub, h4, Int.cast_mul, hce, mul_pow, show Real.sin α ^ 2 = 1 - Real.cos α ^ 2 by linarith]; ring
  have hS : M / 768 ≤ M * Real.sin α := by rw [div_eq_mul_one_div]; gcongr
  have hS0 : 0 < M * Real.sin α := lt_of_lt_of_le (by positivity) hS
  have hnn : 0 ≤ (((4 ^ p : Nat) - c1 * c1 : Int) : ℝ) := by
    rw [hB]
    have : (M / 768) ^ 2 ≤ (M * Real.sin α) ^ 2 := by gcongr
    have := (abs_le.1 hd).2
    nlinarith
  obtain ⟨m, hm⟩ : ∃ m : Nat, ((4 ^ p : Nat) - c1 * c1 : Int) = m :=
    ⟨_, (Int.toNat_of_nonneg (by exact_mod_cast hnn)).symm⟩
  have hmr : (m : ℝ) = (M * Real.sin α) ^ 2 - (2 * M * Real.cos α * e + e ^ 2) := by
    rw [← hB, hm, Int.cast_natCast]
  rw [hm, Int.toNat_natCast]
  obtain ⟨h7, h8⟩ := isqrt_near m
  have h9 := sqrt_near (m : ℝ) _ (Nat.cast_nonneg m) hS0
  have h10 : |(m : ℝ) - (M * Real.sin α) ^ 2| / (M * Real.sin α) ≤ 4610 := by
    rw [hmr, div_le_iff₀ hS0, show ∀ a b : ℝ, |a - b - a| = |b| by intro a b; rw [← abs_neg]; ring_nf]
    nlinarith
  obtain ⟨h11, h12⟩ := abs_le.1 (h9.trans h10)
  rw [abs_le]; constructor <;> linarith

/-! ## The table of cosines -/

/-- A point at an angle on the circle of radius 2^p. -/
noncomputable def circlePoint (p : Nat) (α : ℝ) : ℂ := 2 ^ p * Complex.exp (α * Complex.I)

theorem circlePoint_norm (p : Nat) (α : ℝ) : ‖circlePoint p α‖ = 2 ^ p := by
  unfold circlePoint; rw [norm_mul, Complex.norm_exp_ofReal_mul_I]; simp

theorem circlePoint_mul (p : Nat) (α β : ℝ) : circlePoint p α * circlePoint p β = 2 ^ p * circlePoint p (α + β) := by
  unfold circlePoint; rw [Complex.ofReal_add, add_mul, Complex.exp_add]; ring

theorem circlePoint_parts (p : Nat) (α : ℝ) :
    circlePoint p α = ((2 ^ p * Real.cos α : ℝ) : ℂ) + ((2 ^ p * Real.sin α : ℝ) : ℂ) * Complex.I := by
  unfold circlePoint; rw [Complex.exp_mul_I]; push_cast; ring

theorem circlePoint_re (p : Nat) (α : ℝ) : (circlePoint p α).re = 2 ^ p * Real.cos α := by
  rw [circlePoint_parts]
  simp only [Complex.add_re, Complex.ofReal_re, Complex.mul_re, Complex.I_re, Complex.ofReal_im, Complex.I_im]
  ring

theorem norm_parts_le (x y : ℝ) : ‖(x : ℂ) + (y : ℂ) * Complex.I‖ ≤ |x| + |y| := by
  refine (norm_add_le _ _).trans ?_; simp

theorem floor_near (a : Int) (d : Nat) (hd : 0 < d) : |((a / (d : Int) : Int) : ℝ) - a / d| ≤ 1 := by
  obtain ⟨h1, h2, h3⟩ : a = d * (a / d) + a % d ∧ 0 ≤ a % d ∧ a % d < d :=
    ⟨(Int.mul_ediv_add_emod a d).symm, Int.emod_nonneg _ (by omega), Int.emod_lt_of_pos _ (by omega)⟩
  generalize a / (d : Int) = k at *
  generalize a % (d : Int) = r at *
  have hd' : (0 : ℝ) < d := by exact_mod_cast hd
  have h4 : (a : ℝ) = d * k + r := by exact_mod_cast congrArg (Int.cast (R := ℝ)) h1
  have h5 : (0 : ℝ) ≤ r := by exact_mod_cast h2
  have h6 : (r : ℝ) < d := by exact_mod_cast h3
  rw [h4, show (k : ℝ) - (d * k + r) / d = -(r / d) by field_simp; ring, abs_neg, abs_of_nonneg (by positivity),
    div_le_one hd']
  exact h6.le

/-- One rotation adds less than 4,620 to the error. -/
theorem turn_near (p : Nat) (hp : 64 ≤ p) (α β E : ℝ) (hE : E ≤ 2 ^ 24) (c s c1 s1 : Int)
    (hz : ‖((c : ℝ) : ℂ) + ((s : ℝ) : ℂ) * Complex.I - circlePoint p β‖ ≤ E)
    (hw : ‖((c1 : ℝ) : ℂ) + ((s1 : ℝ) : ℂ) * Complex.I - circlePoint p α‖ ≤ 4614) :
    ‖(((((c * c1 - s * s1) / (2 ^ p : Nat) : Int)) : ℝ) : ℂ) + ((((s * c1 + c * s1) / (2 ^ p : Nat) : Int) : ℝ) : ℂ) * Complex.I
      - circlePoint p (β + α)‖ ≤ E + 4620 := by
  set M : ℝ := 2 ^ p with hM
  have hM1 : (2 ^ 64 : ℝ) ≤ M := pow_le_pow_right₀ (by norm_num) hp
  have hM0 : 0 < M := lt_of_lt_of_le (by positivity) hM1
  set z : ℂ := ((c : ℝ) : ℂ) + ((s : ℝ) : ℂ) * Complex.I
  set w : ℂ := ((c1 : ℝ) : ℂ) + ((s1 : ℝ) : ℂ) * Complex.I
  have hMc : (M : ℂ) = 2 ^ p := by rw [hM]; push_cast; rfl
  have hMc0 : (M : ℂ) ≠ 0 := by exact_mod_cast hM0.ne'
  -- the exact product
  have hzw : z * w / M = (((c * c1 - s * s1 : Int) : ℝ) / M : ℝ) + (((s * c1 + c * s1 : Int) : ℝ) / M : ℝ) * Complex.I := by
    simp only [z, w]
    push_cast
    field_simp
    ring_nf
    rw [Complex.I_sq]
    ring
  have hfl : ∀ a : Int, |(((a / (2 ^ p : Nat) : Int)) : ℝ) - a / M| ≤ 1 := by
    intro a
    have := floor_near a (2 ^ p) (by positivity)
    rwa [show ((2 ^ p : Nat) : ℝ) = M by push_cast; rfl] at this
  have h1 : ‖(((((c * c1 - s * s1) / (2 ^ p : Nat) : Int)) : ℝ) : ℂ)
      + ((((s * c1 + c * s1) / (2 ^ p : Nat) : Int) : ℝ) : ℂ) * Complex.I - z * w / M‖ ≤ 2 := by
    rw [hzw]
    have h2 := hfl (c * c1 - s * s1)
    have h3 := hfl (s * c1 + c * s1)
    generalize (((c * c1 - s * s1) / (2 ^ p : Nat) : Int) : ℝ) = x at *
    generalize (((s * c1 + c * s1) / (2 ^ p : Nat) : Int) : ℝ) = y at *
    refine le_trans (le_of_eq ?_) ((norm_parts_le (x - (c * c1 - s * s1 : Int) / M) (y - (s * c1 + c * s1 : Int) / M)).trans
      ((add_le_add h2 h3).trans (by norm_num)))
    · congr 1
      rw [Complex.ofReal_sub, Complex.ofReal_sub]
      ring
  have h4 : z * w / M - circlePoint p (β + α) = ((z - circlePoint p β) * circlePoint p α + z * (w - circlePoint p α)) / M := by
    have := circlePoint_mul p β α
    rw [← hMc] at this
    field_simp
    linear_combination this
  have hz2 : ‖z‖ ≤ M + E := by
    have : z = circlePoint p β + (z - circlePoint p β) := by ring
    rw [this]
    refine (norm_add_le _ _).trans ?_
    rw [circlePoint_norm]
    linarith
  have h5 : ‖z * w / M - circlePoint p (β + α)‖ ≤ E + 4615 := by
    have hE0 : 0 ≤ E := (norm_nonneg _).trans hz
    rw [h4, norm_div, Complex.norm_real, Real.norm_of_nonneg hM0.le, div_le_iff₀ hM0]
    refine (norm_add_le _ _).trans ?_
    rw [norm_mul, norm_mul, circlePoint_norm]
    have h6 : ‖z - circlePoint p β‖ * M ≤ E * M := by gcongr
    have h7 : ‖z‖ * ‖w - circlePoint p α‖ ≤ (M + E) * 4614 := by gcongr
    nlinarith
  have h8 := norm_sub_le_norm_sub_add_norm_sub
    ((((((c * c1 - s * s1) / (2 ^ p : Nat) : Int)) : ℝ) : ℂ)
      + ((((s * c1 + c * s1) / (2 ^ p : Nat) : Int) : ℝ) : ℂ) * Complex.I) (z * w / M) (circlePoint p (β + α))
  linarith

theorem cosTurns_length (p : Nat) (c1 s1 : Int) : ∀ (n : Nat) (c s : Int), (cosTurns p c1 s1 n c s).length = n
  | 0, _, _ => rfl
  | n + 1, _, _ => by rw [cosTurns, List.length_cons, cosTurns_length]

theorem cosTurns_near (p : Nat) (hp : 64 ≤ p) (α : ℝ) (c1 s1 : Int)
    (hw : ‖((c1 : ℝ) : ℂ) + ((s1 : ℝ) : ℂ) * Complex.I - circlePoint p α‖ ≤ 4614) :
    ∀ (n m : Nat) (c s : Int), m + n ≤ 3072 →
      ‖((c : ℝ) : ℂ) + ((s : ℝ) : ℂ) * Complex.I - circlePoint p (m * α)‖ ≤ 4620 * m →
      ∀ j < n, |((cosTurns p c1 s1 n c s).getD j 0 : ℝ) - 2 ^ p * Real.cos ((m + j) * α)| ≤ 2 ^ 24
  | 0, _, _, _, _, _, j, hj => absurd hj (by omega)
  | n + 1, m, c, s, hmn, hz, j, hj => by
    have hm : (m : ℝ) ≤ 3072 := by exact_mod_cast (by omega : m ≤ 3072)
    have hE : (4620 : ℝ) * m ≤ 2 ^ 24 := by linarith [show (4620 : ℝ) * 3072 ≤ 2 ^ 24 by norm_num]
    rw [cosTurns]
    cases j with
    | zero =>
      rw [List.getD_cons_zero]
      refine le_trans ?_ (hz.trans hE)
      refine le_trans (le_of_eq ?_) (Complex.abs_re_le_norm _)
      congr 1
      rw [Complex.sub_re, circlePoint_re]
      simp
    | succ j =>
      rw [List.getD_cons_succ]
      have h1 := turn_near p hp α (m * α) (4620 * m) hE c s c1 s1 hz hw
      have h2 := cosTurns_near p hp α c1 s1 hw n (m + 1) _ _ (by omega) (by
        push_cast
        rw [add_mul, one_mul]
        refine h1.trans ?_
        linarith) j (by omega)
      push_cast at h2 ⊢
      rw [show (m : ℝ) + (j + 1) = m + 1 + j by ring]
      exact h2

/-- Every entry of the table is within 2^24 of its cosine, times 2^p. -/
theorem cosTable_near (nom60 : Bool) (p : Nat) (hp : 64 ≤ p) (j : Nat) (hj : j < windowLen nom60) :
    |((cosTable nom60 p).getD j 0 : ℝ) - 2 ^ p * Real.cos (2 * Real.pi * j / windowLen nom60)| ≤ 2 ^ 24 := by
  set α := 2 * Real.pi / windowLen nom60 with hα
  have hc := cosFirst_near nom60 p (by omega)
  have hs := sineFirst_near nom60 p (by omega) _ hc
  rw [← hα] at hc hs
  have hw : ‖((cosFirst nom60 p : ℝ) : ℂ)
      + ((((isqrt ((4 ^ p : Nat) - cosFirst nom60 p * cosFirst nom60 p).toNat : Nat) : Int) : ℝ) : ℂ) * Complex.I
      - circlePoint p α‖ ≤ 4614 := by
    rw [circlePoint_parts]
    refine le_trans (le_of_eq ?_) ((norm_parts_le _ _).trans (add_le_add hc hs |>.trans (by norm_num)))
    congr 1
    push_cast
    ring
  have h1 := cosTurns_near p hp α _ _ hw (windowLen nom60) 0 (2 ^ p : Nat) 0
    (by have := (turn_bounds nom60).2.2; exact_mod_cast (by simpa using this)) (by
      rw [circlePoint_parts]
      simp) j hj
  have h2 : (cosTable nom60 p).getD j 0 = (cosTurns p (cosFirst nom60 p)
      (isqrt ((4 ^ p : Nat) - cosFirst nom60 p * cosFirst nom60 p).toNat : Nat) (windowLen nom60) (2 ^ p : Nat) 0).getD j 0 := by
    unfold cosTable
    simp [Array.getD_eq_getD_getElem?, List.getD_eq_getElem?_getD]
  rw [h2]
  convert h1 using 4
  rw [hα]
  push_cast
  ring_nf

end Sys2Proof.Machine
end

