-- ==== Sys2Proof/Laws/Phasors.lean ====
section
/-! SUPPORT. The sums of R51: how near the computed sum is to the exact one, what separates the exact one from a tie, and
that a part of a phasor is therefore rounded exactly. -/

namespace Sys2Proof.Machine

/-! ## The sums of R51 -/

/-- The sum that `turnSum` approximates: samples times two cosines each. -/
noncomputable def exactSum (n k a b : Nat) : Nat → List Int → ℝ
  | _, [] => 0
  | j, s :: rest =>
    s * (Real.cos (2 * Real.pi * (k * j + a : Nat) / n) + Real.cos (2 * Real.pi * (k * j + b : Nat) / n))
      + exactSum n k a b (j + 1) rest

theorem cos_turn_mod (n m : Nat) (hn : 0 < n) :
    Real.cos (2 * Real.pi * (m % n : Nat) / n) = Real.cos (2 * Real.pi * m / n) := by
  have hn' : (n : ℝ) ≠ 0 := by exact_mod_cast hn.ne'
  have h : (m : ℝ) = (m % n : Nat) + n * (m / n : Nat) := by exact_mod_cast (Nat.mod_add_div m n).symm
  rw [h, show 2 * Real.pi * ((m % n : Nat) + n * (m / n : Nat)) / n
    = 2 * Real.pi * (m % n : Nat) / n + (m / n : Nat) * (2 * Real.pi) by field_simp, Real.cos_add_nat_mul_two_pi]

/-- The sum by a table is within 2^52 of the exact one, times 2^p. -/
theorem turnSum_near_aux (nom60 : Bool) (p : Nat) (hp : 64 ≤ p) (k a b : Nat) : ∀ (l : List Int) (j : Nat),
    (∀ x ∈ l, |x| ≤ 32767) →
    |(turnSum (cosTable nom60 p) (windowLen nom60) k a b j l : ℝ) - 2 ^ p * exactSum (windowLen nom60) k a b j l|
      ≤ l.length * (32767 * 2 ^ 25)
  | [], j, _ => by simp [turnSum, exactSum]
  | x :: l, j, hx => by
    have hn : 0 < windowLen nom60 := by exact_mod_cast (turn_bounds nom60).2.1
    have h1 := turnSum_near_aux nom60 p hp k a b l (j + 1) fun y hy => hx y (List.mem_cons_of_mem _ hy)
    have hc : ∀ m : Nat, |((cosTable nom60 p).getD (m % windowLen nom60) 0 : ℝ)
        - 2 ^ p * Real.cos (2 * Real.pi * m / windowLen nom60)| ≤ 2 ^ 24 := by
      intro m
      have := cosTable_near nom60 p hp _ (Nat.mod_lt m hn)
      rwa [cos_turn_mod _ _ hn] at this
    have ha := hc (k * j + a)
    have hb := hc (k * j + b)
    have hx0 : |(x : ℝ)| ≤ 32767 := by exact_mod_cast hx x (List.mem_cons_self)
    rw [turnSum, exactSum]
    push_cast at ha hb h1 ⊢
    generalize ((cosTable nom60 p).getD ((k * j + a) % windowLen nom60) 0 : ℝ) = u at *
    generalize ((cosTable nom60 p).getD ((k * j + b) % windowLen nom60) 0 : ℝ) = v at *
    generalize Real.cos (2 * Real.pi * (k * j + a) / windowLen nom60) = cu at *
    generalize Real.cos (2 * Real.pi * (k * j + b) / windowLen nom60) = cv at *
    have h2 : |(x : ℝ) * ((u - 2 ^ p * cu) + (v - 2 ^ p * cv))| ≤ 32767 * 2 ^ 25 := by
      rw [abs_mul]
      have : |u - 2 ^ p * cu + (v - 2 ^ p * cv)| ≤ 2 ^ 25 := (abs_add_le _ _).trans (by linarith)
      exact mul_le_mul hx0 this (abs_nonneg _) (by norm_num)
    refine le_trans (le_of_eq (congrArg _ ?_)) ((abs_add_le _ _).trans ((add_le_add h2 h1).trans (le_of_eq ?_)))
    · ring
    · rw [List.length_cons]; push_cast; ring

theorem turnSum_near (nom60 : Bool) (p : Nat) (hp : 64 ≤ p) (k a b : Nat) (l : List Int)
    (hl : l.length = windowLen nom60) (hx : ∀ x ∈ l, |x| ≤ 32767) :
    |(turnSum (cosTable nom60 p) (windowLen nom60) k a b 0 l : ℝ) - 2 ^ p * exactSum (windowLen nom60) k a b 0 l|
      ≤ 2 ^ 52 := by
  refine (turnSum_near_aux nom60 p hp k a b l 0 hx).trans ?_
  have : (l.length : ℝ) ≤ 3072 := by rw [hl]; exact (turn_bounds nom60).2.2
  nlinarith

/-! ## The exact sum is an integer combination of roots of unity -/

open Polynomial in
/-- A polynomial whose value at a primitive N-th root of unity is twice the sum. -/
noncomputable def sumPoly (n k a b : Nat) : Nat → List Int → ℤ[X]
  | _, [] => 0
  | j, s :: rest =>
    C s * (X ^ ((k * j + a) % n) + X ^ (n - (k * j + a) % n) + X ^ ((k * j + b) % n) + X ^ (n - (k * j + b) % n))
      + sumPoly n k a b (j + 1) rest

/-- exp (2πi/n). -/
noncomputable def rootOf (n : Nat) : ℂ := Complex.exp (2 * Real.pi * Complex.I / n)

theorem rootOf_pow (n : Nat) (hn : 0 < n) (m : Nat) :
    rootOf n ^ (m % n) + rootOf n ^ (n - m % n) = ((2 * Real.cos (2 * Real.pi * m / n) : ℝ) : ℂ) := by
  have hn' : (n : ℂ) ≠ 0 := by exact_mod_cast hn.ne'
  have hlt := Nat.mod_lt m hn
  have h1 : rootOf n ^ (m % n) = Complex.exp ((2 * Real.pi * (m % n : Nat) / n : ℝ) * Complex.I) := by
    rw [rootOf, ← Complex.exp_nat_mul]; congr 1; push_cast; ring
  have h2 : rootOf n ^ (n - m % n) = Complex.exp (-((2 * Real.pi * (m % n : Nat) / n : ℝ) * Complex.I)) := by
    rw [rootOf, ← Complex.exp_nat_mul, Nat.cast_sub hlt.le,
      ← Complex.exp_periodic.sub_eq (((n : ℂ) - (m % n : Nat)) * (2 * Real.pi * Complex.I / n))]
    congr 1; push_cast; field_simp; ring
  rw [h1, h2, ← cos_turn_mod n m hn, Complex.exp_mul_I, ← neg_mul, Complex.exp_mul_I, Complex.cos_neg, Complex.sin_neg]
  push_cast
  ring

open Polynomial in
theorem sumPoly_eval (n k a b : Nat) (hn : 0 < n) : ∀ (l : List Int) (j : Nat),
    aeval (rootOf n) (sumPoly n k a b j l) = ((2 * exactSum n k a b j l : ℝ) : ℂ)
  | [], j => by simp [sumPoly, exactSum]
  | x :: l, j => by
    have ha := rootOf_pow n hn (k * j + a)
    have hb := rootOf_pow n hn (k * j + b)
    rw [sumPoly, exactSum, map_add, sumPoly_eval n k a b hn l (j + 1), map_mul]
    simp only [map_add, map_pow, aeval_X, aeval_C]
    rw [ha, add_assoc (((2 * _ : ℝ)) : ℂ), hb]
    simp only [eq_intCast]
    push_cast
    ring

open Polynomial in
theorem sumPoly_bound (n k a b : Nat) (z : ℂ) (hz : ‖z‖ = 1) : ∀ (l : List Int) (j : Nat), (∀ x ∈ l, |x| ≤ 32767) →
    ‖aeval z (sumPoly n k a b j l)‖ ≤ l.length * (4 * 32767)
  | [], j, _ => by simp [sumPoly]
  | x :: l, j, hx => by
    have h1 := sumPoly_bound n k a b z hz l (j + 1) fun y hy => hx y (List.mem_cons_of_mem _ hy)
    have hx0 : ‖((x : Int) : ℂ)‖ ≤ 32767 := by
      rw [Complex.norm_intCast]; exact_mod_cast hx x (List.mem_cons_self)
    have h2 : ∀ e1 e2 e3 e4 : Nat, ‖z ^ e1 + z ^ e2 + z ^ e3 + z ^ e4‖ ≤ 4 := by
      intro e1 e2 e3 e4
      have : ∀ e : Nat, ‖z ^ e‖ = 1 := fun e => by rw [norm_pow, hz, one_pow]
      have h3 := norm_add_le (z ^ e1 + z ^ e2 + z ^ e3) (z ^ e4)
      have h4 := norm_add_le (z ^ e1 + z ^ e2) (z ^ e3)
      have h5 := norm_add_le (z ^ e1) (z ^ e2)
      rw [this] at h3 h4 h5
      rw [this] at h5
      linarith
    rw [sumPoly, map_add, map_mul]
    simp only [map_add, map_pow, aeval_X, eq_intCast, map_intCast]
    refine (norm_add_le _ _).trans ?_
    rw [norm_mul, List.length_cons]
    have := mul_le_mul hx0 (h2 ((k * j + a) % n) (n - (k * j + a) % n) ((k * j + b) % n) (n - (k * j + b) % n))
      (norm_nonneg _) (by norm_num)
    push_cast
    linarith

/-! ## What separates a sum from a tie -/

open Polynomial in
/-- The value of an integer polynomial at a primitive root of unity is 0 or bounded from 0. -/
theorem cyclotomic_gap_in (n : ℕ) (K : Type) [Field K] [Algebra ℚ K] [IsCyclotomicExtension {n} ℚ K] (hn : 2 < n) (P : ℤ[X]) (B : ℝ)
    (hB : ∀ z : ℂ, ‖z‖ = 1 → ‖aeval z P‖ ≤ B) (ζ : ℂ) (hζ : IsPrimitiveRoot ζ n) (h0 : aeval ζ P ≠ 0) :
    1 ≤ ‖aeval ζ P‖ ^ 2 * B ^ (n.totient - 2) := by
  have : NeZero n := ⟨by omega⟩
  let ξ : K := IsCyclotomicExtension.zeta n ℚ K
  have hξ : IsPrimitiveRoot ξ n := IsCyclotomicExtension.zeta_spec n ℚ K
  have hirr := Polynomial.cyclotomic.irreducible_rat (n := n) (by omega)
  let e := hξ.embeddingsEquivPrimitiveRoots ℂ hirr
  have : FiniteDimensional ℚ K := IsCyclotomicExtension.finiteDimensional {n} ℚ K
  have hval : ∀ σ : K →ₐ[ℚ] ℂ, σ (aeval ξ P) = aeval (σ ξ) P := by
    intro σ
    rw [Polynomial.aeval_def, Polynomial.aeval_def, ← RingHom.coe_coe σ, Polynomial.hom_eval₂]
    congr 1
    exact RingHom.ext_int _ _
  have heσ : ∀ σ : K →ₐ[ℚ] ℂ, ((e σ : primitiveRoots n ℂ) : ℂ) = σ ξ := fun σ => by simp [e]
  have hprim : ∀ σ : K →ₐ[ℚ] ℂ, IsPrimitiveRoot (σ ξ) n := fun σ => hξ.map_of_injective σ.injective
  have hnorm1 : ∀ σ : K →ₐ[ℚ] ℂ, ‖σ ξ‖ = 1 := fun σ => (hprim σ).norm'_eq_one (by omega)
  let σ1 : K →ₐ[ℚ] ℂ := e.symm ⟨ζ, (mem_primitiveRoots (by omega)).2 hζ⟩
  have h1 : σ1 ξ = ζ := by rw [← heσ]; simp [σ1]
  let σ2 : K →ₐ[ℚ] ℂ := e.symm ⟨ζ⁻¹, (mem_primitiveRoots (by omega)).2 hζ.inv⟩
  have h2 : σ2 ξ = ζ⁻¹ := by rw [← heσ]; simp [σ2]
  have hne : σ1 ≠ σ2 := by
    intro h
    have h3 : ζ = ζ⁻¹ := h1.symm.trans ((congrArg (fun σ => σ ξ) h).trans h2)
    have h4 : ζ ^ 2 = 1 := by
      have := hζ.ne_zero (by omega)
      rw [pow_two]; nth_rewrite 1 [h3]; exact inv_mul_cancel₀ this
    have := hζ.dvd_of_pow_eq_one 2 h4
    have := Nat.le_of_dvd (by omega) this
    omega
  have hz1 : ‖ζ‖ = 1 := by rw [← h1]; exact hnorm1 σ1
  have hconj : ‖aeval ζ⁻¹ P‖ = ‖aeval ζ P‖ := by
    have h5 : ζ⁻¹ = (starRingEnd ℂ) ζ := by
      rw [Complex.inv_def, Complex.normSq_eq_norm_sq, hz1]; simp
    have h6 : aeval ((starRingEnd ℂ) ζ) P = (starRingEnd ℂ) (aeval ζ P) := by
      rw [Polynomial.aeval_def, Polynomial.aeval_def, Polynomial.hom_eval₂]
      congr 1
      exact RingHom.ext_int _ _
    rw [h5, h6]; simp
  -- the norm
  have hx0 : aeval ξ P ≠ 0 := by
    intro h
    apply h0
    rw [← h1, ← hval, h, map_zero]
  have hint : IsIntegral ℤ (Algebra.norm ℚ (aeval ξ P)) :=
    Algebra.isIntegral_norm ℚ (by
      have hi : IsIntegral ℤ ξ := hξ.isIntegral (by omega)
      have : aeval ξ P ∈ Algebra.adjoin ℤ {ξ} := Polynomial.aeval_mem_adjoin_singleton ℤ ξ
      exact IsIntegral.of_mem_of_fg _ hi.fg_adjoin_singleton _ this)
  obtain ⟨m, hm⟩ := IsIntegrallyClosed.isIntegral_iff.1 hint
  have hm0 : m ≠ 0 := by
    rintro rfl
    apply hx0
    rw [← Algebra.norm_eq_zero_iff (R := ℚ)]; simpa using hm.symm
  have hprod := Algebra.norm_eq_prod_embeddings ℚ ℂ (aeval ξ P)
  have hge : (1:ℝ) ≤ ∏ σ : K →ₐ[ℚ] ℂ, ‖aeval (σ ξ) P‖ := by
    have h7 : ‖(algebraMap ℚ ℂ) (Algebra.norm ℚ (aeval ξ P))‖ = ∏ σ : K →ₐ[ℚ] ℂ, ‖aeval (σ ξ) P‖ := by
      rw [hprod, norm_prod]; exact Finset.prod_congr rfl fun σ _ => by rw [hval]
    rw [← h7, ← hm]
    have : (1:ℝ) ≤ |(m:ℝ)| := by exact_mod_cast Int.one_le_abs hm0
    simpa using this
  have hcard : Fintype.card (K →ₐ[ℚ] ℂ) = n.totient := by
    rw [AlgHom.card, IsCyclotomicExtension.finrank K hirr]
  classical
  rw [← Finset.mul_prod_erase _ _ (Finset.mem_univ σ1), ← Finset.mul_prod_erase _ _
    (Finset.mem_erase.2 ⟨hne.symm, Finset.mem_univ σ2⟩), h1, h2, hconj, ← mul_assoc, ← pow_two] at hge
  refine hge.trans (mul_le_mul_of_nonneg_left ?_ (by positivity))
  refine (Finset.prod_le_prod (fun σ _ => norm_nonneg _) fun σ _ => hB _ (hnorm1 σ)).trans_eq ?_
  rw [Finset.prod_const]
  congr 1
  rw [Finset.card_erase_of_mem (Finset.mem_erase.2 ⟨hne.symm, Finset.mem_univ σ2⟩),
    Finset.card_erase_of_mem (Finset.mem_univ σ1), Finset.card_univ, hcard]
  omega

open Polynomial in
theorem cyclotomic_gap (n : ℕ) (hn : 2 < n) (P : ℤ[X]) (B : ℝ)
    (hB : ∀ z : ℂ, ‖z‖ = 1 → ‖aeval z P‖ ≤ B) (ζ : ℂ) (hζ : IsPrimitiveRoot ζ n) (h0 : aeval ζ P ≠ 0) :
    1 ≤ ‖aeval ζ P‖ ^ 2 * B ^ (n.totient - 2) :=
  haveI : NeZero n := ⟨by omega⟩
  haveI : NeZero ((n : ℕ) : ℚ) := ⟨by exact_mod_cast (NeZero.ne n)⟩
  @cyclotomic_gap_in n (CyclotomicField n ℚ) _ _ (CyclotomicField.isCyclotomicExtension n ℚ) hn P B hB ζ hζ h0

theorem totient_windowLen (nom60 : Bool) : (windowLen nom60).totient = 1024 := by
  cases nom60
  · rw [show windowLen false = 2 ^ 9 * 5 by rfl, Nat.totient_mul (by norm_num), Nat.totient_prime_pow Nat.prime_two (by norm_num),
      Nat.totient_prime Nat.prime_five]
    norm_num
  · rw [show windowLen true = 2 ^ 10 * 3 by rfl, Nat.totient_mul (by norm_num), Nat.totient_prime_pow Nat.prime_two (by norm_num),
      Nat.totient_prime Nat.prime_three]
    norm_num

theorem exactSum_le (n k a b : Nat) : ∀ (l : List Int) (j : Nat), (∀ x ∈ l, |x| ≤ 32767) →
    |exactSum n k a b j l| ≤ l.length * (2 * 32767)
  | [], j, _ => by simp [exactSum]
  | x :: l, j, hx => by
    have h1 := exactSum_le n k a b l (j + 1) fun y hy => hx y (List.mem_cons_of_mem _ hy)
    have hx0 : |(x : ℝ)| ≤ 32767 := by exact_mod_cast hx x (List.mem_cons_self)
    rw [exactSum, List.length_cons]
    have h2 : |Real.cos (2 * Real.pi * (k * j + a : Nat) / n) + Real.cos (2 * Real.pi * (k * j + b : Nat) / n)| ≤ 2 :=
      (abs_add_le _ _).trans ((add_le_add (Real.abs_cos_le_one _) (Real.abs_cos_le_one _)).trans (by norm_num))
    refine (abs_add_le _ _).trans ?_
    rw [abs_mul]
    have := mul_le_mul hx0 h2 (abs_nonneg _) (by norm_num)
    push_cast at this ⊢
    linarith

open Polynomial in
/-- Twice a sum that lies below a whole number lies 2^-15330 below it. -/
theorem exactSum_gap (nom60 : Bool) (k a b : Nat) (l : List Int) (hl : l.length = windowLen nom60)
    (hx : ∀ x ∈ l, |x| ≤ 32767) (c : Nat) (h0 : 0 < c - 2 * |exactSum (windowLen nom60) k a b 0 l|)
    (h1 : c - 2 * |exactSum (windowLen nom60) k a b 0 l| ≤ 1) :
    1 ≤ (c - 2 * |exactSum (windowLen nom60) k a b 0 l|) * 2 ^ 15330 := by
  set n := windowLen nom60 with hn
  set x := exactSum n k a b 0 l with hxx
  obtain ⟨_, hn0, hn1⟩ := turn_bounds nom60
  rw [← hn] at hn0 hn1
  have hn2 : 2 < n := by rw [hn]; cases nom60 <;> decide
  obtain ⟨e, he, hex⟩ : ∃ e : Int, |(e : ℝ)| = 1 ∧ (e : ℝ) * x = |x| := by
    rcases le_total 0 x with h | h
    · exact ⟨1, by simp, by simp [abs_of_nonneg h]⟩
    · exact ⟨-1, by simp, by simp [abs_of_nonpos h]⟩
  set P : ℤ[X] := C (c : Int) - C e * sumPoly n k a b 0 l
  have hlr : (l.length : ℝ) ≤ 3072 := by rw [hl]; exact hn1
  have hxb : |x| ≤ 3072 * (2 * 32767) := (exactSum_le n k a b l 0 hx).trans (by gcongr)
  have hB : ∀ z : ℂ, ‖z‖ = 1 → ‖aeval z P‖ ≤ 2 ^ 30 := by
    intro z hz
    have h2 := sumPoly_bound n k a b z hz l 0 hx
    have h3 : ‖aeval z P‖ ≤ c + ‖aeval z (sumPoly n k a b 0 l)‖ := by
      simp only [P, map_sub, map_mul, eq_intCast, map_intCast]
      refine (norm_sub_le _ _).trans (le_of_eq ?_)
      rw [norm_mul, Complex.norm_intCast, Complex.norm_intCast, he, one_mul]
      simp
    have h4 : (l.length : ℝ) * (4 * 32767) ≤ 3072 * (4 * 32767) := by gcongr
    linarith [show (3072 * (4 * 32767) + 3072 * (4 * 32767) + 1 : ℝ) ≤ 2 ^ 30 by norm_num]
  have hval : aeval (rootOf n) P = ((c - 2 * |x| : ℝ) : ℂ) := by
    simp only [P, map_sub, map_mul, eq_intCast, map_intCast]
    rw [sumPoly_eval n k a b (by omega), ← hxx, ← hex]
    push_cast
    ring
  have h5 := cyclotomic_gap n hn2 P (2 ^ 30) hB (rootOf n) (Complex.isPrimitiveRoot_exp n (by omega))
    (by rw [hval]; exact_mod_cast h0.ne')
  rw [hval, Complex.norm_real, Real.norm_of_nonneg h0.le, hn, totient_windowLen, ← pow_mul] at h5
  have h6 : (1 : ℝ) ^ 2 ≤ ((c - 2 * |x|) * 2 ^ 15330) ^ 2 := by
    rw [mul_pow, ← pow_mul, one_pow]; exact h5
  exact (sq_le_sq₀ (by norm_num) (by positivity)).1 h6

/-! ## Rounding -/

/-- R51: rounding half away from zero. -/
noncomputable def roundAway (v : ℝ) : Int := if 0 ≤ v then ⌊v + 1 / 2⌋ else -⌊-v + 1 / 2⌋

theorem roundAway_neg (v : ℝ) : roundAway (-v) = -roundAway v := by
  unfold roundAway
  rcases lt_trichotomy v 0 with h | h | h
  · rw [if_pos (by linarith), if_neg (by linarith), neg_neg]
  · subst h; norm_num
  · rw [if_neg (by linarith), if_pos h.le, neg_neg]

/-- A fixed-point value near an exact one rounds as it does where the two agree on the magnitude. -/
theorem roundFixed_sign (q p : Nat) (hp : 64 ≤ p) (hq : 0 < q) (x : Int) (y : ℝ) (hxy : |(x : ℝ) - 2 ^ p * y| ≤ 2 ^ 52)
    (hm : (((2 * x.natAbs + q * 2 ^ p + sumSlack) / (2 * q * 2 ^ p) : Nat) : Int) = ⌊|y| / q + 1 / 2⌋) :
    roundFixed q p x = roundAway (y / q) := by
  have hq' : (0 : ℝ) < q := by exact_mod_cast hq
  have hq1 : (1 : ℝ) ≤ q := by exact_mod_cast hq
  have hM : (2 ^ 64 : ℝ) ≤ 2 ^ p := pow_le_pow_right₀ (by norm_num) hp
  obtain ⟨h1, h2⟩ := abs_le.1 hxy
  have hsmall : |y| * 2 ^ p ≤ 2 ^ 52 → ⌊|y| / q + 1 / 2⌋ = 0 := by
    intro h
    have h3 : |y| ≤ 1 / 4 := by
      by_contra hc
      push Not at hc
      nlinarith [abs_nonneg y]
    have h4 : |y| / q ≤ 1 / 4 := (div_le_self (abs_nonneg _) hq1).trans h3
    rw [Int.floor_eq_zero_iff]
    exact ⟨by positivity, by linarith⟩
  unfold roundFixed roundAway
  simp only [hm]
  by_cases hx : x < 0
  · have hx' : (x : ℝ) < 0 := by exact_mod_cast hx
    rw [if_pos hx]
    by_cases hy : 0 ≤ y / q
    · have hy0 : 0 ≤ y := by
        by_contra hc; push Not at hc
        exact absurd hy (not_le.2 (div_neg_of_neg_of_pos hc hq'))
      rw [if_pos hy]
      have := hsmall (by rw [abs_of_nonneg hy0]; linarith)
      rw [this]
      rw [abs_of_nonneg hy0] at this
      rw [this]; rfl
    · rw [if_neg hy]
      have hy0 : y < 0 := by
        by_contra hc; push Not at hc
        exact hy (by positivity)
      rw [abs_of_neg hy0, neg_div]
  · have hx' : (0 : ℝ) ≤ x := by exact_mod_cast (not_lt.1 hx)
    rw [if_neg hx]
    by_cases hy : 0 ≤ y / q
    · rw [if_pos hy]
      have hy0 : 0 ≤ y := by
        by_contra hc; push Not at hc
        exact absurd hy (not_le.2 (div_neg_of_neg_of_pos hc hq'))
      rw [abs_of_nonneg hy0]
    · rw [if_neg hy]
      have hy0 : y < 0 := by
        by_contra hc; push Not at hc
        exact hy (by positivity)
      have := hsmall (by rw [abs_of_neg hy0]; linarith)
      rw [this]
      rw [abs_of_neg hy0, neg_div] at this
      rw [this]; rfl

/-- The magnitude: `t` cells of 2q2^p below the exact figure and less than one above. -/
theorem floor_half (q p t : Nat) (hq : 0 < q) (y : ℝ) (h1 : (t : ℝ) * (2 * q * 2 ^ p) ≤ 2 * 2 ^ p * |y| + q * 2 ^ p)
    (h2 : 2 * 2 ^ p * |y| + q * 2 ^ p < (t + 1) * (2 * q * 2 ^ p)) : ((t : Nat) : Int) = ⌊|y| / q + 1 / 2⌋ := by
  have hq' : (0 : ℝ) < q := by exact_mod_cast hq
  have hM : (0 : ℝ) < 2 ^ p := by positivity
  symm
  rw [Int.floor_eq_iff]
  have he : |y| / q + 1 / 2 = (2 * 2 ^ p * |y| + q * 2 ^ p) / (2 * q * 2 ^ p) := by field_simp
  rw [he]
  constructor
  · rw [le_div_iff₀ (by positivity)]; exact_mod_cast h1
  · rw [div_lt_iff₀ (by positivity)]; exact_mod_cast h2

theorem near_magnitude (q p : Nat) (x : Int) (y : ℝ) (hxy : |(x : ℝ) - 2 ^ p * y| ≤ 2 ^ 52) :
    |((2 * x.natAbs + q * 2 ^ p : Nat) : ℝ) - (2 * 2 ^ p * |y| + q * 2 ^ p)| ≤ 2 ^ 53 := by
  have h1 : ((x.natAbs : Nat) : ℝ) = |(x : ℝ)| := by rw [Nat.cast_natAbs]; push_cast; rfl
  push_cast
  rw [h1]
  have h2 := abs_abs_sub_abs_le (x : ℝ) (2 ^ p * y)
  rw [abs_mul, abs_of_pos (by positivity : (0 : ℝ) < 2 ^ p)] at h2
  have h3 := h2.trans hxy
  rw [show 2 * |(x : ℝ)| + q * 2 ^ p - (2 * 2 ^ p * |y| + q * 2 ^ p) = 2 * (|(x : ℝ)| - 2 ^ p * |y|) by ring, abs_mul, abs_two]
  linarith

/-- Where the rounding is clear, the fixed-point value rounds as the exact one. -/
theorem roundFixed_clear (q p : Nat) (hp : 64 ≤ p) (hq : 0 < q) (x : Int) (y : ℝ)
    (hxy : |(x : ℝ) - 2 ^ p * y| ≤ 2 ^ 52) (hc : roundingUnclear q p x = false) :
    roundFixed q p x = roundAway (y / q) := by
  refine roundFixed_sign q p hp hq x y hxy (floor_half q p _ hq y ?_ ?_) <;>
  · have hn := near_magnitude q p x y hxy
    obtain ⟨h1, h2⟩ := abs_le.1 hn
    unfold roundingUnclear at hc
    simp only [Bool.or_eq_false_iff, decide_eq_false_iff_not, not_lt, not_le] at hc
    obtain ⟨h3, h4⟩ := hc
    set d := 2 * q * 2 ^ p with hd
    set A := 2 * x.natAbs + q * 2 ^ p with hA
    have hd0 : 0 < d := by positivity
    have h5 : d * (A / d) + A % d = A := Nat.div_add_mod A d
    have ht : (A + sumSlack) / d = A / d := by
      rw [Nat.div_eq_iff hd0]
      constructor
      · rw [mul_comm]; omega
      · rw [mul_comm]; omega
    rw [ht]
    have h6 : (A : ℝ) = d * (A / d : Nat) + (A % d : Nat) := by exact_mod_cast h5.symm
    have h7 : ((sumSlack : Nat) : ℝ) ≤ (A % d : Nat) := by exact_mod_cast h3
    have h8 : (((A % d : Nat)) : ℝ) + (sumSlack : Nat) < d := by exact_mod_cast h4
    have h9 : ((sumSlack : Nat) : ℝ) = 2 ^ 54 := by unfold sumSlack; norm_num
    have h10 : (d : ℝ) = 2 * q * 2 ^ p := by rw [hd]; push_cast; rfl
    rw [← h10]
    nlinarith

/-- The finer fixed point settles what the coarse one leaves unclear: a value just below a half that is not the half
would contradict the gap. -/
theorem roundFixed_fine (q p : Nat) (hp : 15388 ≤ p) (hq : 0 < q) (x : Int) (y : ℝ)
    (hxy : |(x : ℝ) - 2 ^ p * y| ≤ 2 ^ 52)
    (hgap : ∀ c : Nat, 0 < c - 2 * |y| → c - 2 * |y| ≤ 1 → 1 ≤ (c - 2 * |y|) * 2 ^ 15330) :
    roundFixed q p x = roundAway (y / q) := by
  have hn := near_magnitude q p x y hxy
  obtain ⟨h1, h2⟩ := abs_le.1 hn
  set d := 2 * q * 2 ^ p with hd
  set A := 2 * x.natAbs + q * 2 ^ p with hA
  have hd0 : 0 < d := by positivity
  have h9 : ((sumSlack : Nat) : ℝ) = 2 ^ 54 := by unfold sumSlack; norm_num
  have h10 : (d : ℝ) = 2 * q * 2 ^ p := by rw [hd]; push_cast; rfl
  set t := (A + sumSlack) / d with ht
  have h11 : d * t ≤ A + sumSlack := Nat.mul_div_le _ _
  have h12 : A + sumSlack < d * (t + 1) := Nat.lt_mul_div_succ _ hd0
  have h11' : (d : ℝ) * t ≤ A + 2 ^ 54 := by rw [← h9]; exact_mod_cast h11
  have h12' : (A : ℝ) + 2 ^ 54 < d * (t + 1) := by rw [← h9]; exact_mod_cast h12
  refine roundFixed_sign q p (by omega) hq x y hxy (floor_half q p t hq y ?_ ?_)
  · rw [← h10]
    by_contra hlt
    push Not at hlt
    have hM : (0 : ℝ) < 2 ^ p := by positivity
    have ht1 : 1 ≤ t := by
      by_contra h0
      have : t = 0 := Nat.lt_one_iff.1 (not_le.1 h0)
      rw [this] at hlt
      have : (0 : ℝ) ≤ 2 * 2 ^ p * |y| + q * 2 ^ p := by positivity
      simp at hlt
      linarith
    have hcast : (((2 * t - 1) * q : Nat) : ℝ) = (2 * t - 1) * q := by
      rw [Nat.cast_mul, Nat.cast_sub (by omega)]; push_cast; rfl
    have he : ((((2 * t - 1) * q : Nat) : ℝ) - 2 * |y|) * 2 ^ p = t * d - (2 * 2 ^ p * |y| + q * 2 ^ p) := by
      rw [hcast, h10]; ring
    have hpos : 0 < ((((2 * t - 1) * q : Nat) : ℝ) - 2 * |y|) := by
      by_contra hc
      push Not at hc
      have := mul_nonpos_of_nonpos_of_nonneg hc hM.le
      linarith
    have hup : ((((2 * t - 1) * q : Nat) : ℝ) - 2 * |y|) * 2 ^ p ≤ 2 ^ 55 := by
      rw [he]; linarith
    have hpow : (2 : ℝ) ^ 15330 * 2 ^ 58 ≤ 2 ^ p := by
      rw [← pow_add]; exact pow_le_pow_right₀ (by norm_num) hp
    set v := (((2 * t - 1) * q : Nat) : ℝ) - 2 * |y|
    set G : ℝ := 2 ^ 15330 with hG
    have hG1 : (1 : ℝ) ≤ G := one_le_pow₀ (by norm_num)
    have hle1 : v * 2 ^ 58 ≤ 2 ^ 55 := by
      refine le_trans ?_ hup
      exact mul_le_mul_of_nonneg_left (le_trans (le_mul_of_one_le_left (by positivity) hG1) hpow) hpos.le
    have h13 := hgap _ hpos (by linarith)
    have h14 : v * (G * 2 ^ 58) ≤ 2 ^ 55 := le_trans (mul_le_mul_of_nonneg_left hpow hpos.le) hup
    have h15 : (1 : ℝ) * 2 ^ 58 ≤ v * G * 2 ^ 58 := mul_le_mul_of_nonneg_right h13 (by positivity)
    rw [mul_assoc] at h15
    exact absurd (h15.trans h14) (by norm_num)
  · rw [← h10]
    nlinarith

theorem clampInt_eq (lo hi v : Int) (h : lo ≤ hi) : clampInt lo hi v = max lo (min hi v) := by
  unfold clampInt; split <;> [omega; split <;> omega]

/-- R51: a part of a phasor is the exact sum of its two cosines over N/16, rounded half away from zero and saturated. -/
theorem phasorPart_exact (nom60 : Bool) (k a b : Nat) (samples : List Int) (hl : samples.length = windowLen nom60)
    (hx : ∀ x ∈ samples, |x| ≤ 32767) :
    phasorPart nom60 (cosTable nom60 coarseBits) (cosTable nom60 fineBits) k a b samples =
      saturatePart (roundAway (exactSum (windowLen nom60) k a b 0 samples / (windowLen nom60 / 16 : Nat))) := by
  have hq : 0 < windowLen nom60 / 16 := by cases nom60 <;> decide
  have h1 := turnSum_near nom60 coarseBits (by decide) k a b samples hl hx
  have h2 := turnSum_near nom60 fineBits (by decide) k a b samples hl hx
  unfold phasorPart
  simp only
  split
  · rw [roundFixed_fine _ fineBits (by decide) hq _ _ h2 (exactSum_gap nom60 k a b samples hl hx)]
  · rename_i hc
    rw [roundFixed_clear _ coarseBits (by decide) hq _ _ h1 (by simpa using hc)]

end Sys2Proof.Machine
end

