-- ==== Sys2Proof/WellFormed.lean ====
section
/-! DEFINITION. The commands that the engine's surroundings can send: the sizes of what a bus or a link carries, and the
register offsets and bus accesses that exist. -/

namespace Sys2Proof

/-- 11.2: the offsets of the registers that a write reaches. -/
def writableOffsets : List Nat := [0x00, 0x04, 0x08, 0x10, 0x14]

/-- R201, R202: the direction that an access of an operation can have. A scan, an owner word read and a block read only
read; a group of writes is confirmed by a read. -/
def accessDirOk (op : BusOp) (dir : BusDir) : Bool :=
  match op, dir with
  | .scan, .write | .ownerRead, .write | .configRead, .write => false
  | _, _ => true

/-- The bytes that an operation's accesses lie in, from its first: the order table (R158), an order entry (R164), the header
block (11.3), the owner word (R213), a page (R136), the configuration block (11.5), an image (R85). -/
def accessSpan (op : BusOp) : Nat :=
  match op with
  | .scan => 1024
  | .completion => 64
  | .header => 112
  | .ownerRead => 4
  | .pageWrite => 7344
  | .configRead => 544
  | .snapshot => 3584

/-- An access that an operation can make. -/
def accessOk (op : BusOp) (dir : BusDir) (off : Nat) : Bool := accessDirOk op dir && off < accessSpan op

/-- A command that the engine's surroundings can send. -/
def Instr.wellFormed (i : Instr) : Bool :=
  match i with
  | .registerWriteIgnored _ offset _ => !writableOffsets.contains offset
  | .factoryTransferAnswered _ words => words.length = 32 || words.length = 2 || words.isEmpty
  | .scanReadsAnswered _ table => table.length = 1024
  | .configBlockReadDone _ block => block.length = 544
  | .busAccessError _ op dir off _ => accessOk op dir off
  | .busAccessTimeout op dir off _ => accessOk op dir off
  | .powerOn _ | .pinResetAssert _ | .pinResetRelease _ _ | .factoryTransferTimeout | .exbaseWrite _ _ _ | .runSet _
  | .runClear _ | .resume _ | .softReset _ | .intcauseClear _ _ | .intmaskWrite _ _ | .freeTick | .sampleStrobe
  | .windowBoundary | .lockAcquired | .holdoverExpiry | .channelStuck _ | .channelNormal _ | .offsetChangeEffect _
  | .clockClose | .syncTimeout | .intervalEndTaken | .tariffStepTaken | .configActivation | .demandResetApply
  | .monitorSettingsEffect | .headerFieldsAnswered _ | .frameArrival _ _ _ | .linkDrop _ | .linkEnterRunning _
  | .decompositionComplete _ | .idleOffsetUpdate _ | .monitorOn _ | .monitorRestart _ | .accountingCloseFinish
  | .statisticsCloseFinish | .fileComplete | .heldFileRetry | .ownerWordAnswer _ _ | .pageBodyAnswered _
  | .pageWriteComplete _ | .loadConfig _ | .closeInterval _ | .setTime _ | .demandReset _ | .snapshot _
  | .snapshotCapture _ | .snapshotWritten _ _ | .paramRead _ | .paramWrite _ | .tariffSet _ | .calibrate _
  | .linkRestart _ | .linkRestartTimeout _ | .takenWriteAnswered _ | .completionResultWritten _
  | .completionDelivered _ | .syncLineFall _ | .syncLineRise _ | .stuckLowFault | .stuckLowRecovery | .syncBurstEnd
  | .updateCountWriteAnswered _ => true

end Sys2Proof
end

