-- ==== Sys2Proof/Tests/Slice0.lean ====
section
/-! SUPPORT. Tests. First the checks of WellFormed, then the figures of the manual's worked cases, then single commands, and
last one witness for each statement of the certificates: a concrete state and operands that meet its hypotheses
together, clause by clause, at the ends of their ranges. -/

namespace Sys2Proof.Tests

open Sys2Proof Sys2Proof.Machine

/- One theorem after the other: the kernel checks below would otherwise each wait in a thread of their own. -/
set_option Elab.async false

/-! ## Small states -/

/-- Out of reset, HALTED, a base placed, nothing configured. -/
def idle : State := { phase := .running, port := { exbase := 0x1000#64 } }

/-- The same, with a configuration active: metering point 0 alone, CLOCK, CALENDAR, 15 minutes. -/
def loaded : State := { idle with store := { active := some {}, divisor := some (2 ^ 32) } }

/-- The interval that `running` has open. -/
def openIv : OpenInterval :=
  { startTime := 0, slot := 0, partialMark := false, nextAligned := 900000, openTick := 0, generation := 0
    lengthMs := 900000, closeSync := false, enabledMask := 1, memberMask := 0 }

/-- Measurement RUNNING in the first window of a run. -/
def running : State :=
  { loaded with
    port := { loaded.port with meas := .running, run := true }
    ic := { seq := 1, current := some openIv }
    spectral := { cap := some { cfg := {}, mons := [] } } }

/-- An event of a kind with nothing taken at it. -/
def eventOf (kind : EventKind) : Event :=
  { kind, halting := false, tick := 0, tOld := 0, tNew := 0, intervalEnd := false, tariffStep := false, demand := false
    unfiled := false }

/-- A state with an event in hand and parts due. -/
def inEvent (ev : Event) (ds : List Due) (s : State) : State := { s with event := some ev, due := ds }

/-- The state after a command. -/
def after (o : Host.Outcome State Fault Refusal) : State :=
  match o with
  | .next t => t
  | .fault r => nomatch r
  | .refused _ => State.reset

/-- A state with one link as given. -/
def withLink (l : Fin 4) (k : Link) (s : State) : State := s.setLink l k

/-- A link RUNNING with `n` indices placed with zeros. -/
def upTo (n : Nat) : Link := { state := .running, slots := List.replicate n zeroSlot, runningAtStart := true }

/-! ## WellFormed: one refused command for each check -/

theorem test_wf_write_to_register : (Instr.registerWriteIgnored 0 0x10 0).wellFormed = false := by decide
theorem test_wf_write_to_engstat : (Instr.registerWriteIgnored 0 0x0C 0).wellFormed = true := by decide
theorem test_wf_factory_words : (Instr.factoryTransferAnswered 0 [0, 0, 0]).wellFormed = false := by decide
theorem test_wf_order_table : (Instr.scanReadsAnswered 0 (zeros 1023)).wellFormed = false := by decide +kernel
theorem test_wf_config_block : (Instr.configBlockReadDone 0 (zeros 543)).wellFormed = false := by decide +kernel
theorem test_wf_error_direction : (Instr.busAccessError 0 .scan .write 0 0).wellFormed = false := by decide
theorem test_wf_error_offset : (Instr.busAccessError 0 .ownerRead .read 4 0).wellFormed = false := by decide
theorem test_wf_timeout_offset : (Instr.busAccessTimeout .snapshot .write 3584 0).wellFormed = false := by decide

/-! ## Decode: the table gives no row any bits -/

theorem test_no_word_spells_a_command : decodeTableWord 16 0x1234 = none := rfl
theorem test_no_word_enters_the_queue : State.reset.withFetchWord 16 0x1234 = State.reset := rfl

/-! ## Chapter 1: correction (worked case), frames (11.8) -/

theorem test_correction_rounds_up : corrected 10 36000 1234 = 1345 ∧ isClipped 10 36000 false 1234 = false := by decide
theorem test_correction_saturates : corrected (-50) 40000 32000 = 32767 ∧ isClipped (-50) 40000 false 32000 = true := by
  decide
theorem test_correction_exact : corrected 12 32768 (-20) = -32 ∧ isClipped 12 32768 false (-20) = false := by decide
theorem test_correction_half_away : corrected 0 16384 (-3) = -2 ∧ isClipped 0 16384 false (-3) = false := by decide
theorem test_raw_code_clips : isClipped 0 16384 false 32767 = true := by decide

/-- Index 300, clip flags of V1 and IN, V1 = 1,234 (five ones), V2 = -2 (fifteen ones), I1 = 3 (two ones), the rest 0.
The parity bits complete odd numbers of ones for positions 0 to 5; IN has parity bit 0 and no ones: wrong. -/
def frameBytes : List Byte :=
  [0x2C, 0x01, 0x41, 0xD2, 0x04, 0xFE, 0xFF, 0x00, 0x00, 0x03, 0x00, 0x00, 0x00, 0x00, 0x00, 0x00, 0x00, 0x3C]

theorem test_frame_fields : decodeFrame frameBytes =
    { index := 300, clips := [true, false, false, false, false, false, true], fault := false
      words := [1234, -2, 0, 3, 0, 0, 0], parityOk := [true, true, true, true, true, true, false] } := by
  decide +kernel

theorem test_frame_fault_flag : (decodeFrame [0x01, 0x00, 0x80]).fault = true := by decide +kernel

/-- The frame of index n with words of 0 and correct parity. -/
def zeroFrame (n : Nat) : List Byte := [BitVec.ofNat 8 n, 0, 0] ++ zeros 14 ++ [0x7F]

/-- Strobe 10 of a window, link 0 RUNNING with indices 0 and 1 placed. -/
def atTen : State := { withLink 0 (upTo 2) running with tb := { strobe := 10 } }

/-- The gap of the worked case: a frame three indices on fills two from the last good samples, and its own index is good. -/
theorem test_frame_after_gap :
    (((after (exec (.frameArrival 5 0 (zeroFrame 4)) atTen)).link 0).slots.map (fun sl => sl.subst)) =
      [false, true, true, true, true] ∧
    ((after (exec (.frameArrival 5 0 (zeroFrame 4)) atTen)).link 0).failRun = 0 := by decide +kernel

theorem test_frame_late_is_stale :
    ((after (exec (.frameArrival 5 0 (zeroFrame 1)) atTen)).link 0).staleFrames = 1 ∧
    ((after (exec (.frameArrival 5 0 (zeroFrame 1)) atTen)).link 0).slots.length = 2 := by decide +kernel

/-- Worked case of a link dropping: with index i the last placed, the strobe of index i + 65 drops the link, and not the one
before it. -/
theorem test_silence_drops :
    (after (exec .sampleStrobe { withLink 0 (upTo 1) running with tb := { strobe := 63 } })).due = [] ∧
    (after (exec .sampleStrobe { withLink 0 (upTo 1) running with tb := { strobe := 64 } })).due =
      [.drop 0 .silence] := by decide +kernel

theorem test_link_drop :
    ((after (exec (.linkDrop 0) { atTen with due := [.drop 0 .silence] })).link 0).state = .seeking ∧
    ((after (exec (.linkDrop 0) { atTen with due := [.drop 0 .silence] })).link 0).slots.length = 11 := by decide +kernel

theorem test_link_enters :
    ((after (exec (.linkEnterRunning 0) { (withLink 0 { upTo 11 with state := .seeking } atTen) with
      due := [.enterRunning 0 (zeroFrame 8)] })).link 0).slots.length = 9 := by decide +kernel

theorem test_window_classes : windowClass true 8 false = .clean ∧ windowClass true 9 false = .flagged ∧
    windowClass true 255 true = .flagged ∧ windowClass true 256 false = .missing ∧ windowClass false 0 false = .missing :=
  by decide

/-! ## Chapter 2: strobes, the lock machine (worked cases) -/

theorem test_strobe_ticks_60hz : [1, 2, 3, 3071, 3072].map (strobeTick 0 166667) =
    [652, 1303, 1954, 1999353, 2000004] := by decide +kernel

theorem test_next_boundary_60hz :
    strobeAt { nom60 := true, pace := 166667, runStart := 7 } (windowLen true) = 2000011 := by decide +kernel

theorem test_locked_step : lockNext { lock := .locked, pendingVerdict := some { verdict := .valid, pace := some 200200 } } =
    { lock := .locked, pace := 200200 } := by decide

theorem test_locked_figures : slewBound 200000 = 781 ∧ deviation 200000 200200 = 200 ∧ isSteady 200000 200200 = false ∧
    paceFrequency 200200 = 49950 ∧ paceFrequency 166667 = 59999 ∧ roundHalfUp 512512513 2560 = 200200 := by decide

theorem test_acquire_then_holdover :
    lockNext { lock := .acquire, pendingVerdict := some { verdict := .noLink, pace := none } } =
      { lock := .holdover, hold := 1 } ∧
    lockNext { lock := .holdover, hold := 1, pendingVerdict := some { verdict := .valid, pace := some 200401 } } =
      { lock := .acquire, pace := 200401 } := by decide

theorem test_third_steady_locks : (after (exec .lockAcquired (inEvent (eventOf .boundary) [.lockStep] { running with
      tb := { pace := 200401, steady := 2, pendingVerdict := some { verdict := .valid, pace := some 200401 } } }))).tb.lock =
        .locked := by decide +kernel

theorem test_slew_at_49_hz : clampedPace 200000 204082 = 200781 ∧ clampedPace 200781 204082 = 201565 := by decide

theorem test_holdover_expires : (after (exec .holdoverExpiry (inEvent (eventOf .boundary) [.lockStep] { running with
      tb := { pace := 200401, lock := .holdover, hold := 149, pendingVerdict := some { verdict := .weak, pace := none } }
      }))).tb.pace = 200000 := by decide +kernel

theorem test_day_and_minute : dayOfWeek 2 457110120 = 0 ∧ minuteOfDay 457110120 = 418 ∧ minuteOfDay 457290120 = 421 := by
  decide

/-- R35: a crossing at the first good zero, interpolated half up; R36: eleven crossings give a pace at 50 Hz. -/
theorem test_crossing : crossing { good := true, val := -1, instant := 256 } { good := true, val := 2, instant := 1024 } =
    some 512 ∧ crossing { good := true, val := 0, instant := 0 } { good := true, val := 5, instant := 256 } = none := by
  decide

theorem test_measured_pace : measuredPace false 0 ((List.range 11).map (fun k => 51251251 * k + 3)) = some 200200 ∧
    measuredPace false 0 ((List.range 10).map (fun k => 51251251 * k + 3)) = none := by decide +kernel

theorem test_verdicts : boundaryVerdict false true (some 181817) = { verdict := .outOfRange, pace := some 181817 } ∧
    boundaryVerdict false true (some 181818) = { verdict := .valid, pace := some 181818 } ∧
    amplitudeVerdict { verdict := .valid, pace := some 200000 } 52427 = { verdict := .weak, pace := some 200000 } := by
  decide

/-! ## Chapter 3: groups, powers, ratios (worked cases) -/

/-- The bins of the worked case of order 5. -/
def groupFive : List (Int × Int) :=
  (List.range 60).map (fun k =>
    if k = 45 then (1200, 500) else if k = 49 then (300, 400) else if k = 50 then (30000, -40000)
    else if k = 51 then (-600, 800) else if k = 55 then (-100, 0) else (0, 0))

theorem test_group_of_order_five : groupSum false groupFive 5 = 5004200000 ∧ groupRms false groupFive 5 = 50020 := by
  decide +kernel

theorem test_power_of_one_phase : activePower (6000, 2000) (-20000, 35000) = -50000000 ∧
    reactivePower (6000, 2000) (-20000, 35000) = -250000000 := by decide

theorem test_three_phase_power :
    let specs := [[(6000, 2000)], [(5900, 2100)], [(6100, 1900)], [(-20000, 35000)], [(-19500, 34000)], [(-20400, 36000)]]
    threePhase activePower specs 0 = -149690000 ∧ threePhase reactivePower specs 0 = -749910000 := by decide +kernel

/-- Group RMS of orders 1 to 50 with the five orders of the worked case. -/
def groupsOf (g1 g5 g7 g11 g13 : Nat) : List Nat :=
  orderNumbers.map (fun h => if h = 1 then g1 else if h = 5 then g5 else if h = 7 then g7 else if h = 11 then g11
    else if h = 13 then g13 else 0)

def thdGroups : List (List Nat) :=
  [groupsOf 400000 50020 30000 12000 9000, groupsOf 12 0 0 0 0, groupsOf 380000 50104 30210 12000 9100]

theorem test_thd : thdGroups.map phaseThd = [150, 65535, 158] ∧ windowThd thdGroups = 158 := by decide +kernel
theorem test_thd_saturates : phaseThd [16, 0, 2000] = 65534 := by decide +kernel
theorem test_tdd : tddOf (orderValues thdGroups) 500000 = 120 := by decide +kernel

theorem test_aggregate_class : aggregateClass [.clean, .clean, .missing] = .flagged ∧
    aggregatePartial [.clean, .clean, .missing] = true ∧ aggregateClass [.missing, .missing] = .missing ∧
    aggregateClass [.clean, .clean] = .clean := by decide

theorem test_aggregate_nets : sumOrders [[300000000000], [240000000000], [95000000000]] =
    635000000000 :: List.replicate 49 0 := by decide +kernel

/-! ## Chapter 4: classification, registers, demand (worked cases) -/

theorem test_classification :
    fundamentalFeeds 0 (-12000000000) = [(0, 0), (5, 12000000000)] ∧
    harmonicFeeds [-598760000, 200000000, -50000000] [-2999640000, 300000000, -10000000] =
      [(6, 200000000), (7, 648760000), (8, 3309640000)] := by decide

theorem test_three_windows :
    let add := Reg.add (2 ^ 40) 70778880000000000000
    add {} = { count := 64373016, residue := 392989507584 } ∧
    add (add {}) = { count := 128746032, residue := 785979015168 } ∧
    add (add (add {})) = { count := 193119049, residue := 79456894976 } := by decide

theorem test_delta_across_the_wrap :
    delta { regs := [{ count := 64373006, residue := 0 }], opening := [18446744073709551000] } 0 = 64373622 := by decide

theorem test_interval_demand : intervalDemand 1200000 900000 = 4800000 ∧ intervalDemand 300000 450200 = 2398933 ∧
    intervalDemand 600000 449800 = 4802134 ∧ demandExcluded 450200 900000 = false ∧ demandExcluded 449800 900000 = true :=
  by decide

theorem test_tie_keeps_the_sequence : DemandEntry.raise 4800000 103 { max := 4800000, seq := 101 } =
    { max := 4800000, seq := 101 } ∧ DemandEntry.raise 5000000 105 { max := 4800000, seq := 101 } =
    { max := 5000000, seq := 105 } := by decide

theorem test_duration_of_a_full_interval : durationMs { measured := 4500 * 512000000 } = 900000 := by decide

/-! ## Chapter 5: intervals, tariffs, the sync line (worked cases) -/

/-- The calendar of the worked case: three switch points on three slots. -/
def weekCfg : Cfg :=
  { slots := 3, dow := 2, calendarCount := 3
    calendar := [{ dayMask := 0x1F, slot := 1, minute := 420 }, { dayMask := 0x1F, slot := 0, minute := 1140 },
      { dayMask := 0x60, slot := 2, minute := 0 }] }

theorem test_calendar_slot :
    (evaluateTariff { active := some weekCfg } {} 2 457110120 false).slot = 2 ∧
    (evaluateTariff { active := some weekCfg } {} 2 457290120 false).slot = 1 ∧
    (evaluateTariff { active := some weekCfg } {} 2 457290120 false).governing = some (0, 420) := by decide +kernel

theorem test_aligned_instants : nextAlignedAfter 900000 457290120 = 458100000 ∧
    opensPartial true false 900000 457290120 = true ∧ opensPartial false false 900000 457290120 = false := by decide

/-- The boundary B of the worked case, once its SET_TIME has been carried out. -/
def stepped : State :=
  inEvent { eventOf .boundary with tOld := 457110120, tNew := 457290120, timeSet := true } [.decide]
    { running with
      tb := { dowOffset := 2 }
      store := { running.store with active := some weekCfg, pend := some ({ weekCfg with generation := 14 }, 3) }
      ic := { running.ic with seq := 2041, current := some { openIv with slot := 2, nextAligned := 457200000 } } }

theorem test_three_causes : decidedCauses stepped = Cause.timeStep.set ∧
    (decideClose stepped).event.map (fun ev => ev.causes) = some (Cause.timeStep.set ||| Cause.config.set) := by
  decide +kernel

theorem test_close_under_the_new_calendar :
    let t := closeEvent (modEvent (fun ev => { ev with causes := Cause.timeStep.set ||| Cause.config.set }) stepped)
    t.acct.closes.map (fun c => (c.seq, c.slot, c.causes, c.endTime)) =
      [(2041, 2, Cause.timeStep.set ||| Cause.config.set ||| Cause.tariff.set, 457110120)] ∧
    t.ic.current.map (fun o => (o.startTime, o.slot, o.partialMark, o.nextAligned)) =
      some (457290120, 1, true, 458100000) := by decide +kernel

/-- The decoder of the worked case at 1,268 ms, one millisecond 10,000 ticks: four pulses, the last ended at 870. -/
def burst : State := { running with
  tick := 12680000, ic := { running.ic with decoder := { pulses := 4, lastPulseEnd := 8700000, highSince := 8700000 } } }

theorem test_glitch_ends_the_burst :
    let t := after (exec (.syncLineRise 150000) (after (exec (.syncLineFall 0) burst)))
    t.ic.demandPending = true ∧ t.ic.glitches = 1 ∧ t.ic.decoder.pulses = 0 := by decide +kernel

theorem test_stuck_low : (after (exec .stuckLowFault (after (exec (.syncLineFall 0) burst)))).ic.stuckLows = 1 ∧
    (after (exec .stuckLowFault (after (exec (.syncLineFall 0) burst)))).tick = 17680001 := by decide +kernel

theorem test_pulse_of_20_ms :
    (after (exec (.syncLineRise 200000) (after (exec (.syncLineFall 0) burst)))).ic.decoder.pulses = 5 := by decide +kernel

theorem test_recovery : (after (exec .stuckLowRecovery { running with
    ic := { running.ic with decoder := { recovering := true, highSince := 5 } } })).tick = 4000005 := by decide +kernel

theorem test_burst_of_one : (after (exec .syncBurstEnd { running with
    ic := { running.ic with decoder := { pulses := 1 } } })).ic.pendingEnd = true := by decide +kernel

theorem test_clock_close : (after (exec .clockClose (inEvent { eventOf .boundary with tOld := 900000 } [.clockCheck]
    running))).event.map (fun ev => ev.causes) = some 1 := by decide +kernel

theorem test_sync_timeout : (after (exec .syncTimeout (inEvent { eventOf .boundary with tick := 9900000000 }
    [.timeoutCheck] { running with ic := { running.ic with current := some { openIv with closeSync := true } } }))).ic.timeouts
      = 1 := by decide +kernel

theorem test_interval_end : (after (exec .intervalEndTaken (inEvent { eventOf .tick with intervalEnd := true }
    [.intervalEnd] loaded))).ic.unexpectedEnds = 1 := by decide +kernel

theorem test_tariff_step : (after (exec .tariffStepTaken (inEvent { eventOf .tick with tariffStep := true } [.tariffStep]
    { loaded with store := { loaded.store with active := some { weekCfg with tariffSource := 1 } }
                  ic := { stepped := 2 } }))).ic.stepped = 0 := by decide +kernel

theorem test_demand_reset_applied : (after (exec .demandResetApply (inEvent { eventOf .boundary with demand := true }
    [.demandApply] { running with ic := { running.ic with demandPending := true } }))).ic.unfiled = true := by decide +kernel

/-- A burst that ends while the boundary waits for its reads leaves its reset pending, for a later boundary. -/
theorem test_late_demand_reset_stays :
    let s := after (exec .syncBurstEnd { running with
      event := some { eventOf .boundary with demand := true }
      ic := { running.ic with demandPending := true, decoder := { pulses := 4 } } })
    (applyDemandReset s).ic.demandPending = true ∧ (applyDemandReset s).ic.unfiled = true := by decide +kernel

/-! ## Chapter 6: statistics and monitors (worked cases) -/

theorem test_limit : limitFails 400 20000 500000 = false ∧ limitFails 400 20001 500000 = true ∧
    limitFails 300 15000 500000 = false ∧ limitFails 0 4000 500000 = false := by decide

/-- A window result of MP1 with the figures of the worked case at order 5. -/
def windowOf (cls : WinClass) (locked : Bool) (v5 : Nat) (p5 : Int) : WinResult :=
  { point := 1, generation := 0, cls
    record := { startTime := 0, endTime := 0, pace := 200000, duration := 512000000, freq := 50000, locked, seq := 1
                slot := 0 }
    p3 := [0, 0, 0, 0, p5], q3 := [], orderVals := [400000, 0, 0, 0, v5] }

/-- Order 5 after windows W1, W2, W3 (FLAGGED), W4 (unlocked) and W5, with limit 400 and I_L = 500,000. -/
theorem test_order_five :
    let cfg : Cfg := { points := List.replicate 4 { contracted := 500000 } }
    let a := [windowOf .clean true 18000 (-1), windowOf .clean true 22500 (-1), windowOf .flagged true 40000 (-1),
      windowOf .clean false 25000 (-1), windowOf .clean true 21000 (-1)].foldl
        (fun a r => takeResult [0, 0, 0, 400] cfg r a) { point := 1 }
    a.orders.getD 3 {} = { sum := 61500, max := 22500, exceed := 2, emission := 3 } ∧ a.total = 5 ∧ a.included = 3 ∧
      orderMean a (a.orders.getD 3 {}) = 20500 := by decide +kernel

theorem test_order_list :
    let a : Acc := { point := 1, included := 3, floor := 10000, orders := [{ sum := 61500, max := 22500, exceed := 2 },
      { sum := 9000, max := 4000 }, { sum := 0, emission := 1 }] }
    (orderList a).map (fun e => e.1) = [2, 4] := by decide +kernel

/-- BM2 of the worked case in force. -/
def watch (st : MonState) (count : Nat) : Monitor :=
  { cur := { enable := 1, lo := 23, hi := 27, threshold := 8000, ratio := 75, persistence := 3 }, state := st, count }

def watched (k : Monitor) (ds : List Due) : State :=
  { running with stats := { accs := [{ point := 0 }], monitors := [{}, {}, k, {}] }, due := ds }

theorem test_monitor_turns_on :
    let t := after (exec (.monitorOn 2) (watched (watch .rising 2) [.monitorStep 2 8100 true 0 43]))
    (t.monitor 2).state = .active ∧ (t.monitor 2).count = 3 ∧
      (t.acc 0).map (fun a => a.events) =
        some [{ mon := 2, on := true, reconfigured := false, index := 43, value := 8100 }] := by decide +kernel

theorem test_monitor_holds_and_releases :
    ((monitorStep 2 7000 true 0 44 (watched (watch .active 3) [])).monitor 2).state = .active ∧
    ((monitorStep 2 3000 false 0 45 (watched (watch .active 3) [])).monitor 2).last = 0 ∧
    ((monitorStep 2 5999 true 0 46 (watched (watch .active 3) [])).monitor 2).state = .quiet := by decide +kernel

/-- BM0 restarted while ACTIVE under a raised threshold: OFF with reason RECONFIGURED at the last value. -/
theorem test_monitor_restart :
    let t := after (exec (.monitorRestart 2) (watched { watch .active 3 with
      force := { enable := 1, threshold := 15000 }, last := 13200 } [.monitorRestart 2]))
    (t.monitor 2).state = .quiet ∧ causeSet .monitor t = true := by decide +kernel

theorem test_settings_effect :
    ((after (exec .monitorSettingsEffect (watched { watch .quiet 0 with dirty := true, stored := { threshold := 9 } }
      [.monitorEffect]))).monitor 2).force.threshold = 9 := by decide +kernel
/-! ## Chapter 7: files, merging, pages -/

/-- Records 701 and 702 of the worked case of a slow host, by the figures that merging changes. -/
def rec701 : IntervalRecord :=
  { point := 0, firstSeq := 701, lastSeq := 701, merges := 0, startTime := 32400000, endTime := 33300000, causes := 0x11
    partialMark := false, unexpected := false, malformed := false, timeout := false, tariffMask := 2, tariffAtClose := 1
    genFirst := 13, genLast := 13, deltas := [1200000, 0], cumulative := [1], demandQI := 4800000, demandA := 36000000
    excluded := false
    stats := { total := 4500, minFreq := 49930, maxFreq := 50040, thdISum := 537600, thdICount := 4480
               orders := [{ sum := 89600000, max := 26000, exceed := 120, emission := 3900 }]
               events := List.replicate 5 { mon := 0, on := true, reconfigured := false, index := 0, value := 0 } } }

def rec702 : IntervalRecord :=
  { rec701 with
    firstSeq := 702, lastSeq := 702, startTime := 33300000, endTime := 34200000, causes := 1, tariffMask := 4
    tariffAtClose := 2, deltas := [0, 1000000], cumulative := [2], demandQI := 4000000, demandA := 34000000
    stats := { total := 4500, minFreq := 49950, maxFreq := 50020, thdISum := 585000, thdICount := 4500
               orders := [{ sum := 81000000, max := 24000, exceed := 40, emission := 4100 }], dropped := 2
               events := List.replicate 8 { mon := 1, on := true, reconfigured := false, index := 0, value := 0 } } }

theorem test_merged_record :
    let r := mergeRecord rec701 rec702
    (r.firstSeq, r.lastSeq, r.merges, r.startTime, r.endTime) = (701, 702, 1, 32400000, 34200000) ∧
    (r.causes, r.tariffMask, r.tariffAtClose, r.demandQI, r.demandA) = (0x11, 6, 2, 4800000, 36000000) ∧
    (r.deltas, r.cumulative) = ([1200000, 1000000], [2]) := by decide +kernel

theorem test_merged_statistics :
    let a := (mergeRecord rec701 rec702).stats
    (a.total, a.minFreq, a.maxFreq, a.thdISum, a.thdICount) = (9000, 49930, 50040, 1122600, 8980) ∧
    a.orders = [{ sum := 170600000, max := 26000, exceed := 160, emission := 8000 }] ∧
    (a.events.map (fun e => e.mon.val), a.dropped) = ([0, 0, 0, 0, 0, 1, 1, 1], 7) := by decide +kernel

/-- Records take 448 bytes, 16 for an order and 8 for an event; a demand-close record 160; a header 64 (11.6). -/
theorem test_record_lengths :
    (recordBytes { rec701 with
      deltas := List.replicate 36 0, cumulative := List.replicate 9 0, stats := { rec701.stats with included := 4480 }
      }).length = 448 + 16 + 5 * 8 ∧
    (demandRecordBytes { point := 0, seq := 1, endTime := 0, generation := 0, entries := List.replicate 8 {} }).length =
      160 ∧ (headerBytes { records := [], demand := [], merges := 0, unreported := [] } 1 1 0).length = 64 := by
  decide +kernel

def file701 : IntervalFile := { records := [rec701], demand := [], merges := 0, unreported := [701] }

/-- A file in transit at a stage. -/
def inTransit (stage : TransitStage) (s : State) : State :=
  { s with filing := { s.filing with transit := some {
      file := file701, fromHeld := false, base := 0x1000, pageBase := 16384, page := 5, stage := stage, seqNo := 1206
      issuedAt := 0 } } }

/-- Page 6 reads HOST: the file is held and HOLD is requested. -/
theorem test_owner_host :
    let t := after (exec (.ownerWordAnswer 19999 2) (inTransit .owner running))
    t.filing.held.map (fun f => f.records) = some [rec701] ∧ causeSet .hold t = true := by decide +kernel

theorem test_owner_engine : ((after (exec (.ownerWordAnswer 0 1) (inTransit .owner running))).filing.transit.map
    (fun x => (x.stage, x.seqNo))) = some (.body, 1) := by decide +kernel

theorem test_page_body : ((after (exec (.pageBodyAnswered 0) (inTransit .body running))).filing.transit.map
    (fun x => x.stage)) = some .header := by decide +kernel

theorem test_page_complete :
    let t := after (exec (.pageWriteComplete 0) (inTransit .header running))
    (t.filing.nextPage, t.filing.pageSeq, t.filing.transit, causeSet .filed t) = (6, 1206, none, true) := by decide +kernel

/-- R142: a file in transit as the boundary fell leaves the held file for the next one. -/
theorem test_retry_waits : (after (exec .heldFileRetry (inEvent { eventOf .boundary with inTransit := true } [.heldRetry]
    { running with filing := { held := some file701 } }))).filing.transit = none := by decide +kernel

theorem test_ring_wraps : nextIndex 16 15 = 0 ∧ nextIndex 16 6 = 7 := by decide

theorem test_held_retry : (after (exec .heldFileRetry (inEvent (eventOf .boundary) [.heldRetry] { running with
    filing := { held := some file701 } }))).filing.transit.map (fun x => (x.fromHeld, x.page)) = some (true, 0) := by
  decide +kernel

/-- A close that waits to be finished at both units, by `running`'s interval. -/
def closeA : Close := closeOf 1 openIv 1 900000

def closing (ds : List Due) : State :=
  { running with
    due := ds, acct := { closes := [closeA] }, stats := { accs := [{ point := 0 }], closes := [closeA] }
    filing := { assemblies := [{ close := closeA, stat := some [{ point := 0 }] }] } }

theorem test_accounting_finish :
    let t := after (exec .accountingCloseFinish (closing [.acctFinish]))
    t.acct.closes = [] ∧ t.due = [.fileComplete 1] := by decide +kernel

theorem test_statistics_finish : (after (exec .statisticsCloseFinish (closing [.statFinish]))).stats.accs =
    [{ point := 0 }] := by decide +kernel

theorem test_file_complete : (after (exec .fileComplete
    (after (exec .accountingCloseFinish (closing [.acctFinish]))))).filing.transit.isSome = true := by decide +kernel

/-! ## Chapter 8: orders -/

/-- Little-endian 32- and 64-bit fields, and an order table whose entry 0 is POSTED with a kind, a tag and parameters. -/
def entryBytes (kind : Byte) (params : List Byte) : List Byte :=
  [1, 0, kind, 0, 0, 0, 0, 0] ++ [0x11, 0x22, 0, 0, 0, 0, 0, 0x80] ++ params ++ zeros (48 - params.length)

theorem test_entry_fields :
    let e := entryBytes 3 [0x78, 0x56, 0x34, 0x12]
    (entryState e, entryKind e, entryTag e, param32 (entryParams e) 16) =
      (1, 3, 0x8000000000002211, 0x12345678) := by decide +kernel

theorem test_signed_field : signed 16 0xFFFE = -2 ∧ signed 32 0x80000000 = -2147483648 ∧ signed 16 0x7FFF = 32767 := by
  decide

/-- An order in flight on an entry, handed over at an event. -/
def ordered (e : Fin 16) (kind : Nat) (params : List Byte) (ev : Event) (s : State) : State :=
  inEvent ev [.handOver e]
    { s with orders := { s.orders with inFlight := [{ entry := e, kind, tag := 0x77, params }] } }

/-- The completion at the head of the queue, as failed, code and value. -/
def answered (s : State) : Option (Bool × ResultCode × Word64) :=
  match s.orders.queue with
  | .completion _ c _ :: _ => some (c.failed, c.code, c.value)
  | _ => none

theorem test_scan_takes : (after (exec (.scanReadsAnswered 19999 (entryBytes 3 [] ++ zeros 960)) { idle with
    event := some (eventOf .tick), port := { idle.port with scan := some { base := 0x1000, issuedAt := 0 } } })).orders.queue
      = [.taken 0] := by decide +kernel

/-- Orders are handed over in increasing index order, a SNAPSHOT and a TARIFF_SET like any other. -/
theorem test_hand_over_order : (takeOrders (entryBytes 5 [] ++ entryBytes 8 [] ++ zeros 896) idle).due =
    [.handOver 0, .handOver 1] := by decide +kernel

/-- The orders that a soft reset ended complete with RESET before a new entry is taken. -/
theorem test_reset_completions : (takeOrders (entryBytes 3 [] ++ zeros 960) { idle with orders := {
    resetDue := true, inFlight := [{ entry := 9, kind := 1, tag := 5, params := [], ended := true }] } }).orders.queue =
      [.completion 9 { failed := true, code := .reset, value := 0, time := 0, tag := 5 } false, .taken 0] := by
  decide +kernel

theorem test_scan_late : (after (exec (.scanReadsAnswered 20000 (entryBytes 3 [] ++ zeros 960)) { idle with
    event := some (eventOf .tick), port := { idle.port with scan := some { base := 0x1000, issuedAt := 0 } } })).orders.queue
      = [] := by decide +kernel

theorem test_load_config : (after (exec (.loadConfig 4) (ordered 4 1 [] (eventOf .tick) idle))).port.configRead.isSome =
    true := by decide +kernel

theorem test_close_interval :
    answered (after (exec (.closeInterval 4) (ordered 4 2 [] (eventOf .tick) idle))) = some (true, .badState, 0) ∧
    (after (exec (.closeInterval 4) (ordered 4 2 [] (eventOf .boundary) running))).event.map (fun ev => ev.causes) =
      some Cause.order.set := by decide +kernel

theorem test_set_time :
    let t := after (exec (.setTime 4) (ordered 4 3 (leBytes 8 457290120 ++ leBytes 8 2)
      { eventOf .tick with tOld := 457110120, tNew := 457110120 } idle))
    answered t = some (false, .ok, 457110120) ∧ (t.tb.timeValue, t.tb.subMs, t.tb.dowOffset) = (457290120, 0, 2) := by
  decide +kernel

theorem test_set_time_bad : answered (after (exec (.setTime 4) (ordered 4 3 (leBytes 8 0 ++ leBytes 8 7) (eventOf .tick)
    idle))) = some (true, .badParam, 0) := by decide +kernel

theorem test_demand_reset_order : answered (after (exec (.demandReset 4) (ordered 4 4 [] (eventOf .tick) idle))) =
    some (true, .badState, 0) := by decide +kernel

theorem test_snapshot_refused :
    answered (after (exec (.snapshot 4) (ordered 4 5 (leBytes 8 0x40 ++ leBytes 8 3583) (eventOf .tick) idle))) =
      some (true, .shortBuffer, 0) ∧
    answered (after (exec (.snapshot 4) (ordered 4 5 (leBytes 8 0x41 ++ leBytes 8 3584) (eventOf .tick) idle))) =
      some (true, .badParam, 0) := by decide +kernel

/-- The image is that of the event once its other actions are done. -/
theorem test_snapshot_captures :
    let t := after (exec (.snapshot 4) (ordered 4 5 (leBytes 8 0x40 ++ leBytes 8 3584) (eventOf .tick) idle))
    t.port.snapshots.map (fun p => p.image.isSome) = [false] ∧
      (microStep .finishOrders t).port.snapshots.map (fun p => p.image.map List.length) = [some 3584] := by
  decide +kernel

/-- A capture that waits for a decomposition, and an image whose writes are in progress. -/
def snap (image : Option (List Byte)) : Snapshot := { entry := 4, addr := 0x40, head := [], image, issuedAt := 0, seq := 9 }

theorem test_snapshot_capture : (after (exec (.snapshotCapture 4) { idle with
    due := [.snapCapture 4], port := { idle.port with snapshots := [snap none] } })).port.snapshots.map
      (fun p => p.image.isSome) = [true] := by decide +kernel

theorem test_snapshot_written : answered (after (exec (.snapshotWritten 5 4) { idle with
    orders := { inFlight := [{ entry := 4, kind := 5, tag := 0, params := [] }] }
    port := { idle.port with snapshots := [snap (some [])] } })) = some (false, .ok, 9) := by decide +kernel

/-- The worked case of chapter 9: -5,000 to parameter 234 stores -2,047, which a read then returns. -/
theorem test_param_write : answered (after (exec (.paramWrite 2) (ordered 2 7 (leBytes 4 234 ++ leBytes 4 (2 ^ 32 - 5000))
    (eventOf .boundary) running))) = some (false, .clamped, BitVec.ofInt 64 (-2047)) := by decide +kernel

theorem test_param_read : answered (after (exec (.paramRead 5) (ordered 5 6 (leBytes 4 234) (eventOf .boundary)
    (requestOffset 10 (-2047) false true running)))) = some (false, .ok, BitVec.ofInt 64 (-2047)) := by decide +kernel

/-- At a boundary that may activate a configuration a read of an active offset waits for its close: R17 has the
configured offset arrive before the PARAM orders. -/
theorem test_param_read_at_a_close :
    let t := after (exec (.paramRead 5) (ordered 5 6 (leBytes 4 234) (eventOf .boundary) running))
    answered t = none ∧
      answered (microStep .finishOrders { addCause .config t with
        store := { active := some (decodeCfg (zeros 544)), factory := { offsets := List.replicate 28 (-7) } } }) =
          some (false, .ok, 0) := by decide +kernel

/-- A PARAM_WRITE at the boundary that halts stands over the offset of a configuration that the boundary activates
(R17). -/
theorem test_param_write_at_a_halt :
    let s : State := { loaded with event := some { eventOf .boundary with halting := true } }
    let t := (List.range 28).foldl activateOffset (requestOffset 10 40 false true s)
    ((microStep .endEvent t).channel 10).offset = 40 ∧ ((microStep .endEvent t).channel 10).request = none := by
  decide +kernel

theorem test_param_read_only : answered (after (exec (.paramWrite 2) (ordered 2 7 (leBytes 4 19 ++ leBytes 4 1)
    (eventOf .tick) idle))) = some (true, .readOnly, 0) := by decide +kernel

theorem test_no_parameter : answered (after (exec (.paramRead 2) (ordered 2 6 (leBytes 4 1024) (eventOf .tick) idle))) =
    some (true, .badParam, 0) := by decide +kernel

theorem test_tariff_set : answered (after (exec (.tariffSet 4) (ordered 4 8 (leBytes 4 1) (eventOf .tick) loaded))) =
    some (true, .badParam, 0) ∧
    (after (exec (.tariffSet 4) (ordered 4 8 (leBytes 4 0) (eventOf .tick) loaded))).ic.forced = some 0 := by decide +kernel

theorem test_calibrate_at_tick : answered (after (exec (.calibrate 0) (ordered 0 9 (leBytes 4 10) (eventOf .tick) idle)))
    = some (true, .badState, 0) ∧ answered (after (exec (.calibrate 0) (ordered 0 9 (leBytes 4 28) (eventOf .tick) idle)))
    = some (true, .badParam, 0) := by decide +kernel

/-- R175: what counts is the event: a RUN_CLEAR while its reads were outstanding leaves its CALIBRATE accepted. -/
theorem test_calibrate_while_stopping :
    let s := withLink 3 (upTo 1) { running with port := { running.port with meas := .stopping, run := false } }
    ((after (exec (.calibrate 0) (ordered 0 9 (leBytes 4 27) (eventOf .boundary) s))).channel 27).calibration.isSome = true ∧
      answered (after (exec (.calibrate 0) (ordered 0 9 (leBytes 4 27) { eventOf .boundary with halting := true } s))) =
        some (true, .badState, 0) := by decide +kernel

theorem test_link_restart : answered (after (exec (.linkRestart 0) (ordered 0 10 (leBytes 4 1) (eventOf .boundary)
    running))) = some (true, .badState, 0) ∧ ((after (exec (.linkRestart 0) (ordered 0 10 (leBytes 4 1) (eventOf .boundary)
    (withLink 1 (upTo 3) running)))).link 1).state = .seeking := by decide +kernel

theorem test_link_restart_timeout : answered (after (exec (.linkRestartTimeout 1) (inEvent (eventOf .boundary)
    [.restartCheck 1] { (withLink 1 { upTo 3 with state := .seeking, restart := some { entry := 6, boundaries := 49 } } running)
      with orders := { inFlight := [{ entry := 6, kind := 10, tag := 0, params := [] }] } }))) = some (true, .timeout, 0) := by
  decide +kernel

/-- The queue with the write of its head in progress. -/
def queued (q : List QueueItem) : State :=
  { idle with orders := {
      inFlight := [{ entry := 8, kind := 7, tag := 0, params := [], completed := true }], queue := q
      head := some { base := 0x1000, issuedAt := 0 } } }

def done8 : Completion := { failed := false, code := .ok, value := 5, time := 0, tag := 0 }

theorem test_taken_answered : (after (exec (.takenWriteAnswered 1) (queued [.taken 8]))).orders.queue = [] := by
  decide +kernel

theorem test_result_written : (after (exec (.completionResultWritten 1) (queued [.completion 8 done8 false]))).orders.queue =
    [.completion 8 done8 true] := by decide +kernel

theorem test_delivered :
    let t := after (exec (.completionDelivered 1) (queued [.completion 8 done8 true]))
    t.orders.inFlight = [] ∧ causeSet .order t = true := by decide +kernel

theorem test_completion_bytes : completionBytes { done8 with code := .clamped, tag := 0x2211, value := 258 } =
    ([1, 0, 0, 0, 0x11, 0x22, 0, 0, 0, 0, 0, 0], [2, 1, 0, 0, 0, 0, 0, 0] ++ zeros 8) := by decide +kernel
/-! ## Chapter 9: configuration blocks, parameter memory, the factory store -/

/-- The first 48 bytes of a block: generation 33, MP0 and MP1 enabled, MP1 a member, reference MP1, SYNC closes, D = 2^40,
30 minutes, CALENDAR, 3 slots, offset 2, floor 10,000, idle tracking, 1 calendar entry, idle floor 4, page base 16,384,
K = 16, aggregate contracted current 500,000. -/
def blockHead : List Byte :=
  [33, 0, 0, 0, 3, 2, 1, 1, 0, 0, 0, 0, 0, 1, 0, 0, 30, 0, 3, 2, 0x10, 0x27, 0, 0, 1, 1, 0, 0, 4, 0, 0, 0,
    0, 0x40, 0, 0, 16, 0, 0, 0, 0x20, 0xA1, 7, 0, 0, 0, 0, 0]

/-- A point with W = 4, I_L = 500,000 and every channel at gain 36,000, offset -50, its own values. -/
def blockPoint : List Byte :=
  [4, 0, 0, 0, 0x20, 0xA1, 7, 0] ++ (List.replicate 7 ([0xA0, 0x8C, 0xCE, 0xFF, 0, 0, 0, 0] : List Byte)).flatten

def blockBytes : List Byte :=
  blockHead ++ (List.replicate 4 blockPoint).flatten ++ [0x1F, 1, 0xA4, 1] ++ zeros 124 ++ [0, 0, 0, 0, 0, 0, 0x90, 1]
    ++ zeros 104

theorem test_block_head :
    let c := decodeCfg blockBytes
    (c.generation, c.enabledMask, c.memberMask, c.refPoint, c.closeSource, c.divisor) = (33, 3, 2, 1, 1, 2 ^ 40) ∧
    (c.lengthMinutes, c.tariffSource, c.slots, c.dow, c.reportFloor, c.idleTracking) = (30, 0, 3, 2, 10000, 1) ∧
    (c.calendarCount, c.idleFloor, c.pageBase, c.pageCount, c.aggContracted) = (1, 4, 16384, 16, 500000) := by
  decide +kernel

theorem test_block_lists :
    let c := decodeCfg blockBytes
    c.point 3 = { weight := 4, contracted := 500000
                  chans := List.replicate 7 { gain := 36000, offset := -50, useFactory := 0 } } ∧
    c.calendar.getD 0 {} = { dayMask := 0x1F, slot := 1, minute := 420 } ∧ c.limits.getD 3 0 = 400 ∧
    blockBytes.length = 544 ∧ judge {} false c = none := by decide +kernel

/-- The block of the worked case: MP3 a member but not enabled, slot 3 of 3 in calendar entry 4, limit 12,000 at order 7. -/
def faulty : Cfg :=
  { enabledMask := 7, memberMask := 8, slots := 3, aggContracted := 16, calendarCount := 5
    calendar := (List.range 5).map (fun e => { dayMask := 1, minute := e, slot := if e = 4 then 3 else 0 })
    limits := (List.range 49).map (fun j => if j = 5 then 12000 else 0) }

theorem test_three_passes :
    judge {} false faulty = some (.badConfig, 3) ∧
    judge {} false { faulty with memberMask := 4 } = some (.badConfig, 134) ∧
    judge {} false { faulty with memberMask := 4, calendar := faulty.calendar.take 4 ++ [{ dayMask := 1, minute := 4 }] } =
      some (.badConfig, 237) ∧
    judge { divisor := some (2 ^ 40) } false faulty = some (.divisorFixed, 0) := by decide +kernel

theorem test_layout_at_a_boundary : judge { active := some {} } true { pageCount := 9 } = some (.badState, 0) ∧
    judge { active := some {} } false { pageCount := 9 } = none := by decide +kernel

theorem test_block_read_done : (after (exec (.configBlockReadDone 1 blockBytes) { idle with
    event := some (eventOf .tick)
    port := { idle.port with configRead := some { entry := 4, access := { base := 0x1000, issuedAt := 0 } } } })).due =
      [.activate (decodeCfg blockBytes) 4] := by decide +kernel

theorem test_activation :
    let t := after (exec .configActivation (inEvent (eventOf .tick) [.activate (decodeCfg blockBytes) 4] idle))
    (t.store.divisor, t.tb.dowOffset, (t.channel 6).offset, activeGain t 6) = (some (2 ^ 40), 2, -50, 36000) := by
  decide +kernel

theorem test_parameters :
    (paramValue { idle with tb := { nom60 := true } } 5, paramValue idle 19, paramValue idle 92, paramValue idle 261,
      paramValue idle 269, paramValue idle 320) = (some 60, some 200000, none, some 1280, none, none) := by decide +kernel

theorem test_setting_ranges : (settingRange false 5, settingRange true 5, settingRange false 6, settingRange false 7,
    settingRange false 8, settingRange false 3) = ((1, 1280), (1, 1536), (1, 33554431), (50, 100), (1, 15), (1, 5)) := by
  decide

/-- A reset whose load has come to a stage, with an epoch. -/
def loading (stage : LoadStage) (epoch : Word32) : State :=
  { phase := .loading stage 0 .powerOn, store := { factory := { epoch } } }

/-- The epoch block of the worked case holds 41: the life carries 42. -/
theorem test_epoch_read :
    (after (exec (.factoryTransferAnswered 1 [41, 0xFFFFFFFF#32 - 41]) (loading .epochRead 0))).store.factory.epoch = 42 ∧
    (after (exec (.factoryTransferAnswered 1 [42, 7]) (loading .epochRead 0))).store.factory.epoch = 1 := by decide +kernel

/-- Life A of the worked case: the verify read returns the old 41. -/
theorem test_epoch_unsaved :
    let t := after (exec (.factoryTransferAnswered 1 [41, 0xFFFFFFFF#32 - 41]) (loading .epochVerify 42))
    t.store.factory.unsaved = true ∧ t.phase = .running := by decide +kernel

theorem test_factory_missing :
    let t := after (exec .factoryTransferTimeout (loading .identity 0))
    t.store.factory.missing = true ∧ t.tick = 100000 := by decide +kernel

/-- An identity block with serial 7, revision 3 and every channel at gain 32,768 and offset -2. -/
theorem test_identity_block :
    let words : List Word32 := [7, 0, 3] ++ List.replicate 28 0xFFFE8000
    let f := judgeIdentity (words ++ [0xFFFFFFFF#32 - words.foldl (· + ·) 0]) {}
    (f.serial, f.revision, f.gains.getD 27 0, f.offsets.getD 27 0, f.missing) = (7, 3, 32768, -2, false) := by
  decide +kernel

/-! ## Chapter 10: registers, measurement, bus faults, resets -/

theorem test_exbase : (after (exec (.exbaseWrite 0 false 0x89ABCFFF) idle)).port.exbase = 0x89ABC000 ∧
    (after (exec (.exbaseWrite 0 true 0x12) idle)).port.exbase = 0x1200001000 := by decide +kernel

/-- The worked case of a refused start: HALTED without a configuration, then with one. -/
theorem test_run_set :
    let t := after (exec (.runSet ⟨0, false⟩) idle)
    let u := after (exec (.runSet ⟨0, false⟩) loaded)
    (t.port.meas, t.port.run, t.port.startRefused) = (.halted, false, true) ∧
      (u.port.meas, u.port.run, u.port.startRefused) = (.starting, true, false) := by decide +kernel

theorem test_run_clear : (after (exec (.runClear ⟨0, false⟩) running)).port.meas = .stopping := by decide +kernel

theorem test_resume : (after (exec (.resume ⟨0, false⟩) { idle with
    port := { idle.port with exchange := .faulted, intcause := 0x080 } })).port.exchange = .faulted ∧
    (after (exec (.resume ⟨0, false⟩) { idle with port := { idle.port with exchange := .faulted } })).port.exchange = .online := by
  decide +kernel

/-- R197: a write of ENGCTL acts with each of its fields: 3 sets RUN and resumes, 2 clears RUN and resumes, and 7 resets.
Bit 3 is reserved. -/
theorem test_engctl_fields :
    let s : State := { loaded with port := { loaded.port with exchange := .faulted } }
    let t := after (exec (engctlCommand 0 3) s)
    let u := after (exec (engctlCommand 0 2) { running with port := { running.port with exchange := .faulted } })
    (t.port.run, t.port.meas, t.port.exchange) = (true, .starting, .online) ∧
      (u.port.run, u.port.meas, u.port.exchange) = (false, .stopping, .online) ∧
      engctlCommand 5 7 = .softReset ⟨5, true, true⟩ ∧ engctlCommand 5 8 = .runClear ⟨5, false⟩ := by decide +kernel

/-- R197, R199: with BUSFAULT set RESUME has no effect, and RUN of the same write starts measurement all the same. -/
theorem test_engctl_run_beside_a_held_resume :
    let t := after (exec (.resume ⟨0, true⟩) { loaded with
      port := { loaded.port with exchange := .faulted, intcause := 0x080 } })
    (t.port.exchange, t.port.meas) = (.faulted, .starting) := by decide +kernel

theorem test_intcause_clear : (after (exec (.intcauseClear 0 0x0F0) { idle with
    port := { idle.port with intcause := 0x1FF } })).port.intcause = 0x10F := by decide +kernel

theorem test_intmask : (after (exec (.intmaskWrite 0 0xFFFFFFFF) idle)).port.intmask = 0x1FF := by decide +kernel

theorem test_line : interruptLine { idle with port := { idle.port with intcause := 0x100, intmask := 0x0FF } } = false ∧
    interruptLine { idle with port := { idle.port with intcause := 0x180, intmask := 0x080 } } = true := by decide

theorem test_ignored_write : (after (exec (.registerWriteIgnored 7 0x0C 5) idle)).tick = 7 := by decide +kernel

/-- ENGSTAT: RUNNING (2), FAULTED (bit 4), HOLDOVER (2 at bits 8 and 9), holding occupied (bit 12). -/
theorem test_engstat : readRegister { running with
    port := { running.port with exchange := .faulted }, tb := { lock := .holdover }, filing := { held := some file701 } }
    0x0C = 0x1212 ∧ readRegister running 0x08 = 1 ∧ readRegister running 0x18 = 0 := by decide +kernel

theorem test_free_tick : (after (exec .freeTick { idle with tb := { freeTickAt := 500 } })).port.scan =
    some { base := 0x1000, issuedAt := 500 } := by decide +kernel

theorem test_first_boundary : (after (exec .freeTick { loaded with
    port := { loaded.port with meas := .starting, run := true } })).port.meas = .running := by decide +kernel

theorem test_window_boundary : (after (exec .windowBoundary { running with tb := { strobe := 2559 } })).tick = 2000000 ∧
    (after (exec .windowBoundary { running with tb := { strobe := 2559 } })).tb.strobe = 0 := by decide +kernel

/-- A header block write that is not answered in 2 ms. -/
theorem test_header_timeout :
    let t := after (exec (.busAccessTimeout .header .write 100 0) { idle with port := { idle.port with
      header := some { access := { base := 0x1000, issuedAt := 30 }, image := [], counting := false } } })
    (t.port.exchange, t.tick, causeSet .busfault t) = (.faulted, 20030, true) ∧
      t.port.fault = { kind := .timeout, dir := .write, op := some .header, addr := 0x1064 } := by decide +kernel

/-- The confirming read of the update count's write goes to the count, wherever the command's offset points; a write there
lies inside it. -/
theorem test_confirming_read :
    let s : State := { idle with port := { idle.port with
      header := some { access := { base := 0x1000, issuedAt := 30 }, image := [], counting := true } } }
    (∃ k, 1 ≤ k ∧ k ≤ 4 ∧ accessPlace .header .read 100 s = some (4 - k)) ∧ accessPlace .header .write 100 s = none := by
  obtain ⟨k, h1, h2, h⟩ := confirmingPlace_spec (0, 4) (by decide)
  exact ⟨⟨k, h1, h2, by simp [accessPlace, readsOnly, groupRuns, h]⟩, by decide +kernel⟩

theorem test_owner_read_error : (after (exec (.busAccessError 0 .ownerRead .read 0 0) (inTransit .owner running))).port.fault =
    { kind := .error, dir := .read, op := some .ownerRead, addr := 0x1000 + 16384 + 5 * 8192 } := by decide +kernel

theorem test_header_answers :
    let h : HeaderWrite := { access := { base := 0x1000, issuedAt := 0 }, image := [], counting := false }
    ((after (exec (.headerFieldsAnswered 9) { idle with port := { idle.port with header := some h } })).port.header.map
      (fun h => (h.counting, h.access.issuedAt))) = some (true, 9) ∧
    (after (exec (.updateCountWriteAnswered 9) { idle with
      port := { idle.port with header := some { h with counting := true } } })).port.header = none := by decide +kernel

theorem test_header_bytes :
    let b := headerImage { running with port := { running.port with updateCount := 7302, resetCause := .pin } }
    (b.take 11, (b.drop 40).take 8) =
      ([0x86, 0x1C, 0, 0, 2, 0, 0, 0x48, 2, 0, 0], [0x40, 0x0D, 3, 0, 0x50, 0xC3, 0, 0]) := by decide +kernel

theorem test_power_on : (after (exec (.powerOn true) running)).tb.nom60 = true ∧
    (after (exec (.powerOn true) running)).tb.pace = 166667 := by decide +kernel

theorem test_pin_reset :
    let t := after (exec (.pinResetAssert 3) running)
    t.phase = .held .pin ∧ (after (exec (.pinResetRelease 3 false) t)).phase = .loading .identity 3 .pin := by decide +kernel

/-- R208: a power-on with RESET_N held leaves the engine in reset until the release. -/
theorem test_power_on_while_held :
    let t := after (exec (.powerOn true) (after (exec (.pinResetAssert 3) running)))
    t.phase = .held .powerOn ∧ (after (exec (.factoryTransferAnswered 1 []) t)).phase = .held .powerOn ∧
      (after (exec (.pinResetRelease 3 true) t)).phase = .loading .identity 3 .powerOn := by decide +kernel

theorem test_soft_reset :
    let t := after (exec (.softReset ⟨10000, false, false⟩) running)
    (t.port.meas, t.ic.current, t.tb.timeValue, t.port.resetCause) = (.halted, none, 1, .soft) := by decide +kernel

theorem test_idle_step : after (step idle) = { idle with tick := 1, tb := { subMs := 1 } } := by decide +kernel

theorem test_offset_effect : ((after (exec (.offsetChangeEffect 10) (inEvent (eventOf .boundary) [.offsetEffect 10]
    (requestOffset 10 40 false false running)))).channel 10).offset = 40 := by decide +kernel

theorem test_channel_stuck : ((after (exec (.channelStuck 3) (inEvent (eventOf .boundary) [.clip 3 true]
    (running.setChannel 3 { clipRun := 199 })))).channel 3).stuck = true := by decide +kernel

theorem test_channel_normal : ((after (exec (.channelNormal 3) (inEvent (eventOf .boundary) [.clip 3 false]
    (running.setChannel 3 { stuck := true, clearRun := 9 })))).channel 3).stuck = false := by decide +kernel

theorem test_idle_offset : ((after (exec (.idleOffsetUpdate 3) { running.setChannel 3 { idleCount := 49 } with
    store := { running.store with active := some { idleTracking := 1 } }, due := [.idle 3 true 3000] })).channel 3).request =
      some { value := 2047, idle := true, late := false } := by decide +kernel

/-- A decomposition of a window without points: its record reaches the accounting unit. -/
theorem test_decomposition : (after (exec (.decompositionComplete 5) { running with spectral := { decomposing := some {
      record := { startTime := 0, endTime := 200, pace := 200000, duration := 512000000, freq := 50000, locked := false
                  seq := 9, slot := 0 }
      cap := { cfg := {}, mons := [] }, points := [], verdict := none, number := 1 } } })).acct.measured = 512000000 := by
  decide +kernel

/-! ## Witnesses: for each statement with hypotheses, states and operands that meet them, clause by clause -/

theorem witness_StepRunsTheFrontCommand :
    ({ idle with pending := [.runSet ⟨0, false⟩, .freeTick] } : State).pending = .runSet ⟨0, false⟩ :: [.freeTick] := rfl

theorem witness_ReferenceTicksRunTheClock :
    let s : State := { idle with tb := { timeValue := 2 ^ 48 - 1, subMs := 9999 } }
    (s.phase = .running ∧ s.tb.timeValue < 2 ^ 48 ∧ s.tb.subMs < 10000) ∧ (idle.pending = [] ∧ quiet idle) := by
  unfold quiet; decide +kernel

/-- RESET_N held asserted. -/
def held (cause : ResetCause) : State := { State.reset with phase := .held cause }

theorem witness_PowerOnAndPinResetLeavePowerOnValues :
    (held .pin).phase = .held .pin ∧ (held .powerOn).phase = .held .powerOn ∧ ∀ cause, idle.phase ≠ .held cause :=
  ⟨rfl, rfl, fun _ h => nomatch h⟩

theorem witness_FactoryStoreLoadRuns :
    (0 + 99999 < 0 + 100000 ∧ (loading .identity 0).tick = 0 ∧ idle.tick = 0) ∧
    ((loading .identity 0).phase = .loading .identity 0 .powerOn ∧
      (loading .epochRead 0).phase = .loading .epochRead 0 .powerOn ∧
      (loading .epochWrite 0).phase = .loading .epochWrite 0 .powerOn ∧
      (loading .epochVerify 0).phase = .loading .epochVerify 0 .powerOn ∧ idle.phase = .running) := by decide

/-- An identity block with one word for all channels. -/
def identityWords (w : Word32) : List Word32 :=
  let v : List Word32 := [7, 0, 3] ++ List.replicate 28 w
  v ++ [0xFFFFFFFF#32 - v.foldl (· + ·) 0]

/-- Good blocks at both ends of the ranges, a gain and an offset past them, a sum and a length that fail. -/
theorem witness_FactoryStoreLoadRuns_block :
    [0xF8014000#32, 0x07FFBFFF#32].all (fun w => (identityWords w).length = 32 &&
      (identityWords w).foldl (· + ·) 0 = 0xFFFFFFFF#32 && identityGood (identityWords w)) = true ∧
    ((identityWords 0x3FFF).getD 3 0).toNat % 65536 < 16384 ∧ 2047 < ((identityWords 0x08008000).getD 30 0).toNat / 65536 ∧
    (zeros 32).length = 32 ∧ (List.replicate 32 (0 : Word32)).foldl (· + ·) 0 ≠ 0xFFFFFFFF#32 ∧
    ([] : List Word32).length ≠ 32 := by decide +kernel

theorem test_identity_block_ranges :
    [0x3FFF#32, 0xC000#32, 0xF8008000#32, 0x08008000#32].map (fun w => (judgeIdentity (identityWords w) {}).missing) =
      [true, true, true, true] := by decide +kernel

theorem witness_SoftResetKeepsAndClears :
    (atRest running ∧ running.ic.current ≠ none) ∧
    (atRest idle ∧ idle.ic.current = none ∧ idle.acct.closes = [] ∧ idle.stats.closes = []) := by
  unfold atRest quiet; decide +kernel

/-- R177, R178: the orders and the queue over a soft reset. -/
theorem test_soft_reset_keeps_the_queue :
    let f : InFlight := { entry := 3, kind := 2, tag := 1, params := [] }
    let t := after (exec (.softReset ⟨5, false, false⟩) { idle with orders := {
      queue := [.taken 3], head := some { base := 0x1000, issuedAt := 0 }, inFlight := [f, { f with completed := true }] } })
    t.orders.queue = [.taken 3] ∧ t.orders.head = some { base := 0x1000, issuedAt := 5 } ∧
      t.orders.inFlight = [{ f with ended := true }, { f with completed := true }] := by decide +kernel

/-- The covered points count a discard each; the monitors restart under their stored settings. -/
theorem test_soft_reset_discards_and_restarts :
    let w : PointWindow := { point := 0, slots := [], subst := 0, cls := .clean, stuck := [], mark := false }
    let d : DecompWindow := { record := { startTime := 0, endTime := 0, pace := 200000, duration := 0, freq := 0
                                          locked := false, seq := 1, slot := 0 }
                              cap := { cfg := { memberMask := 1 }, mons := [] }, points := [w], verdict := none, number := 1 }
    let k : Monitor := { state := .active, count := 3, last := 9, stored := { enable := 1, lo := 4, hi := 4 } }
    let t := after (exec (.softReset ⟨0, false, false⟩) { running with
      spectral := { decomposing := some d }
      stats := { accs := [{ point := 0 }, { point := 1 }, { point := 4 }], monitors := [k, k, k, k] } })
    t.stats.accs.map (fun a => a.discarded) = [1, 0, 1] ∧
      ((microStep .statReset t).monitor 3).state = .quiet ∧ ((microStep .statReset t).monitor 3).last = 0 := by
  decide +kernel

theorem witness_SoftResetClosesTheOpenInterval :
    (atRest running ∧ running.ic.current = some openIv) ∧ (atRest idle ∧ idle.ic.current = none) := by
  unfold atRest quiet; decide +kernel

theorem witness_ExbaseIsStoredWhileHalted :
    (quiet idle ∧ idle.port.meas = .halted) ∧ (quiet running ∧ running.port.meas ≠ .halted) := by
  unfold quiet; decide +kernel

/-- `loaded` with a measurement state and RUN. -/
def measured (m : Meas) (run : Bool) : State := { loaded with port := { loaded.port with meas := m, run := run } }

theorem witness_RunIsSetAndCleared :
    (quiet loaded ∧ loaded.port.run = false ∧ loaded.port.meas = .halted ∧ loaded.store.active ≠ none) ∧
    (quiet idle ∧ idle.port.run = false ∧ idle.port.meas = .halted ∧ idle.store.active = none) ∧
    (quiet (measured .stopping false) ∧ (measured .stopping false).port.run = false ∧
      (measured .stopping false).port.meas = .stopping) ∧
    (quiet (measured .starting true) ∧ (measured .starting true).port.run = true ∧
      (measured .starting true).port.meas = .starting) ∧
    (quiet running ∧ running.port.run = true ∧ running.port.meas = .running) := by unfold quiet; decide +kernel

/-- Writes of ENGCTL: SRST with and without RUN and RESUME, RESUME with and without RUN, and neither. -/
theorem witness_RunIsSetAndCleared_fields :
    (true = (0x7 : Word32).getLsbD 0 ∧ true = (0x7 : Word32).getLsbD 1 ∧ (0x7 : Word32).getLsbD 2 = true) ∧
    (false = (0x4 : Word32).getLsbD 0 ∧ false = (0x4 : Word32).getLsbD 1 ∧ (0x4 : Word32).getLsbD 2 = true) ∧
    (true = (0x3 : Word32).getLsbD 0 ∧ true = (0x3 : Word32).getLsbD 1 ∧ (0x3 : Word32).getLsbD 2 = false) ∧
    (false = (0x2 : Word32).getLsbD 0 ∧ true = (0x2 : Word32).getLsbD 1 ∧ (0x2 : Word32).getLsbD 2 = false) ∧
    (false = (0xFFFFFFF8 : Word32).getLsbD 0 ∧ false = (0xFFFFFFF8 : Word32).getLsbD 1 ∧
      (0xFFFFFFF8 : Word32).getLsbD 2 = false) := by decide

/-- The exchange FAULTED with causes set. -/
def faultedWith (causes : BitVec 9) : State :=
  { idle with port := { idle.port with exchange := .faulted, intcause := causes } }

theorem witness_ResumeNeedsBusfaultClear :
    (quiet (faultedWith 0x17F) ∧ (faultedWith 0x17F).port.exchange = .faulted ∧
      (faultedWith 0x17F).port.intcause.getLsbD 7 = false) ∧
    (quiet (faultedWith 0x080) ∧ (faultedWith 0x080).port.exchange = .faulted ∧
      (faultedWith 0x080).port.intcause.getLsbD 7 = true) ∧
    (quiet idle ∧ idle.port.exchange = .online) := by unfold quiet; decide +kernel

/-- RESUME beside a RUN that changes nothing and beside one that does. -/
theorem witness_ResumeNeedsBusfaultClear_run :
    false = (faultedWith 0).port.run ∧ true ≠ (faultedWith 0).port.run ∧
      Instr.runSet ⟨0, true⟩ ∈ [Instr.resume ⟨0, true⟩, if true then .runSet ⟨0, true⟩ else .runClear ⟨0, true⟩] ∧
      Instr.resume ⟨0, false⟩ ∈ [Instr.resume ⟨0, false⟩, if false then .runSet ⟨0, true⟩ else .runClear ⟨0, true⟩] := by decide

theorem witness_InterruptMaskAndLine : quiet idle := ⟨rfl, rfl⟩

theorem witness_HostWritesLatchClearOrAreIgnored :
    (8 < 9 ∧ quiet idle) ∧ (State.reset.phase ≠ .running ∧ Instr.softReset ⟨0, true, false⟩ ∈ [
      Instr.exbaseWrite 0 false 0, .runSet ⟨0, false⟩, .runClear ⟨0, false⟩, .resume ⟨0, true⟩,
      .softReset ⟨0, true, false⟩, .intcauseClear 0 0, .intmaskWrite 0 0, .registerWriteIgnored 0 0x0C 0]) ∧
    (0x18 ∉ [0x00, 0x04, 0x08, 0x0C, 0x10, 0x14] ∧
      Instr.pinResetAssert 0 ∈ [Instr.powerOn true, .pinResetAssert 0]) := by
  unfold quiet; decide +kernel

theorem witness_FreeTickScansWhileHalted :
    atRest idle ∧ idle.port.meas = .halted ∧ idle.port.exchange = .online ∧ idle.port.exbase ≠ 0 ∧
      (∀ k ∈ idle.stats.monitors, k.dirty = false ∧ k.restartDue = false) ∧ idle.spectral.decomposing = none := by
  unfold atRest quiet; decide +kernel

/-- R157, R196: no scan with the exchange FAULTED, or with base 0. -/
theorem witness_FreeTickScansWhileHalted_unreached :
    ∀ s ∈ [faultedWith 0, { idle with port := {} }],
      atRest s ∧ s.port.meas = .halted ∧ (s.port.exchange = .faulted ∨ s.port.exbase = 0) ∧ s.ic.pendingEnd = false ∧
        s.ic.pendingStep = false ∧ (∀ k ∈ s.stats.monitors, k.dirty = false ∧ k.restartDue = false) ∧
        (∀ c ∈ s.channels, c.request = none) ∧ s.spectral.decomposing = none := by unfold atRest quiet; decide +kernel

theorem test_free_tick_while_faulted :
    let t := after (exec .freeTick { faultedWith 0 with orders := { queue := [.taken 3] } })
    t.event = none ∧ t.due = [] ∧ t.port.scan = none ∧ t.tick = 2000000 ∧ t.tb.freeTickAt = 4000000 ∧
      t.orders.head = none := by decide +kernel

/-- R48: the end of an event of a run. -/
theorem witness_FirstBoundaryStartsTheRun_end :
    let s := inEvent (eventOf .first) [] running
    s.event = some (eventOf .first) ∧ measuring s = true ∧ s.store.active = some {} ∧
      (microStep .endEvent s).spectral.cap = some { cfg := {}, mons := List.replicate 4 {} } := by decide +kernel

theorem witness_FirstBoundaryStartsTheRun :
    let s := measured .starting true
    (atRest s ∧ s.port.meas = .starting ∧ s.port.exchange = .online ∧ s.port.exbase ≠ 0 ∧ s.store.active = some {} ∧
      (∀ k ∈ s.stats.monitors, k.dirty = false ∧ k.restartDue = false) ∧ s.spectral.decomposing = none) ∧
    ((0 : Fin 4).val < s.links.length ∧ ({} : Cfg).enabledMask.testBit 0 = true ∧
      ({} : Cfg).enabledMask.testBit 3 = false) := by unfold atRest quiet; decide +kernel

/-- The last strobe but one of a window; link 1 SEEKING. -/
def lastStrobe : State := { withLink 1 { state := .seeking, slots := [zeroSlot] } running with tb := { strobe := 2558 } }

theorem witness_StrobeReachesEveryLink :
    (atRest lastStrobe ∧ measuring lastStrobe = true ∧ lastStrobe.tb.strobe + 1 < windowLen lastStrobe.tb.nom60) ∧
      (lastStrobe.link 0).state ≠ .seeking ∧ (lastStrobe.link 1).state = .seeking := by
  unfold atRest quiet; decide +kernel

/-- A window whose strobes have all been emitted. -/
def windowFull : State := { running with tb := { strobe := 2559 } }

theorem witness_WindowBoundaryFallsAtItsInstant :
    atRest windowFull ∧ measuring windowFull = true ∧ windowFull.tb.strobe + 1 = windowLen windowFull.tb.nom60 ∧
      windowFull.spectral.decomposing = none := by unfold atRest quiet; decide +kernel

/-- The end of a window with link 0 RUNNING, link 1 SEEKING and link 2 DOWN. -/
def ending (halting : Bool) : State :=
  inEvent { eventOf .boundary with halting := halting } [] (withLink 1 { state := .seeking, slots := [zeroSlot] }
    (withLink 0 (upTo 3) running))

theorem witness_WindowEndHandsItsRecordOn :
    ((ending false).event = some (eventOf .boundary) ∧ (eventOf .boundary).halting = false ∧
      (ending false).ic.current = some openIv ∧ (ending false).spectral.cap = some { cfg := {}, mons := [] }) ∧
    ((ending false).link 0).state = .running ∧ ((ending false).link 1).state = .seeking ∧
      ((ending false).link 2).state = .down := by decide +kernel

/-- What is in flight at the end of a window: a calibration of channel 27, offset changes of channels 0 and 27, and a restart
of link 1. -/
def inFlightEnding (halting : Bool) : State :=
  let s := ending halting
  let s := s.setChannel 27 { calibration := some { entry := 5, firstWindow := 0, sum := 0 }
                             request := some { value := 9, idle := false, late := false } }
  let s := s.setChannel 0 { request := some { value := -9, idle := true, late := false } }
  { s.setLink 1 { s.link 1 with restart := some { entry := 6, boundaries := 3 } } with
    orders := { inFlight := [{ entry := 5, kind := 9, tag := 0, params := [] },
      { entry := 6, kind := 10, tag := 0, params := [] }] } }

theorem witness_WindowEndHandsItsRecordOn_inFlight :
    let s := inFlightEnding false
    s.event = some (eventOf .boundary) ∧ (eventOf .boundary).halting = false ∧
      s.spectral.cap = some { cfg := {}, mons := [] } ∧ s.link 0 = s.link (Fin.ofNat 4 ({} : Cfg).refPoint) ∧
      (s.channel 27).calibration.isSome = true ∧ (s.channel 0).request.isSome = true ∧ (s.link 1).restart.isSome = true ∧
      0 < s.links.length ∧ 3 < s.links.length := by decide +kernel

/-- R14, R17, R18, R23: what the end of a window makes due, in its order; point 0 alone is enabled. -/
theorem test_due_after_a_window :
    (closeWindow (inFlightEnding false)).due =
      [.calibrationCheck 27, .offsetEffect 0, .offsetEffect 27] ++
        (List.range 7).map (fun pos => Due.clip (Fin.ofNat 28 pos) false) ++ [.restartCheck 1] := by decide +kernel

/-- R30, R35: the timebase after a window of 2,560 strobes at pace 200,000, and the last V1 that its link carries on. -/
theorem test_timebase_after_a_window :
    let t := closeWindow (ending false)
    (t.tb.winNo, t.tb.winStart, t.tb.prevWinStart, t.tb.strobe) = (1, 512000000, 0, 0) ∧
      (t.link 0).prevV1.map (fun e => e.instant) = some (256 * ((2559 * 200000 + 255) / 256)) ∧ (t.link 2).prevV1 = none := by
  decide +kernel

/-- The clauses on the verdict, the measured pace, the crossing list and the fill, where they meet. -/
theorem witness_WindowEndHandsItsRecordOn_figures :
    (((ending false).link 0).runningAtStart = true ∧ ((ending false).link 0).enteredAt = none ∧
      ({ upTo 3 with enteredAt := some 2 } : Link).enteredAt = some 2 ∧ (idle.link 0).state ≠ .running) ∧
    ((List.range 10).length < 10 + 1 ∧ 10 + 1 ≤ (List.range 11).length ∧ (List.range 11).getD (11 - 1) 0 < 11 ∧
      10 ≤ (List.range 11).getD (11 - 1) 0) ∧
    (0 < (upTo 3).slots.length ∧ ((withLink 0 (upTo 2496) running).link 0).state = .running ∧
      (running.link 0).state ≠ .running) := by decide +kernel

/-- R6, R7: the fill of a window's end; 64 indices drop the link with SILENCE, 63 do not. -/
theorem test_finish_link :
    (microStep (.finishLink 0) (withLink 0 (upTo 2497) running)).due = [] ∧
    (microStep (.finishLink 0) (withLink 0 (upTo 2496) running)).due = [.drop 0 .silence] ∧
    ((microStep (.finishLink 0) (withLink 0 (upTo 2496) running)).link 0).slots.length = 2560 := by decide +kernel

/-- R35: a good sample below 0 and the next at or above it; an entry at index 2 begins a new list there. -/
theorem test_scan_of_crossings :
    let sl (v : Int) : Slot := { subst := false, ch := [{ good := true, raw := v, val := v, clipped := false }] }
    let k : Link := { upTo 0 with slots := [5, -5, 0, -1].map sl }
    scanCrossings { pace := 256, crossings := [7] } k = [7, 256, 640] ∧
      scanCrossings { pace := 256, crossings := [7] } { k with enteredAt := some 2 } = [640] ∧
      scanCrossings { pace := 256, crossings := [7] } { k with state := .seeking } = [] := by decide +kernel

theorem witness_HaltTakesEveryLinkDown :
    (ending true).event = some { eventOf .boundary with halting := true } ∧ (3 : Fin 4).val < (ending true).links.length ∧
    ({ running with tb := { lock := .locked } } : State).tb.lock = .locked ∧ (ending true).tb.lock ≠ .locked := by
  decide +kernel

theorem witness_HaltTakesEveryLinkDown_inFlight :
    let s := inFlightEnding true
    s.event = some { eventOf .boundary with halting := true } ∧ (s.link 1).restart.isSome = true ∧
      (s.channel 27).calibration.isSome = true ∧ 0 < s.links.length ∧ (s.links.getD 2 {}).state = .down ∧ 27 < 28 := by
  decide +kernel

/-- R10, R14, R23: the halt ends a restart and a calibration with BAD_STATE, link by link. -/
theorem test_in_flight_at_the_halt :
    let t := closeWindow (inFlightEnding true)
    t.orders.queue.map (fun q => match q with | .completion e c _ => some (e, c.code) | .taken _ => none) =
        [some (6, .badState), some (5, .badState)] ∧
      (t.channel 27).calibration = none ∧ (t.link 1).restart = none ∧
      t.due.take 2 = [.offsetEffect 0, .offsetEffect 27] := by decide +kernel

/-- Log 39: a restart whose 50th boundary is the one that halts fails with BAD_STATE. -/
theorem test_restart_at_the_halt :
    answered (closeWindow (withLink 1 { state := .seeking, restart := some { entry := 6, boundaries := 49 } }
      { ending true with orders := { inFlight := [{ entry := 6, kind := 10, tag := 0, params := [] }] } })) =
        some (true, .badState, 0) := by decide +kernel

/-- R34, R44: the halt takes a LOCKED machine to ACQUIRE and requests LOCK. -/
theorem test_lock_at_the_halt :
    let t := microStep .lockStep { ending true with tb := { lock := .locked, pace := 200401, pendingVerdict := none } }
    t.tb.lock = .acquire ∧ t.tb.pace = 200000 ∧ causeSet .lock t = true := by decide +kernel

/-- Strobe 2 of a window, link 0 RUNNING with indices 0 and 1 placed and a failure run of 63. -/
def atTwo : State := { withLink 0 { upTo 2 with failRun := 63 } running with tb := { strobe := 2 } }

theorem witness_GoodFrameIsPlaced :
    let f := decodeFrame (zeroFrame 2)
    atRest atTwo ∧ (atTwo.link 0).state = .running ∧ (zeroFrame 2).length = 18 ∧
      f.index = (atTwo.link 0).slots.length ∧ f.index ≤ atTwo.tb.strobe ∧ f.fault = false ∧
      (∀ c < 7, f.parityOk.getD c false = true) ∧ (atTwo.link 0).failRun < 64 := by
  unfold atRest quiet; decide +kernel

/-- The same with every strobed index placed. -/
def atOne : State := { atTwo with tb := { strobe := 1 } }

theorem witness_BadFramesAreCountedOrSubstituted :
    atRest atTwo ∧ atRest atOne ∧ (atTwo.link 3).state = .down ∧ (atTwo.link 0).state = .running ∧
      ((zeroFrame 1).length = 18 ∧ (decodeFrame (zeroFrame 1)).index < (atTwo.link 0).slots.length) ∧
      ((zeroFrame 3).length = 18 ∧ atTwo.tb.strobe < (decodeFrame (zeroFrame 3)).index) ∧
      ((atOne.link 0).state = .running ∧ (zeros 17).length ≠ 18 ∧ atOne.tb.strobe < (atOne.link 0).slots.length) ∧
      (zeros 19).length ≠ 18 ∧ (atTwo.link 0).slots.length ≤ atTwo.tb.strobe ∧
      (let f := decodeFrame (zeroFrame 2)
       (zeroFrame 2).length = 18 ∧ (atTwo.link 0).slots.length ≤ f.index ∧ f.index ≤ atTwo.tb.strobe ∧
         (atTwo.link 0).failRun + (f.index - (atTwo.link 0).slots.length) < 64) ∧
      (let s := withLink 0 { upTo 1 with failRun := 63 } atTwo
       let f := decodeFrame (zeroFrame 2)
       atRest s ∧ (s.link 0).state = .running ∧ (s.link 0).slots.length ≤ f.index ∧
         64 ≤ (s.link 0).failRun + (f.index - (s.link 0).slots.length)) := by unfold atRest quiet; decide +kernel

theorem witness_LinkDropFillsAndSeeks :
    ({ atTwo with due := [.drop 0 .parityRun] } : State).due = .drop 0 .parityRun :: [] ∧ (atTwo.link 0).state = .running ∧
      (1 : Fin 4) ≠ 0 ∧ 6 < 7 := by decide +kernel

/-- R23: a drop fails the calibrations of its link's channels with BAD_STATE, and no other link's. -/
theorem test_drop_fails_calibrations :
    let c : Calibration := { entry := 5, firstWindow := 0, sum := 0 }
    let s := (atTwo.setChannel 6 { calibration := some c }).setChannel 7 { calibration := some { c with entry := 4 } }
    let t := after (exec (.linkDrop 0) { s with
      due := [.drop 0 .silence], orders := { inFlight := [{ entry := 5, kind := 9, tag := 0, params := [] }] } })
    answered t = some (true, .badState, 0) ∧ (t.channel 6).calibration = none ∧ (t.channel 7).calibration.isSome = true := by
  decide +kernel

/-- Link 0 SEEKING at strobe 16 with a sync run of 15 that ends at index 15. -/
def seeking : State :=
  { withLink 0 { state := .seeking, slots := List.replicate 17 zeroSlot, syncRun := 15, syncLast := some 15 } running with
    tb := { strobe := 16 } }

theorem witness_SixteenFramesEnterRunning :
    let f := decodeFrame (zeroFrame 16)
    (atRest seeking ∧ (seeking.link 0).state = .seeking ∧ (zeroFrame 16).length = 18 ∧ f.index ≤ seeking.tb.strobe ∧
      f.fault = false ∧ ((List.range 7).filter (fun c => !f.parityOk.getD c false)).length = 0 ∧
      (seeking.link 0).syncLast = some 15 ∧ f.index = 15 + 1) ∧
    ((decodeFrame (zeroFrame 0)).index = 0 ∧ 2559 + 1 = windowLen seeking.tb.nom60 ∧
      (decodeFrame (zeroFrame 0)).index ≠ 15 + 1 ∧ 15 + 1 ≠ windowLen seeking.tb.nom60 ∧ ({} : Link).syncLast = none) ∧
    ((zeros 17).length ≠ 18 ∧ seeking.tb.strobe < (decodeFrame (zeroFrame 17)).index ∧
      (decodeFrame ([0x01, 0x00, 0x80] ++ zeros 15)).fault = true ∧ ([0x01, 0x00, 0x80] ++ zeros 15 : List Byte).length = 18 ∧
      0 < ((List.range 7).filter (fun c => !(decodeFrame (zeros 18)).parityOk.getD c false)).length) ∧
    (({ seeking with due := [.enterRunning 0 (zeroFrame 16)] } : State).due = .enterRunning 0 (zeroFrame 16) :: [] ∧
      (seeking.link 0).restart = none ∧
      ({ seeking.link 0 with restart := some { entry := 6, boundaries := 3 } } : Link).restart ≠ none) := by
  unfold atRest quiet; decide +kernel

/-- R163: a LINK_RESTART whose frame falls while the event waits for its scan completes when the event ends, with the time
value of that frame's tick: 7, although the clock stands at 8 by then. -/
theorem test_time_of_a_deferred_completion :
    let s : State := { withLink 0 { seeking.link 0 with restart := some { entry := 6, boundaries := 3 } } seeking with
      tb := { strobe := 16, timeValue := 7 }, orders := { inFlight := [{ entry := 6, kind := 10, tag := 0, params := [] }] }
      event := some { eventOf .tick with todo := [.endEvent] }
      port := { seeking.port with exbase := 0, scan := some { base := 0x1000, issuedAt := 0 } } }
    let t := after (exec (.linkEnterRunning 0) (after (exec (.scanReadsAnswered 19000 (zeros 1024))
      (after (exec (.frameArrival 900 0 (zeroFrame 16)) s)))))
    t.orders.queue = [.completion 6 { failed := false, code := .ok, value := 3, time := 7, tag := 0 } false] ∧
      t.tb.timeValue = 8 := by decide +kernel

theorem witness_CorrectionIsExactAndBounded :
    correctedExact 0 32769 (-32768) < -32767 ∧ 32767 < correctedExact (-50) 40000 32000 ∧
      (-32767 ≤ correctedExact 0 32768 32767 ∧ correctedExact 0 32768 32767 ≤ 32767) := by decide

/-- A CALIBRATE of channel 27 on entry 5 at a boundary, link 3 RUNNING. -/
def calibrating : State := ordered 5 9 (leBytes 4 27) (eventOf .boundary) (withLink 3 (upTo 1) running)

/-- The order of `ordered`. -/
def orderOf (e : Fin 16) (kind : Nat) (params : List Byte) : InFlight := { entry := e, kind, tag := 0x77, params }

theorem witness_ChannelNumbers :
    (3 < 4 ∧ 6 < 7 ∧ 27 < 28) ∧ calibrating.inFlight 5 = some (orderOf 5 9 (leBytes 4 27)) ∧
      param32 (leBytes 4 27) 16 = 27 ∧
      (∃ ev, calibrating.event = some ev ∧ ev.kind ≠ .tick ∧ ev.halting = false) ∧
      (calibrating.channel 27).calibration = none ∧ (calibrating.channel 27).stuck = false ∧
      (calibrating.link (Fin.ofNat 4 (27 / 7))).state = .running :=
  ⟨by decide, by decide +kernel, by decide +kernel, ⟨_, rfl, by decide, by decide⟩, by decide +kernel⟩

theorem witness_OffsetRequestsTakeEffect :
    (let s := inEvent (eventOf .boundary) [.offsetEffect 27] (requestOffset 27 (-2047) true false running)
     s.due = .offsetEffect 27 :: [] ∧ (s.channel 27).request = some { value := -2047, idle := true, late := false }) ∧
    (measuring running = true ∧ measuring idle = false ∧ idle.event = none ∧ (eventOf .boundary).halting = false) ∧
    (let s := requestOffset 27 5 false true (inEvent { eventOf .boundary with halting := true } [] loaded)
     s.event = some { eventOf .boundary with halting := true } ∧ measuring s = false ∧ 27 < s.channels.length ∧
       (s.channel 27).request = some { value := 5, idle := false, late := true }) ∧
    (let s : State := { running.setChannel 6 { idleCount := 49 } with
       store := { running.store with active := some { idleTracking := 1 } }, due := [.idle 6 true 2048] }
     s.due = .idle 6 true 2048 :: [] ∧ s.store.active = some { idleTracking := 1 } ∧ (s.channel 6).stuck = false ∧
       (s.channel 6).idleCount = 49) := by decide +kernel

/-- A channel that tracks, one window short of its 50th, and the three reasons to begin again. -/
theorem witness_OffsetRequestsTakeEffect_others :
    let s : State := { running.setChannel 27 { idleCount := 48 } with
      store := { running.store with active := some { idleTracking := 1 } } }
    (s.store.active = some { idleTracking := 1 } ∧ (s.channel 27).stuck = false ∧ (s.channel 27).idleCount < 49) ∧
    (∀ c, running.store.active = some c → c.idleTracking ≠ 1) ∧ (∀ c, idle.store.active = some c → c.idleTracking ≠ 1) ∧
    ((s.setChannel 27 { stuck := true, idleCount := 48 }).channel 27).stuck = true := by
  refine ⟨by decide +kernel, fun c h => ?_, fun c h => (nomatch h), by decide +kernel⟩
  cases h; decide

/-- R21: the 49th idle window counts; a window that is not idle, tracking off and a STUCK channel begin again at 0. -/
theorem test_idle_windows_count :
    let on : State := { running with store := { running.store with active := some { idleTracking := 1 } } }
    let k : Channel := { idleCount := 48 }
    [(on, k, true), (on, k, false), (running, k, true), (on, { k with stuck := true }, true)].map (fun (s, k, b) =>
      ((microStep (.idle 27 b 5) (s.setChannel 27 k)).channel 27).idleCount) = [49, 0, 0, 0] := by decide +kernel

theorem witness_ChannelsGoStuckAndBack :
    (let s := inEvent (eventOf .boundary) [.clip 27 true] (running.setChannel 27 { clipRun := 199 })
     s.due = .clip 27 true :: [] ∧ (s.channel 27).stuck = false ∧ 199 ≤ (s.channel 27).clipRun) ∧
    (let s := inEvent (eventOf .boundary) [.clip 0 false] (running.setChannel 0 { stuck := true, clearRun := 9 })
     s.due = .clip 0 false :: [] ∧ (s.channel 0).stuck = true ∧ 9 ≤ (s.channel 0).clearRun) ∧
    (let s := running.setChannel 0 { stuck := true, clearRun := 8 }
     (s.channel 0).stuck = true ∧ (s.channel 0).clearRun < 9) ∧
    (let s := running.setChannel 27 { clipRun := 198 }
     (s.channel 27).stuck = false ∧ (s.channel 27).clipRun < 199) := by decide +kernel

theorem witness_ChannelsGoStuckAndBack_calibration :
    let s := running.setChannel 27 { calibration := some { entry := 5, firstWindow := 0, sum := 0 } }
    (s.channel 27).calibration = some { entry := 5, firstWindow := 0, sum := 0 } ∧ (s.channel 26).calibration = none := by
  decide +kernel

theorem witness_LockEventsAtABoundary :
    (let s := inEvent (eventOf .boundary) [.lockStep] { running with
       tb := { steady := 2, pendingVerdict := some { verdict := .valid, pace := some 200097 } } }
     s.due = .lockStep :: [] ∧ s.event = some (eventOf .boundary) ∧ (eventOf .boundary).halting = false ∧
       s.tb.lock = .acquire ∧ s.tb.steady = 2 ∧ s.tb.pendingVerdict = some { verdict := .valid, pace := some 200097 } ∧
       (200097 - s.tb.pace) + (s.tb.pace - 200097) ≤ s.tb.pace / 2048) ∧
    (let s := inEvent (eventOf .boundary) [.lockStep] { running with
       tb := { lock := .holdover, hold := 149, pendingVerdict := some { verdict := .noLink, pace := none } } }
     s.due = .lockStep :: [] ∧ s.tb.lock = .holdover ∧ s.tb.hold = 149 ∧
       s.tb.pendingVerdict = some { verdict := .noLink, pace := none } ∧ Verdict.noLink ≠ .valid) := by decide +kernel

/-- A pending VALID verdict of a pace, and a pending verdict other than VALID. -/
def valid (p : Nat) : Measured := { verdict := .valid, pace := some p }
def invalid : Measured := { verdict := .weak, pace := some 200000 }

theorem witness_LockStepFollowsItsTables :
    let tb : Timebase := { pendingVerdict := some (valid 200097) }
    (({} : Timebase).pendingVerdict = none) ∧ (tb.lock = .acquire ∧ tb.pendingVerdict = some (valid 200097)) ∧
    ((valid 200097).verdict = .valid ∧ (valid 200097).pace = some 200097 ∧ invalid.verdict ≠ .valid) ∧
    (deviation tb.pace 200097 ≤ tb.pace / 2048 ∧ tb.pace / 2048 < deviation tb.pace 200098) ∧
    (deviation tb.pace 200781 ≤ tb.pace / 256 ∧ tb.pace / 256 < deviation tb.pace 200782) ∧
    (3 ≤ 2 + 1 ∧ 1 + 1 < 3 ∧ tb.steady ≤ 2 ∧ 148 + 1 < 150 ∧ 150 ≤ 149 + 1) ∧
    (({ tb with lock := .locked } : Timebase).lock = .locked ∧ ({ tb with lock := .holdover } : Timebase).lock = .holdover ∧
      ({ tb with lock := .free } : Timebase).lock = .free) := by decide

theorem witness_LockStepFollowsItsTables_slew :
    let tb : Timebase := { lock := .free, pendingVerdict := some (valid 222222) }
    tb.lock = .free ∧ tb.pace = nominalPace tb.nom60 := by decide

/-- A LOCKED timebase with a verdict pending, at a boundary. -/
def lockedWith (m : Measured) : State :=
  inEvent (eventOf .boundary) [] { running with tb := { lock := .locked, pendingVerdict := some m } }

/-- The boundary step with no move, with moves out of LOCKED to ACQUIRE and to HOLDOVER, and with one into it. -/
theorem witness_LockStepFollowsItsTables_step :
    (∀ ev, (lockedWith invalid).event = some ev → ev.halting = false) ∧
    (∀ m, (lockedWith m).tb.lock = .locked ∧ (lockedWith m).tb.pendingVerdict = some m) ∧
    (lockNext (lockedWith (valid 200781)).tb).lock = .locked ∧
    ((valid 200782).pace = some 200782 ∧ 200000 / 256 < deviation 200000 200782 ∧
      (lockNext (lockedWith (valid 200782)).tb).lock = .acquire) ∧
    (invalid.verdict ≠ .valid ∧ (lockNext (lockedWith invalid).tb).lock = .holdover) ∧
    (lockNext { steady := 2, pendingVerdict := some (valid 200097) }).lock = .locked := by
  refine ⟨?_, fun _ => ⟨rfl, rfl⟩, by decide +kernel⟩
  rintro ev h; cases h; rfl

/-- R44: LOCK is requested on leaving LOCKED, by a large deviation and by a verdict other than VALID, and not on staying. -/
theorem test_lock_is_requested_on_leaving :
    [valid 200781, valid 200782, invalid].map (fun m =>
      let t := microStep .lockStep (lockedWith m)
      (t.tb.lock, t.tb.winLocked, causeSet .lock t)) =
        [(.locked, true, false), (.acquire, false, true), (.holdover, false, true)] := by decide +kernel

/-- A full-scale window at the last bin. -/
theorem witness_PhasorsAreTheRoundedTransform :
    ((List.replicate 2560 (32767 : Int)).length = 2560 ∧
      (∀ v ∈ List.replicate 2560 (32767 : Int), -32767 ≤ v ∧ v ≤ 32767) ∧ 1280 ≤ 2560 / 2) ∧
    ∃ away : ℝ → Int, ∀ v, away v = if 0 ≤ v then ⌊v + 1 / 2⌋ else -⌊-v + 1 / 2⌋ := by
  refine ⟨⟨List.length_replicate, fun v hv => ?_, by norm_num⟩, fun v => if 0 ≤ v then ⌊v + 1 / 2⌋ else -⌊-v + 1 / 2⌋, fun _ => rfl⟩
  rw [List.eq_of_mem_replicate hv]
  norm_num

/-- `running` with closes by SYNC. -/
def syncIv : OpenInterval := { openIv with closeSync := true }
def runningSync : State := { running with ic := { running.ic with current := some syncIv } }

theorem witness_ClockAndTimeoutCausesArise :
    (let ev := { eventOf .boundary with tOld := 900000 }
     let s := inEvent ev [.clockCheck] running
     s.event = some ev ∧ ev.kind = .boundary ∧ s.ic.current = some openIv ∧ s.due = .clockCheck :: [] ∧
       openIv.closeSync = false ∧ openIv.nextAligned ≤ ev.tOld) ∧
    (let ev := { eventOf .boundary with tick := 9900000000 }
     let s := inEvent ev [.timeoutCheck] runningSync
     s.event = some ev ∧ s.ic.current = some syncIv ∧ s.due = .timeoutCheck :: [] ∧ syncIv.closeSync = true ∧
       ev.intervalEnd = false ∧ syncIv.lengthMs * 11 / 10 ≤ (ev.tick - syncIv.openTick) / 10000) := by decide +kernel

theorem witness_ClockAndTimeoutCausesArise_close :
    (stepped.event.isSome = true ∧ stepped.ic.current = some { openIv with slot := 2, nextAligned := 457200000 } ∧
      stepped.store.pend = some ({ weekCfg with generation := 14 }, 3) ∧ running.store.pend = none ∧
      (457290120 : Nat) / 900000 ≠ 457110120 / 900000) ∧
    (let s := inEvent (eventOf .boundary) [] running
     s.event = some (eventOf .boundary) ∧ s.ic.current = some openIv ∧ s.store.active = some {} ∧
       (0 : CauseSet) = (eventOf .boundary).causes ||| 0 ||| 0 ∧ (tariffView s).slot = openIv.slot ∧
       (tariffView stepped).slot ≠ 2) ∧
    ((eventOf .tick).kind ≠ .boundary ∧ idle.ic.current = none ∧ (eventOf .tick).kind ≠ .first ∧
      (eventOf .first).kind = .first ∧ ({ eventOf .boundary with halting := true } : Event).halting = true) := by
  decide +kernel

theorem witness_LineEventsArePutToTheNextEvent_evaluation :
    let st : ConfigStore := { active := some weekCfg }
    (weekCfg.tariffSource ≠ 1 ∧ ({ weekCfg with tariffSource := 1 } : Cfg).tariffSource = 1) ∧
    ((0, 420, 1) ∈ calendarInstances st ∧ (5, 420, 1) ∉ calendarInstances st ∧
      calendarInstances { active := some {} } = []) ∧
    (5 * 1440 + 0 ≤ (457110120 / 86400000 + 2) % 7 * 1440 + 457110120 % 86400000 / 60000 + 7 * 1440 ∧
      ∀ i ∈ calendarInstances st, (0 : Nat) * 1440 + 419 < i.1 * 1440 + i.2.1) := by decide +kernel

theorem witness_LineEventsArePutToTheNextEvent :
    (let ev := { eventOf .boundary with intervalEnd := true }
     (inEvent ev [.intervalEnd] running).due = .intervalEnd :: [] ∧ (inEvent ev [.intervalEnd] running).event = some ev ∧
       ev.intervalEnd = true ∧ ev.kind = .boundary ∧
       (runningSync.ic.current = some syncIv ∧ syncIv.closeSync = true) ∧
       (running.ic.current = some openIv ∧ openIv.closeSync = false) ∧ idle.ic.current = none ∧
       (eventOf .tick).kind ≠ .boundary ∧ (eventOf .first).kind ≠ .boundary) ∧
    (let ev := { eventOf .tick with tariffStep := true }
     let s := inEvent ev [.tariffStep] loaded
     s.due = .tariffStep :: [] ∧ s.event = some ev ∧ ev.tariffStep = true ∧ ev.tariffSet = none ∧
       s.store.active = some {} ∧ ({} : Cfg).tariffSource = 0 ∧ ({ tariffSource := 1 } : Cfg).tariffSource = 1) := by
  decide +kernel

theorem witness_DemandResetIsApplied :
    let ev := { eventOf .boundary with demand := true }
    let s := inEvent ev [.demandApply] { running with
      ic := { running.ic with demandPending := true, demandOrders := [5] }
      orders := { inFlight := [orderOf 5 4 [], orderOf 15 4 []] } }
    s.due = .demandApply :: [] ∧ s.event = some ev ∧ ev.kind = .boundary ∧ s.ic.current = some openIv ∧ ev.demand = true ∧
      entriesOnce s ∧ 5 ∈ s.ic.demandOrders ∧ s.inFlight 5 = some (orderOf 5 4 []) ∧
      (orderOf 5 4 []).completed = false ∧ ev.unfiled = false ∧ ({ ev with unfiled := true } : Event).unfiled = true := by
  unfold entriesOnce; decide +kernel

/-- An activation due at a free tick, over an older configuration of another reference point and layout. -/
def activating : State :=
  inEvent (eventOf .tick) [.activate (decodeCfg blockBytes) 5]
    { loaded with orders := { inFlight := [orderOf 5 1 []] } }

theorem witness_ConfigurationBecomesActive :
    (activating.due = .activate (decodeCfg blockBytes) 5 :: [] ∧ entriesOnce activating) ∧
    (27 < 28 ∧ 27 < activating.channels.length ∧ activating.event = some (eventOf .tick) ∧
      (eventOf .tick).timeSet = false ∧ (eventOf .tick).tariffSet = none ∧ activating.store.active = some {} ∧
      ({} : Cfg).refPoint ≠ (decodeCfg blockBytes).refPoint ∧ ({} : Cfg).pageCount ≠ (decodeCfg blockBytes).pageCount ∧
      activating.filing.transit = none ∧ (inTransit .owner activating).filing.transit ≠ none) ∧
    (activating.inFlight 5 = some (orderOf 5 1 []) ∧ (orderOf 5 1 []).completed = false) ∧
    (2 < (decodeCfg blockBytes).slots ∧ (decodeCfg blockBytes).slots ≤ 3) := by unfold entriesOnce; decide +kernel

/-- The numbers of the fields that fail. -/
def failing (c : Cfg) : List Nat := ((checkedFields c).filter (fun f => !f.2)).map (fun f => f.1)

/-- Fields 6 to 17 past their bounds and at them, and those of R182 and R183 past theirs. -/
theorem witness_JudgementGoesStepByStep_fields :
    failing {
      lengthMinutes := 2, closeSource := 2, tariffSource := 2, slots := 5, dow := 7, idleTracking := 2
      idleFloor := 524288, pageBase := 8192, pageCount := 257, memberMask := 1, aggContracted := 15
      calendarCount := 33 } = [6, 7, 8, 9, 10, 12, 13, 14, 15, 16, 17] ∧
    failing {
      lengthMinutes := 60, closeSource := 1, tariffSource := 1, slots := 4, dow := 6, idleTracking := 1
      idleFloor := 524287, pageBase := 2 ^ 32 - 256 * 8192, pageCount := 256, memberMask := 1
      aggContracted := 524287, calendarCount := 32 } = [] ∧
    failing { points := [{ weight := 0, contracted := 15, chans := [
      { useFactory := 0, gain := 16383, offset := -2048 }, { useFactory := 2, gain := 49152, offset := 2048 },
      { useFactory := 1, gain := 0, offset := 9999 }] }] } = [20, 21, 22, 23, 25, 26, 27] ∧
    failing { calendarCount := 3, calendar := [
      { dayMask := 127, minute := 5 }, { dayMask := 64, minute := 5, slot := 1 }, { dayMask := 128, minute := 1440 },
      { dayMask := 0 }] } = [123, 125, 126, 127] ∧
    failing { limits := [10001, 10000] } = [232] := by decide +kernel

/-- Fields 2 to 5 at their bounds, and past them. -/
theorem witness_JudgementGoesStepByStep :
    (faulty.calendar.length ≤ 32 ∧ faulty.divisor ≠ 2 ^ 40) ∧
    ((3, false) ∈ checkedFields faulty ∧ (checkedFields faulty).all (fun f => f.2 || 3 ≤ f.1) = true) ∧
    ((checkedFields {}).all (fun f => f.2) = true ∧ ({} : Cfg).pageCount ≠ ({ pageCount := 9 } : Cfg).pageCount) ∧
    ((2, false) ∈ checkedFields { enabledMask := 16 } ∧ (2, true) ∈ checkedFields { enabledMask := 15 }) ∧
    ((4, false) ∈ checkedFields { refPoint := 4 } ∧ (4, true) ∈ checkedFields { refPoint := 0 }) ∧
    ((5, false) ∈ checkedFields { divisor := 2 ^ 32 - 1 } ∧ (5, true) ∈ checkedFields { divisor := 2 ^ 32 } ∧
      (5, true) ∈ checkedFields { divisor := 2 ^ 60 } ∧ (5, false) ∈ checkedFields { divisor := 2 ^ 60 + 1 }) := by
  decide +kernel

/-- A block read of entry 5 in progress at an event. -/
def blockRead (kind : EventKind) : State :=
  { loaded with
    event := some (eventOf kind)
    port := { loaded.port with configRead := some { entry := 5, access := { base := 0x1000, issuedAt := 0 } } } }

theorem witness_ConfigBlockIsJudgedWhenRead :
    (quiet (blockRead .tick) ∧ (blockRead .tick).event = some (eventOf .tick) ∧
      (blockRead .tick).port.configRead = some { entry := 5, access := { base := 0x1000, issuedAt := 0 } } ∧
      (blockRead .tick).tick + 19999 < 0 + 20000) ∧
    judge loaded.store false (decodeCfg blockBytes) = some (.divisorFixed, 0) ∧
    (judge idle.store false (decodeCfg blockBytes) = none ∧ (eventOf .tick).kind = .tick) ∧
    (judge idle.store true (decodeCfg blockBytes) = none ∧ (eventOf .boundary).kind ≠ .tick ∧ idle.store.pend = none ∧
      ({ idle.store with pend := some ({}, 15) } : ConfigStore).pend = some ({}, 15) ∧
      judge { idle.store with pend := some ({}, 15) } true (decodeCfg blockBytes) = none) := by unfold quiet; decide +kernel

/-- A decoder, at tick 5,000,000. -/
def decoding (d : Decoder) : State := { running with tick := 5000000, ic := { running.ic with decoder := d } }

/-- Each clause where it meets its neighbour: 400 ms after a pulse or into a recovery, 20 ms and 500 ms low. -/
theorem witness_LinePulsesAreTimed :
    (quiet (decoding {}) ∧ ({} : Decoder).lineLow = false ∧ ({} : Decoder).recovering = false ∧
      ({} : Decoder).pulses = 0 ∧ ({ recovering := true } : Decoder).recovering = true ∧
      ({ lineLow := true } : Decoder).lineLow = true) ∧
    (let d : Decoder := { pulses := 7, lastPulseEnd := 1000000 }
     0 < d.pulses ∧ d.lastPulseEnd + 4000000 ≤ (decoding d).tick + 0 ∧ (decoding d).tick + 0 < 1000001 + 4000000) ∧
    (let d : Decoder := { lineLow := true, lowSince := some 4800001 }
     d.lineLow = true ∧ d.lowSince = some 4800001 ∧ d.declared = false ∧ 4800001 ≤ (decoding d).tick ∧
       (decoding d).tick + 0 - 4800001 < 200000) ∧
    (200000 ≤ (decoding {}).tick + 1 - 4800001 ∧ (decoding {}).tick + 0 - 0 ≤ 5000000 ∧
      5000000 < (decoding {}).tick + 1 - 0) ∧
    (let d : Decoder := { lineLow := true, lowSince := some 0, declared := true, recovering := true }
     quiet (decoding d) ∧ d.lowSince = some 0 ∧ d.declared = true ∧ d.recovering = true) := by unfold quiet; decide +kernel

/-- A rise after 500 ms low whose fault no command declared; a recovery counts no short pulse. -/
theorem test_late_rise_is_stuck_low :
    let t := after (exec (.syncLineRise 1) (decoding { lineLow := true, lowSince := some 0, pulses := 2 }))
    let u := after (exec (.syncLineRise 0) (decoding { lineLow := true, lowSince := some 4000000, recovering := true }))
    (t.ic.stuckLows, t.ic.decoder.recovering, t.ic.decoder.pulses) = (1, true, 0) ∧ u.ic.decoder.pulses = 0 := by
  decide +kernel

theorem witness_StuckLineAndBurstEnds :
    (let d : Decoder := { lineLow := true, lowSince := some 0 }
     quiet (decoding d) ∧ d.lineLow = true ∧ d.lowSince = some 0 ∧ d.declared = false) ∧
    (let d : Decoder := { recovering := true }
     quiet (decoding d) ∧ d.recovering = true ∧ d.lineLow = false) ∧
    (let d : Decoder := { pulses := 1 }
     quiet (decoding d) ∧ d.lineLow = false ∧ d.recovering = false ∧ d.pulses = 1) ∧
    (({ pulses := 3 } : Decoder).pulses = 3 ∧ 4 ≤ ({ pulses := 4 } : Decoder).pulses ∧
      ({ pulses := 6 } : Decoder).pulses ≤ 6 ∧ 7 ≤ ({ pulses := 7 } : Decoder).pulses) := by unfold quiet; decide +kernel

/-- A window in decomposition, of no points, with a sequence number. -/
def inHalf (seq : Word64) : DecompWindow :=
  { record := { startTime := 0, endTime := 200, pace := 200000, duration := 512000000, freq := 50000, locked := false
                seq := seq, slot := 0 }
    cap := { cfg := {}, mons := [] }, points := [], verdict := some invalid, number := 1 }

theorem witness_MonitorSettingsComeIntoForce :
    (let s := watched { watch .active 3 with dirty := true } [.monitorEffect]
     s.due = .monitorEffect :: [] ∧ (∃ k ∈ s.stats.monitors, k.dirty = true) ∧ s.spectral.decomposing = none ∧
       ({ s with spectral := { decomposing := some (inHalf 1) } } : State).spectral.decomposing ≠ none) ∧
    (watched (watch .active 3) [.monitorRestart 2]).due = .monitorRestart 2 :: [] := by decide +kernel

theorem witness_MonitorTurnsOn :
    let s := watched (watch .rising 2) [.monitorStep 2 8000 true 0 43]
    let q := watched { watch .quiet 0 with cur := { (watch .quiet 0).cur with persistence := 1 } } [.monitorStep 2 8000 true 0 43]
    (s.due = .monitorStep 2 8000 true 0 43 :: [] ∧ (s.monitor 2).cur.threshold ≤ 8000 ∧ (s.monitor 2).state = .rising ∧
      (s.monitor 2).cur.persistence ≤ (s.monitor 2).count + 1) ∧
    ((q.monitor 2).cur.threshold ≤ 8000 ∧ (q.monitor 2).state = .quiet ∧ (q.monitor 2).cur.persistence ≤ 1) ∧
    (let a := watched (watch .active 3) []
     (a.monitor 2).state = .active ∧ (a.monitor 2).cur.threshold * (a.monitor 2).cur.ratio / 100 ≤ 6000 ∧
       5999 < (a.monitor 2).cur.threshold * (a.monitor 2).cur.ratio / 100 ∧ 7999 < (a.monitor 2).cur.threshold) ∧
    (1 < (watch .quiet 0).cur.persistence ∧ 1 + 1 < (watch .rising 1).cur.persistence ∧ (watch .off 0).state = .off) ∧
    (eligibleWindow { emission := 1 } (windowOf .clean true 0 0) { mon := 2, value := 1, power := some (-1) } = true ∧
      eligibleWindow { emission := 1 } (windowOf .clean true 0 0) { mon := 2, value := 1, power := some 0 } = false) := by
  decide +kernel

/-- `running` with a window in decomposition. -/
def decomposing (seq : Word64) : State := { running with spectral := { running.spectral with decomposing := some (inHalf seq) } }

theorem witness_DecompositionHandsItsResultsOn :
    (quiet running ∧ running.spectral.decomposing = none) ∧
    (quiet (decomposing 1) ∧ (decomposing 1).spectral.decomposing = some (inHalf 1) ∧ (decomposing 1).event = none) ∧
    (inEvent (eventOf .boundary) [] (decomposing 1)).event = some (eventOf .boundary) ∧
    ((inHalf 1).verdict = some invalid ∧ ({ inHalf 1 with verdict := none } : DecompWindow).verdict = none) ∧
    (let w : PointWindow := { point := 3, slots := [], subst := 0, cls := .clean, stuck := [], mark := false }
     let d : DecompWindow := { inHalf 1 with points := [w] }
     (d.points.map (fun w => w.point)).Nodup ∧ (∀ w ∈ d.points, w.point < 4) ∧ w ∈ d.points ∧ 6 < 7 ∧
       (decomposing 1).channels.length = 28 ∧ ∀ w ∈ d.points, 20 / 7 ≠ w.point) := by
  unfold quiet; decide +kernel

theorem witness_DecompositionHandsItsResultsOn_figures :
    (let c : Calibration := { entry := 1, firstWindow := 3, sum := 0 }
     let s := running.setChannel 27 { calibration := some c }
     27 < s.channels.length ∧ (s.channel 27).calibration = some c ∧ (s.channel 0).calibration = none ∧ 2 < c.firstWindow ∧
       c.firstWindow + 5 ≤ 8 ∧ c.firstWindow ≤ 3 ∧ 6 < c.firstWindow + 4 ∧ 7 = c.firstWindow + 4) ∧
    (({} : Acc).stuck.length = 7 ∧ (windowOf .clean true 0 0).stuck.length = 7 ∧ ({} : Acc).total = 0 ∧
      ({ total := 1 } : Acc).total ≠ 0) ∧
    ((windowOf .flagged true 0 0).cls ≠ .clean ∧ (windowOf .clean false 0 0).record.locked = false) ∧
    ((windowOf .clean true 0 0).cls = .clean ∧ (windowOf .clean true 0 0).record.locked = true ∧
      (windowOf .clean true 0 0).point ≠ 4 ∧ ({ windowOf .clean true 0 0 with point := 4 } : WinResult).point = 4 ∧
      48 < ({} : Acc).orders.length ∧ 65535 ≤ (windowOf .clean true 0 0).thdI ∧
      ({ windowOf .clean true 0 0 with thdV := 65534 } : WinResult).thdV < 65535) := by decide +kernel

/-- HALTED with the decomposition of the last window of a run in progress; the next free tick at an instant. -/
def haltedHalf (m : Meas) (instant : Nat) : State :=
  { decomposing 1 with
    port := { (decomposing 1).port with meas := m }, tb := { (decomposing 1).tb with freeTickAt := instant } }

/-- Both clauses of FreeTickScansWhileHalted at the ends of their ranges, and the last premise of
FirstBoundaryStartsTheRun. -/
theorem witness_FreeTickWithADecomposition :
    (∀ m ∈ [Meas.halted, Meas.starting], let s := haltedHalf m 2000000
      atRest s ∧ s.port.meas = m ∧ s.port.exchange = .online ∧ s.port.exbase ≠ 0 ∧ s.store.active ≠ none ∧
        (∀ k ∈ s.stats.monitors, k.dirty = false ∧ k.restartDue = false) ∧ s.spectral.decomposing ≠ none ∧
        max s.tick s.tb.freeTickAt ≤
          s.tb.runStart + (s.tb.winStart + windowLen s.tb.nom60 * nominalPace s.tb.nom60 + 255) / 256) ∧
    (let s := haltedHalf .halted 2000001
     atRest s ∧ measuring s = false ∧ s.spectral.decomposing ≠ none ∧
       s.tb.runStart + (s.tb.winStart + windowLen s.tb.nom60 * nominalPace s.tb.nom60 + 255) / 256 <
         (elapse (s.tb.freeTickAt - s.tick) s).tick) := by unfold atRest quiet; decide +kernel

/-- The close of `closing` with further causes. -/
def closeWith (c : Cause) : Close := { closeA with causes := c.set }

theorem witness_ClosesFinishAtBothUnits :
    ((closing [.acctFinish]).due = .acctFinish :: [] ∧ (closing [.acctFinish]).acct.closes = closeA :: []) ∧
    ((closing [.statFinish]).due = .statFinish :: [] ∧ (closing [.statFinish]).stats.closes = closeA :: []) ∧
    (closing [.acctFinish]).spectral.decomposing = none ∧ (inHalf 2).record.seq ≠ closeA.seq ∧
    (closeA.causes.getLsbD 8 = false ∧ closeA.causes.getLsbD 9 = false ∧ (closing []).store.active = some {}) ∧
    ((closeWith .halt).causes.getLsbD 8 = true ∧ (closeWith .reset).causes.getLsbD 9 = true ∧
      (closing []).acct.openDue = false ∧ (closing []).stats.openDue = false) := by decide +kernel

theorem witness_ClosesFinishAtBothUnits_awaited :
    ∀ w, (closing [.acctFinish]).spectral.decomposing = some w → w.record.seq ≠ closeA.seq := by
  intro w h; cases h

theorem witness_CompletedFilesArePlaced :
    let a : Assembly := { close := closeA, acct := some ([], []), stat := some [] }
    let s : State := { running with due := [.fileComplete 1], filing := { assemblies := [a] } }
    (s.due = .fileComplete 1 :: [] ∧ s.filing.assemblies.find? (fun b => b.close.seq = 1) = some a ∧
      a.acct = some ([], []) ∧ a.stat = some []) ∧
    (running.filing.held = none ∧ running.filing.transit = none ∧ running.port.exchange = .online ∧
      running.port.exbase ≠ 0) ∧
    ((inTransit .owner running).filing.held = none ∧ (inTransit .owner running).filing.transit ≠ none ∧
      (faultedWith 0).port.exchange ≠ .online ∧ ({} : Port).exbase = 0) ∧
    (let r : State := inEvent (eventOf .boundary) [.heldRetry] { running with filing := { held := some file701 } }
     r.due = .heldRetry :: [] ∧ r.filing.held = some file701 ∧ r.filing.transit = none ∧ r.port.exchange = .online ∧
       r.port.exbase ≠ 0 ∧ r.event = some (eventOf .boundary) ∧ (eventOf .boundary).inTransit = false ∧
       ({ eventOf .boundary with inTransit := true } : Event).inTransit = true) ∧
    (running.asOf = none ∧ ({ running with filing := { held := some file701 } } : State).filing.held ≠ none) := by
  decide +kernel

/-- A file held reports its close: the CLOSE_INTERVAL order of entry 9 completes with number 701. -/
theorem witness_CompletedFilesArePlaced_report :
    let s : State := { running with
      ic := { running.ic with closeOrders := [(9, 701)] }, orders := { inFlight := [orderOf 9 2 []] }
      filing := { held := some file701 } }
    ((701 : Word64) ∈ file701.unreported ∧ ((9 : Fin 16), (701 : Word64)) ∈ s.ic.closeOrders ∧
      s.inFlight 9 = some (orderOf 9 2 []) ∧ (orderOf 9 2 []).completed = false) ∧
    answered (placeFile file701 s) = some (false, .ok, 701) := by decide +kernel

/-- The file of `inTransit`. -/
def transitAt (stage : TransitStage) : Transit :=
  { file := file701, fromHeld := false, base := 0x1000, pageBase := 16384, page := 5, stage := stage, seqNo := 1206
    issuedAt := 0 }

theorem witness_TransitsWriteAPageOrReturn :
    let s := fun st => inTransit st running
    (quiet (s .owner) ∧ (s .owner).filing.transit = some (transitAt .owner) ∧
      (s .owner).tick + 19999 < (transitAt .owner).issuedAt + 20000 ∧ (transitAt .owner).stage = .owner ∧
      (s .owner).filing.layoutDue = false ∧ (0 : Word32) ≠ 1 ∧ (2 : Word32) ≠ 1) ∧
    ((s .body).filing.transit = some (transitAt .body) ∧ (transitAt .body).stage = .body) ∧
    ((s .header).filing.transit = some (transitAt .header) ∧ (transitAt .header).stage = .header ∧
      (s .header).filing.layoutDue = false ∧ (s .header).store.active = some {}) ∧
    (let r : State := { s .header with filing := { (s .header).filing with layoutDue := true } }
     quiet r ∧ r.filing.transit = some (transitAt .header) ∧ r.filing.layoutDue = true) := by unfold quiet; decide +kernel

/-- A record with order and event entries, one of the aggregate point, and a demand-close record, as the layouts
suppose them. -/
theorem witness_TransitsWriteAPageOrReturn_layouts :
    (let r : IntervalRecord := { rec701 with
       cumulative := List.replicate 9 0, deltas := List.replicate 36 0
       stats := { rec701.stats with orders := { emission := 1 } :: List.replicate 48 ({} : OrderAcc) } }
     r.stats.point = r.point ∧ r.point ≠ 4 ∧ r.stats.orders.length = 49 ∧ r.stats.stuck.length = 7 ∧
       r.cumulative.length = 9 ∧ r.deltas.length = 36 ∧ r.stats.events.length = 5 ∧ (orderList r.stats).length ≠ 0 ∧
       ({ r with point := 4, stats := { r.stats with point := 4 } } : IntervalRecord).point = 4) ∧
    (List.replicate 8 ({} : DemandEntry)).length = 8 ∧ file701.records ≠ [] := by decide +kernel

/-- A header block write in progress, before and after its fields are answered. -/
def writing (counting : Bool) : HeaderWrite := { access := { base := 0x1000, issuedAt := 0 }, image := [], counting }

theorem witness_HeaderBlockIsWrittenCountLast :
    (idle.port.exchange = .online ∧ idle.port.exbase ≠ 0 ∧ idle.links.length = 4 ∧ idle.channels.length = 28) ∧
    (let s : State := { idle with port := { idle.port with header := some (writing false) } }
     quiet s ∧ s.port.header = some (writing false) ∧ s.tick + 19999 < (writing false).access.issuedAt + 20000 ∧
       (writing false).counting = false ∧ (writing true).counting = true) := by unfold quiet; decide +kernel

theorem witness_QueueWritesAreAnsweredInTurn :
    (quiet (queued [.taken 8]) ∧ (queued [.taken 8]).orders.head = some { base := 0x1000, issuedAt := 0 } ∧
      (queued [.taken 8]).tick + 19999 < 0 + 20000 ∧ (queued [.taken 8]).orders.queue = .taken 8 :: []) ∧
    (queued [.completion 8 done8 false]).orders.queue = .completion 8 done8 false :: [] ∧
    (queued [.completion 8 done8 true]).orders.queue = .completion 8 done8 true :: [] := by unfold quiet; decide +kernel

theorem witness_BusFaultsEndEveryOperation :
    quiet (inTransit .owner running) ∧
      operation .ownerRead 0 (inTransit .owner running) =
        some { base := 0x1000 + 16384 + 5 * 8192, issuedAt := 0 } ∧
      (inTransit .owner running).port.exchange = .online ∧ (inTransit .owner running).tick + 19999 < 0 + 20000 ∧
      (inTransit .owner running).filing.transit ≠ none ∧
      accessPlace .ownerRead .read 3 (inTransit .owner running) = some 3 := by unfold quiet; decide +kernel

/-- A boundary that waits for a configuration block, with a SNAPSHOT in progress and a file in transit whose close an
order waits for. -/
def busy : State :=
  { inTransit .body running with
    event := some { eventOf .boundary with todo := [.header, .endEvent] }
    ic := { running.ic with closeOrders := [(9, 701)] }
    orders := { queue := [.taken 2], head := some { base := 0x1000, issuedAt := 0 }
                inFlight := [orderOf 1 1 [], orderOf 4 5 [], orderOf 9 2 []] }
    port := { running.port with
      configRead := some { entry := 1, access := { base := 0x1000, issuedAt := 0 } }, snapshots := [snap (some [])] } }

theorem witness_BusFaultsEndEveryOperation_orders :
    (quiet busy ∧ operation .snapshot 4 busy = some { base := 0x40, issuedAt := 0 } ∧
      accessPlace .snapshot .write 3583 busy = some 3583 ∧ busy.port.exchange = .online) ∧
    (busy.inFlight 1 = some (orderOf 1 1 []) ∧ busy.inFlight 4 = some (orderOf 4 5 []) ∧
      busy.inFlight 9 = some (orderOf 9 2 []) ∧ busy.ic.closeOrders = [(9, 701)] ∧
      busy.filing.transit.any (fun x => x.file.unreported.contains 701)) :=
  by unfold quiet; decide +kernel

/-- R202: what the queue gains at a bus fault, in order, and that nothing is issued. -/
theorem test_bus_fault_ends_orders :
    let t := after (exec (.busAccessTimeout .snapshot .write 0 4) busy)
    t.orders.queue = [.taken 2, .completion 9 { failed := false, code := .ok, value := 701, time := 2, tag := 0x77 } false,
      .completion 1 { failed := true, code := .busFault, value := 0, time := (eventOf .boundary).tOld, tag := 0x77 } false,
      .completion 4 { failed := true, code := .busFault, value := 0, time := 2, tag := 0x77 } false] ∧
      t.orders.head = none ∧ t.port.intcause = 0x082 ∧ t.filing.held.isSome = true ∧ t.event = none := by decide +kernel

/-- The groups of the write operations, and a write at the ends of its run. -/
theorem witness_BusFaultsEndEveryOperation_groups :
    (1023 < 1024 ∧ 3 < 4 ∧ 543 < 544) ∧
    (BusOp.snapshot ∈ [BusOp.completion, .header, .pageWrite, .snapshot] ∧
      (groupRuns .snapshot idle).getLast? = some (0, 3584) ∧ 0 < 3584 ∧
      accessPlace .snapshot .write 3583 idle = some 3583) ∧
    ((queued [.completion 8 done8 false]).orders.queue = .completion 8 done8 false :: [] ∧
      (groupRuns .completion (queued [.completion 8 done8 false])).getLast? = some (48, 16) ∧
      (queued [.completion 8 done8 true]).orders.queue = .completion 8 done8 true :: [] ∧
      (queued [.taken 8]).orders.queue = .taken 8 :: [] ∧ (inTransit .body running).filing.transit ≠ none) := by
  decide +kernel

/-- A scan in progress at a free tick. -/
def scanning : State :=
  { idle with event := some (eventOf .tick), port := { idle.port with scan := some { base := 0x1000, issuedAt := 0 } } }

theorem witness_ScansTakePostedOrders :
    quiet scanning ∧ scanning.event = some (eventOf .tick) ∧ scanning.port.scan = some { base := 0x1000, issuedAt := 0 } ∧
      scanning.tick + 19999 < 0 + 20000 ∧ scanning.orders.resetDue = false ∧
      (let s : State := { idle with orders := {
         resetDue := true, inFlight := [{ orderOf 9 1 [] with ended := true }, { orderOf 2 1 [] with completed := true }] } }
       s.orders.resetDue = true ∧ entriesOnce s ∧ ∀ f ∈ s.orders.inFlight, f.ended = true → f.completed = false) ∧
      (let s := ordered 5 11 [] (eventOf .tick) idle
       s.inFlight 5 = some (orderOf 5 11 []) ∧ s.event = some (eventOf .tick) ∧ 10 < (orderOf 5 11 []).kind ∧
         (orderOf 5 0 []).kind = 0 ∧ answered (microStep (.handOver 5) s) = some (true, .badKind, 0)) := by
  unfold quiet entriesOnce; decide +kernel

/-- What every statement of an order supposes: the order at the front of what is due, in flight, at an event. -/
def supposes (e : Fin 16) (kind : Nat) (params : List Byte) (ev : Event) (s : State) : Prop :=
  (ordered e kind params ev s).due = .handOver e :: [] ∧
    (ordered e kind params ev s).inFlight e = some (orderOf e kind params) ∧ (orderOf e kind params).kind = kind ∧
    (ordered e kind params ev s).event = some ev

theorem witness_LoadAndCloseOrdersAreCarriedOut :
    (supposes 15 1 [] (eventOf .tick) idle ∧ idle.port.exchange = .online ∧ idle.port.exbase ≠ 0) ∧
    (supposes 15 1 [] (eventOf .tick) (faultedWith 0) ∧ (faultedWith 0).port.exchange ≠ .online) ∧
    (supposes 0 2 [] (eventOf .boundary) running ∧ (eventOf .boundary).kind = .boundary ∧ running.ic.current ≠ none) ∧
    (supposes 0 2 [] (eventOf .first) idle ∧ (eventOf .first).kind ≠ .boundary ∧ idle.ic.current = none) := by
  unfold supposes; decide +kernel

theorem witness_ResetAndTariffOrdersAreCarriedOut :
    loaded.store.active = some {} ∧
    (supposes 4 4 [] (eventOf .first) loaded ∧ (eventOf .first).kind ≠ .tick) ∧
    (supposes 4 4 [] (eventOf .tick) loaded ∧ (eventOf .tick).kind = .tick) ∧
    (supposes 4 8 [0xFF, 0xFF, 0xFF, 0xFF] (eventOf .tick) loaded ∧ param32 [0xFF, 0xFF, 0xFF, 0xFF] 16 = 0xFFFFFFFF) ∧
    (supposes 4 8 [3] (eventOf .tick) loaded ∧ param32 [3] 16 < 4 ∧ param32 [3] 16 < ({ slots := 4 } : Cfg).slots) ∧
    (supposes 4 8 [4] (eventOf .tick) loaded ∧ 4 ≤ param32 [4] 16 ∧ param32 [4] 16 ≠ 0xFFFFFFFF ∧
      ({} : Cfg).slots ≤ param32 [1] 16) ∧
    (supposes 4 8 [0] (eventOf .tick) idle ∧ idle.store.active = none ∧ param32 [0] 16 < 1 ∧ 1 ≤ param32 [1] 16) := by
  unfold supposes; decide +kernel

/-- R103: with no configuration active slot 0 alone can be forced. -/
theorem test_tariff_set_without_configuration :
    (after (exec (.tariffSet 4) (ordered 4 8 [0] (eventOf .tick) idle))).ic.forced = some 0 ∧
      answered (microStep (.handOver 4) (ordered 4 8 [1] (eventOf .tick) idle)) = some (true, .badParam, 0) := by
  decide +kernel

theorem witness_SetTimeLoadsTheClock :
    (supposes 4 3 (leBytes 8 (2 ^ 48 - 1) ++ leBytes 4 6) (eventOf .tick) idle ∧
      field (leBytes 8 (2 ^ 48 - 1) ++ leBytes 4 6) 0 8 < 2 ^ 48 ∧ field (leBytes 8 (2 ^ 48 - 1) ++ leBytes 4 6) 8 4 ≤ 6) ∧
    (2 ^ 48 ≤ field (leBytes 8 (2 ^ 48) ++ leBytes 4 6) 0 8 ∧ 6 < field (leBytes 8 0 ++ leBytes 4 7) 8 4) := by
  unfold supposes; decide +kernel

theorem witness_SnapshotsCaptureAndWriteAnImage :
    (let params := leBytes 8 0x40 ++ leBytes 4 3584
     supposes 4 5 params (eventOf .tick) idle ∧ 3584 ≤ field params 8 4 ∧
       field params 0 8 % 64 = 0 ∧
       field (leBytes 8 0x40 ++ leBytes 4 3583) 8 4 < 3584 ∧ field (leBytes 8 0x60 ++ leBytes 4 3584) 0 8 % 64 ≠ 0) ∧
    (let s : State := { idle with
       event := some { eventOf .tick with finishing := [.image 4] }, port := { idle.port with snapshots := [snap none] } }
     s.event = some { eventOf .tick with finishing := [.image 4] } ∧ (∃ p ∈ s.port.snapshots, p.entry = 4) ∧
       (∀ p ∈ s.port.snapshots, p.entry = 4 → p.image = none) ∧ s.port.exchange = .online ∧
       s.spectral.decomposing = none ∧ (faultedWith 0).port.exchange = .faulted ∧ (eventOf .boundary).kind = .boundary ∧
       (eventOf .tick).kind ≠ .boundary ∧ (decomposing 1).spectral.decomposing ≠ none) ∧
    (let s : State := { idle with due := [.snapCapture 4], port := { idle.port with snapshots := [snap none] } }
     s.due = .snapCapture 4 :: [] ∧ (∃ p ∈ s.port.snapshots, p.entry = 4 ∧ p.image = none) ∧ s.event = none ∧
       ({ s with port := { s.port with exchange := .faulted } } : State).port.exchange = .faulted) ∧
    (let s : State := { idle with port := { idle.port with snapshots := [snap (some [])] } }
     quiet s ∧ s.port.snapshots.find? (fun q => q.entry = 4 && q.image.isSome && decide (s.tick + 19999 < q.issuedAt + 20000))
       = some (snap (some []))) ∧ shaped idle := by unfold supposes quiet shaped; decide +kernel

theorem witness_ParametersAreReadAndWritten :
    (supposes 2 6 (leBytes 4 320) (eventOf .tick) idle ∧ paramValue idle 320 = none ∧
      paramValue idle 19 = some 200000 ∧ field (leBytes 4 19) 0 4 = 19 ∧ isReadWrite 19 = false) ∧
    (supposes 2 6 (leBytes 4 313) (eventOf .boundary) running ∧ field (leBytes 4 313) 0 4 = 313 ∧ (313 - 256) % 16 < 10) ∧
    (supposes 2 6 (leBytes 4 251) (eventOf .boundary) running ∧ field (leBytes 4 251) 0 4 = 251 ∧
      (running.channel 27).request = none ∧ (eventOf .tick).kind ≠ .boundary ∧
      ((requestOffset 27 5 false true running).channel 27).request = some { value := 5, idle := false, late := true }) ∧
    (let u : State := { idle with event := some { eventOf .tick with finishing := [.read 2 19] } }
     u.event = some { eventOf .tick with finishing := [.read 2 19] } ∧
       paramValue { u with event := some { eventOf .tick with finishing := [] } } 19 = some 200000) ∧
    (let params := leBytes 4 251 ++ leBytes 4 0x80000000
     supposes 2 7 params (eventOf .tick) idle ∧ field params 0 4 = 251 ∧ 224 ≤ 251 ∧ 251 < 252 ∧
       signed 32 (field params 4 4) = -2147483648) ∧
    (let params := leBytes 4 313 ++ leBytes 4 7
     supposes 2 7 params (eventOf .tick) idle ∧ field params 0 4 = 256 + 16 * (3 : Fin 4).val + 9 ∧ 9 < 10 ∧
       (0, 1) = settingRange idle.tb.nom60 9) ∧
    (isReadWrite 252 = false ∧ paramValue idle 252 = none ∧ isReadWrite 223 = false ∧ isReadWrite 219 = false ∧
      paramValue idle 219 ≠ none) ∧
    (paramValue idle 21 ≠ none ∧ paramValue idle 22 = none ∧ paramValue idle 63 ≠ none ∧ paramValue idle 316 ≠ none ∧
      paramValue idle 317 = none) := by unfold supposes; decide +kernel

theorem witness_CalibrationsAndRestarts :
    (supposes 5 9 (leBytes 4 28) (eventOf .boundary) running ∧ 27 < field (leBytes 4 28) 0 4) ∧
    (supposes 5 9 (leBytes 4 27) (eventOf .tick) running ∧ field (leBytes 4 27) 0 4 ≤ 27 ∧
      (eventOf .tick).kind = .tick ∧ ({ eventOf .boundary with halting := true } : Event).halting = true) ∧
    ((eventOf .boundary).kind ≠ .tick ∧ (eventOf .boundary).halting = false ∧ (calibrating.channel 27).calibration = none ∧
      (calibrating.channel 27).stuck = false ∧ (calibrating.link (Fin.ofNat 4 (27 / 7))).state = .running ∧
      (running.link (Fin.ofNat 4 (27 / 7))).state ≠ .running ∧
      ((running.setChannel 27 { calibration := some { entry := 1, firstWindow := 0, sum := 0 } }).channel 27).calibration
        ≠ none) ∧
    (supposes 5 10 (leBytes 4 4) (eventOf .boundary) running ∧ 3 < field (leBytes 4 4) 0 4) ∧
    (supposes 5 10 (leBytes 4 3) (eventOf .boundary) (withLink 3 (upTo 1) running) ∧
      field (leBytes 4 3) 0 4 = (3 : Fin 4).val ∧ ((withLink 3 (upTo 1) running).link 3).restart = none ∧
      ((withLink 3 (upTo 1) running).link 3).state = .running ∧ (3 : Fin 4).val < (withLink 3 (upTo 1) running).links.length ∧
      (running.link 3).state = .down ∧ (seeking.link 0).restart = none ∧ (seeking.link 0).state = .seeking) ∧
    (let k : Link := { state := .seeking, restart := some { entry := 6, boundaries := 49 } }
     let s := inEvent (eventOf .boundary) [.restartCheck 3] (withLink 3 k running)
     s.due = .restartCheck 3 :: [] ∧ (s.link 3).restart = some { entry := 6, boundaries := 49 } ∧ (s.link 3).restart ≠ none ∧
       (s.link 3).state = .seeking) := by unfold supposes; decide +kernel

/-- One boundary short of the 50th; past it with the link RUNNING; and no restart. -/
theorem witness_CalibrationsAndRestarts_boundaries :
    (let s := withLink 3 { state := .seeking, restart := some { entry := 6, boundaries := 48 } } running
     (s.link 3).restart = some { entry := 6, boundaries := 48 } ∧ 48 < 49) ∧
    (let s := withLink 3 { upTo 1 with restart := some { entry := 6, boundaries := 49 } } running
     (s.link 3).restart = some { entry := 6, boundaries := 49 } ∧ (s.link 3).state ≠ .seeking) ∧
    (running.link 3).restart = none := by decide +kernel

theorem test_restart_counts_a_boundary :
    (((microStep (.restartCheck 3) (withLink 3 { state := .seeking, restart := some { entry := 6, boundaries := 48 } }
      running)).link 3).restart) = some { entry := 6, boundaries := 49 } := by decide +kernel

/-- The window of link 3 with one index, its samples good or not, in the decomposing half; a calibration of channel 27 whose
first window is 10. -/
def measuredWindow (number : Nat) (good : Bool) : State :=
  let sl : Slot := { subst := !good, ch := List.replicate 7 { good := good, raw := 0, val := 0, clipped := false } }
  let w : PointWindow := { point := 3, slots := [sl], subst := 0, cls := .clean, stuck := [], mark := false }
  { running.setChannel 27 { calibration := some { entry := 5, firstWindow := 10, sum := 0 } } with
    orders := { inFlight := [{ entry := 5, kind := 9, tag := 0, params := [] }] }
    spectral := { decomposing := some {
      record := { startTime := 0, endTime := 0, pace := 200000, duration := 0, freq := 0, locked := false, seq := 1, slot := 0 }
      cap := { cfg := {}, mons := [] }, points := [{ w with point := 0 }, w], verdict := none, number } } }

/-- The first and the last of the five measured windows, the windows on either side, and one without a substituted
sample. -/
theorem witness_CalibrationsAndRestarts_calibration :
    (∀ n good, ∃ d w, (measuredWindow n good).spectral.decomposing = some d ∧ d.number = n ∧ w ∈ d.points ∧
      w.point = (27 : Fin 28).val / 7 ∧ (∀ w' ∈ d.points, w'.point = w.point → w' = w) ∧
      ∃ sl ∈ w.slots, (sl.ch.getD ((27 : Fin 28).val % 7) {}).good = good) ∧
    (∀ n good, ((measuredWindow n good).channel 27).calibration = some { entry := 5, firstWindow := 10, sum := 0 }) ∧
    10 ≤ 10 ∧ 14 < 10 + 5 ∧ 9 < 10 ∧ 10 + 5 ≤ 15 := by
  refine ⟨fun n good => ⟨_, _, rfl, rfl, List.mem_cons_of_mem _ (List.mem_singleton.mpr rfl), rfl, ?_, _,
    List.mem_singleton.mpr rfl, rfl⟩, fun _ _ => rfl, by decide⟩
  intro w' hm hp
  simp only [List.mem_cons, List.not_mem_nil, or_false] at hm
  rcases hm with rfl | rfl
  · exact absurd hp (show (0 : Nat) ≠ 3 by decide)
  · rfl

/-- R23: a substituted sample fails the calibration in the five measured windows alone. -/
theorem test_calibration_fails_on_a_substituted_sample :
    [(9, false), (10, false), (14, false), (15, false), (10, true)].map (fun (n, good) =>
      answered (microStep (.calibrationCheck 27) (measuredWindow n good))) =
        [none, some (true, .badState, 0), some (true, .badState, 0), none, none] := by decide +kernel

theorem witness_RegistersTakeTheirContributions :
    ((0 : Int) ≤ 0 ∧ (0 : Int) < 1 ∧ (-1 : Int) < 0) ∧
    ((∀ f ∈ feeds (windowOf .clean true 0 0), 0 ≠ (1 * 4 + 0) * 9 + f.1) ∧ (windowOf .clean true 0 0).cls ≠ .missing ∧
      (windowOf .missing true 0 0).cls = .missing) ∧
    (0 < 2 ^ 32 ∧ ({ count := 0, residue := 2 ^ 32 - 1 } : Reg).residue < 2 ^ 32) ∧
    (2 ^ 32 ≤ 2 ^ 32 ∧ 2 ^ 60 - 1 < 2 ^ 60 ∧ 2 ^ 95 - 1 < 2 ^ 95) ∧ 179 < ({} : Accounting).regs.length := by decide +kernel

theorem witness_IntervalDemandsRaiseTheTable :
    (({} : Accounting).demand.length = 40 ∧ ({ closeA with slot := 3 } : Close).slot < 4) ∧
    (closeA.causes.getLsbD 6 = false ∧ (closeWith .demandReset).causes.getLsbD 6 = true ∧ 39 < 40) ∧
    (let a : Accounting := { measured := 450000 * 2560000 }
     (acctFinish a closeA).1.1.map (fun p => p.excluded) = [false] ∧
       ((acctFinish a (closeWith .demandReset)).1.2.map (fun p => p.entries.length)) = [8]) := by decide +kernel

theorem witness_MergedRecordsJoinTheirFigures :
    (rec701.excluded = rec702.excluded ∧ rec702.excluded = false) ∧
      ({ rec701 with excluded := true } : IntervalRecord).excluded = true ∧
    (rec701.stats.stuck.length = 7 ∧ rec701.stats.total ≠ 0 ∧ ({} : Acc).total = 0 ∧ ({} : Acc).orders.length = 49 ∧
      ({ rec701 with deltas := List.replicate 36 1 } : IntervalRecord).deltas.length = 36) := by decide +kernel

theorem witness_RmsAndRatiosAreExactFloors :
    (let r := fun cls : WinClass => ({ windowOf .clean true 0 0 with cls := cls } : WinResult)
     let d : DecompWindow := { inHalf 1 with cap := { cfg := { memberMask := 2 }, mons := [] } }
     (aggregateResult d [r .clean]).isSome = true ∧ aggregateResult (inHalf 1) [r .clean] = none ∧
       (aggregateResult d [r .clean, r .missing]).map (fun a => (a.cls, a.partialFlag)) = some (.flagged, true) ∧
       (aggregateResult d [r .clean, r .flagged]).map (fun a => (a.cls, a.partialFlag)) = some (.flagged, false) ∧
       (aggregateResult d [r .missing]).map (fun a => a.cls) = some .missing) ∧
    phaseThd (List.replicate 50 15) = 65535 ∧ phaseThd (List.replicate 50 16) < 65535 ∧ 1 ≤ 1 ∧
    15 < 16 ∧ 16 ≤ 16 ∧ phaseThd [16, 1] < 65534 ∧ 0 < 1 ∧ tddOf [16, 1] 16 < 65534 := by decide +kernel

/-- The invariants hold of a state in which every part of them says something. -/
theorem witness_EveryStepKeepsShapeAndBase :
    let s : State := { idle with pending := [.intmaskWrite 1 5], orders := { inFlight := [orderOf 5 1 [], orderOf 15 4 []] } }
    shaped s ∧ baseAligned s ∧ entriesOnce s ∧ step s = .next (after (step s)) := by
  unfold shaped baseAligned entriesOnce
  exact ⟨by decide +kernel, by decide +kernel, by decide +kernel, rfl⟩

theorem witness_EveryStepKeepsThePaceValid :
    let s : State := { running with
      pending := [.runClear ⟨1, false⟩], tb := { pace := 181818, steady := 2, hold := 149, pendingVerdict := some (valid 222222) } }
    paceSound s ∧ step s = .next (after (step s)) := by
  refine ⟨⟨?_, ?_, ?_, ?_⟩, rfl⟩
  · unfold paceValid; decide
  · intro m hm; cases hm; intro _ p hp; cases hp; unfold paceValid; decide
  · intro d m hd; cases hd
  · decide

theorem witness_FaultedExchangeStaysIdle :
    let s : State := { faultedWith 0x080 with pending := [.resume ⟨1, true⟩], orders := { queue := [.taken 3] } }
    faultedIdle s ∧ s.port.exchange = .faulted ∧ step s = .next (after (step s)) := by
  refine ⟨?_, rfl, rfl⟩
  unfold faultedIdle; decide +kernel


theorem witness_QueueWritesAreAnsweredInTurn_made :
    (let s : State := { busy with orders := { busy.orders with head := none } }
     s.orders.queue ≠ [] ∧ s.orders.head = none ∧ s.port.exchange = .online ∧ s.port.exbase ≠ 0) ∧
    busy.inFlight 0 = none ∧ busy.inFlight 9 = some (orderOf 9 2 []) ∧ (orderOf 9 2 []).completed = false ∧
    (let s : State := { idle with tick := 10001, asOf := some 0, tb := { idle.tb with timeValue := 1, subMs := 1 } }
     s.event = none ∧ s.tick - 0 = s.tb.timeValue * 10000 + s.tb.subMs ∧ partTime s = 0) := by decide +kernel

/-- A configuration whose channel 27 has an offset of its own, and channel 26 the factory's. -/
def offsetCfg : Cfg :=
  { points := List.replicate 3 {} ++ [{
      chans := List.replicate 5 {} ++ [{ useFactory := 1 }, { useFactory := 0, offset := -50 }] }] }

theorem witness_OffsetRequestsTakeEffect_configured :
    (let s : State := { running with store := { running.store with active := some offsetCfg } }
     s.store.active = some offsetCfg ∧ (offsetCfg.chan 27).useFactory ≠ 1 ∧ (offsetCfg.chan 26).useFactory = 1 ∧
       configuredOffset s.store 27 = -50) ∧
    State.reset.store.active = none := by decide +kernel
end Sys2Proof.Tests
end

section
/-! SUPPORT. The outline of a state: the numbers of its parts, the exchange area base and the indices in flight. -/

namespace Sys2Proof.Machine

/-- The numbers of links, channels, registers, opening counts, demand entries and monitors, the exchange area base, and
the indices in flight. -/
structure Outline where
  links : Nat
  channels : Nat
  regs : Nat
  opening : Nat
  demand : Nat
  monitors : Nat
  exbase : Word64
  entries : List (Fin 16)

def outline (s : State) : Outline :=
  { links := s.links.length, channels := s.channels.length, regs := s.acct.regs.length
    opening := s.acct.opening.length, demand := s.acct.demand.length, monitors := s.stats.monitors.length
    exbase := s.port.exbase, entries := s.orders.inFlight.map (fun f => f.entry) }

/-! ## Shared operations -/

@[simp] theorem outline_request (c : IntCause) (s : State) : outline (request c s) = outline s := rfl

@[simp] theorem outline_requestIf (b : Bool) (c : IntCause) (s : State) : outline (requestIf b c s) = outline s := by
  cases b <;> rfl

@[simp] theorem outline_elapse (n : Nat) (s : State) : outline (elapse n s) = outline s := by simp [outline]

@[simp] theorem outline_waitUntil (t : Nat) (s : State) : outline (waitUntil t s) = outline s := outline_elapse _ _

@[simp] theorem outline_pushDue (ds : List Due) (s : State) : outline (pushDue ds s) = outline s := rfl

@[simp] theorem outline_modEvent (f : Event → Event) (s : State) : outline (modEvent f s) = outline s := rfl

@[simp] theorem outline_finishLater (f : Finishing) (s : State) : outline (finishLater f s) = outline s := rfl

@[simp] theorem outline_addCause (c : Cause) (s : State) : outline (addCause c s) = outline s := rfl

@[simp] theorem outline_setLink (l : Fin 4) (k : Link) (s : State) : outline (s.setLink l k) = outline s := by
  simp [outline, State.setLink]

@[simp] theorem outline_setChannel (ch : Nat) (c : Channel) (s : State) : outline (s.setChannel ch c) = outline s := by
  simp [outline, State.setChannel]

@[simp] theorem outline_setMonitor (m : Fin 4) (k : Monitor) (s : State) : outline (s.setMonitor m k) = outline s := by
  simp [outline, State.setMonitor]

@[simp] theorem outline_pump (s : State) : outline (pump s) = outline s := by simp [outline]

/-- A completion marks an order in flight and leaves its index. -/
@[simp] theorem outline_complete (e : Fin 16) (failed : Bool) (code : ResultCode) (value : Word64) (time : Nat)
    (s : State) : outline (complete e failed code value time s) = outline s := by
  rcases complete_spec e failed code value time s with h | ⟨f, head, -, -, h⟩
  · rw [h]
  · rw [h]
    simp only [outline, List.map_map]
    congr 1
    refine List.map_congr_left fun g _ => ?_
    simp only [Function.comp]
    split <;> rfl

@[simp] theorem outline_completeOk (e : Fin 16) (value : Word64) (time : Nat) (s : State) :
    outline (completeOk e value time s) = outline s := outline_complete ..

@[simp] theorem outline_completeFail (e : Fin 16) (code : ResultCode) (time : Nat) (s : State) :
    outline (completeFail e code time s) = outline s := outline_complete ..

/-- What each step of a fold leaves of the outline, the fold leaves. -/
theorem outline_foldl {α : Type} (f : State → α → State) (h : ∀ s a, outline (f s a) = outline s) (l : List α)
    (s : State) : outline (l.foldl f s) = outline s :=
  foldl_keeps (fun t => outline t = outline s) f (fun t a ht => (h t a).trans ht) l s rfl

theorem outline_ite {p : Prop} [Decidable p] {a b s : State} (ha : outline a = outline s) (hb : outline b = outline s) :
    outline (if p then a else b) = outline s := by
  split
  · exact ha
  · exact hb

theorem outline_onlyIf (b : State → Bool) (f : State → State) (s : State) (h : outline (f s) = outline s) :
    outline (onlyIf b f s) = outline s := by
  unfold onlyIf
  split
  · exact h
  · rfl

/-! ## Channels -/

@[simp] theorem outline_takeOffset (ch : Nat) (v : Int) (mark : Bool) (s : State) :
    outline (takeOffset ch v mark s) = outline s := outline_setChannel ..

@[simp] theorem outline_requestOffset (ch : Nat) (v : Int) (idle late : Bool) (s : State) :
    outline (requestOffset ch v idle late s) = outline s := by
  obtain ⟨c, h, -⟩ := requestOffset_spec ch v idle late s
  rw [h, outline_setChannel]

@[simp] theorem outline_offsetEffect (ch : Fin 28) (s : State) : outline (offsetEffect ch s) = outline s := by
  unfold offsetEffect
  split
  · simp
  · rfl

@[simp] theorem outline_failCalibration (code : ResultCode) (ch : Nat) (s : State) :
    outline (failCalibration code ch s) = outline s := by
  unfold failCalibration
  split
  · simp
  · rfl

@[simp] theorem outline_failCalibrationsOf (l : Fin 4) (s : State) : outline (failCalibrationsOf l s) = outline s :=
  outline_foldl _ (fun _ _ => outline_failCalibration ..) _ _

@[simp] theorem outline_calibrationCheck (ch : Fin 28) (s : State) : outline (calibrationCheck ch s) = outline s := by
  unfold calibrationCheck
  repeat' split
  all_goals simp

@[simp] theorem outline_calibrationStep (ch number n rms floor : Nat) (sum : Int) (s : State) :
    outline (calibrationStep ch number n rms floor sum s) = outline s := by
  unfold calibrationStep
  repeat' split
  all_goals simp

@[simp] theorem outline_clipStep (ch : Fin 28) (clipped : Bool) (s : State) :
    outline (clipStep ch clipped s) = outline s := by
  exact outline_ite (by simp [enterStuck]) (outline_ite (by simp [leaveStuck]) (by simp))

@[simp] theorem outline_idleStep (ch : Fin 28) (isIdle : Bool) (mean : Int) (s : State) :
    outline (idleStep ch isIdle mean s) = outline s := by
  exact outline_ite (by simp) (by simp)

/-! ## Links -/

@[simp] theorem outline_dropLink (l : Fin 4) (reason : DropReason) (s : State) :
    outline (dropLink l reason s) = outline s := by
  simp [dropLink]

@[simp] theorem outline_seekingFrame (l : Fin 4) (bytes : List Byte) (s : State) :
    outline (seekingFrame l bytes s) = outline s := by
  exact outline_ite (by simp) (outline_ite (by simp) (outline_ite (by simp) (outline_ite (by simp) (by simp))))

@[simp] theorem outline_runningFrame (l : Fin 4) (bytes : List Byte) (s : State) :
    outline (runningFrame l bytes s) = outline s := by
  have framing : outline (framingErrorFrame l s) = outline s := outline_ite (outline_ite (by simp) (by simp)) (by simp)
  have accept : outline (acceptFrame l (decodeFrame bytes) bytes s) = outline s :=
    outline_ite (by simp) (outline_ite (by simp) (by simp))
  exact outline_ite framing (outline_ite (by simp) accept)

@[simp] theorem outline_frameStep (l : Fin 4) (bytes : List Byte) (s : State) :
    outline (frameStep l bytes s) = outline s := by
  unfold frameStep
  split <;> simp

@[simp] theorem outline_enterRunning (l : Fin 4) (bytes : List Byte) (s : State) :
    outline (enterRunning l bytes s) = outline s := by
  unfold enterRunning
  simp only
  split <;> simp

@[simp] theorem outline_strobeLink (l : Fin 4) (s : State) : outline (strobeLink l s) = outline s := by
  unfold strobeLink
  simp only
  split
  · rfl
  · simp
  · exact outline_ite (by simp) rfl

@[simp] theorem outline_strobeStep (s : State) : outline (strobeStep s) = outline s := by
  simp only [strobeStep, allLinks, List.foldr, outline_strobeLink]
  exact outline_waitUntil (strobeAt s.tb (s.tb.strobe + 1)) s

@[simp] theorem outline_finishLink (l : Fin 4) (s : State) : outline (finishLink l s) = outline s := by
  unfold finishLink
  simp only
  split
  · exact outline_ite (by simp) (by simp)
  · rfl

@[simp] theorem outline_failRestart (l : Fin 4) (code : ResultCode) (s : State) :
    outline (failRestart l code s) = outline s := by
  unfold failRestart
  split
  · simp
  · rfl

@[simp] theorem outline_restartCheck (l : Fin 4) (s : State) : outline (restartCheck l s) = outline s := by
  exact outline_ite (by simp) (by simp)

@[simp] theorem outline_restartLink (l : Fin 4) (e : Fin 16) (s : State) :
    outline (restartLink l e s) = outline s := by
  exact outline_ite (by simp) (by simp)

/-! ## Intervals, accounts and statistics -/

@[simp] theorem outline_lockStep (s : State) : outline (lockStep s) = outline s := outline_requestIf ..

@[simp] theorem outline_commitTariff (s : State) : outline (commitTariff s) = outline s := rfl

@[simp] theorem outline_takeTariffStep (s : State) : outline (takeTariffStep s) = outline s := by
  unfold takeTariffStep
  split <;> rfl

@[simp] theorem outline_takeIntervalEnd (s : State) : outline (takeIntervalEnd s) = outline s := by
  unfold takeIntervalEnd
  repeat' split
  all_goals rfl

@[simp] theorem outline_takeTimeout (s : State) : outline (takeTimeout s) = outline s := rfl

@[simp] theorem outline_applyDemandReset (s : State) : outline (applyDemandReset s) = outline s := by
  refine (outline_foldl _ (fun _ _ => ?_) _ _).trans rfl
  simp

@[simp] theorem outline_openInterval (afterStep : Bool) (s : State) : outline (openInterval afterStep s) = outline s := by
  unfold openInterval
  split <;> rfl

@[simp] theorem outline_passClose (cs : CauseSet) (t : Nat) (s : State) : outline (passClose cs t s) = outline s := by
  unfold passClose
  split <;> rfl

@[simp] theorem outline_decideClose (s : State) : outline (decideClose s) = outline s := by
  refine outline_ite rfl ?_
  split <;> rfl

@[simp] theorem outline_closeEvent (s : State) : outline (closeEvent s) = outline s := by
  unfold closeEvent
  split
  · simp only
    split_ifs <;> simp
  · rfl

@[simp] theorem outline_settleTariff (s : State) : outline (settleTariff s) = outline s := by
  unfold settleTariff
  simp only
  repeat' split
  all_goals simp

@[simp] theorem outline_statOpen (s : State) : outline (statOpen s) = outline s := by
  unfold statOpen
  split <;> rfl

@[simp] theorem outline_statStart (s : State) : outline (statStart s) = outline s := by
  unfold statStart
  split
  · simp
  · rfl

@[simp] theorem outline_modAcc (p : Nat) (f : Acc → Acc) (s : State) : outline (modAcc p f s) = outline s := rfl

@[simp] theorem outline_statTakeWindow (cfg : Cfg) (results : List WinResult) (s : State) :
    outline (statTakeWindow cfg results s) = outline s :=
  outline_foldl (fun (s : State) (r : WinResult) => modAcc r.point (takeResult s.stats.limits cfg r) s) (fun _ _ => rfl) results s

@[simp] theorem outline_makeEvent (p : Nat) (e : EventEntry) (s : State) : outline (makeEvent p e s) = outline s := rfl

@[simp] theorem outline_monitorStep (m : Fin 4) (value : Nat) (eligible : Bool) (point index : Nat) (s : State) :
    outline (monitorStep m value eligible point index s) = outline s := by
  unfold monitorStep
  simp only
  repeat' split
  all_goals simp

@[simp] theorem outline_monitorRestart (m : Fin 4) (s : State) : outline (monitorRestart m s) = outline s := by
  unfold monitorRestart
  simp only
  split <;> simp

@[simp] theorem outline_monitorEffect (s : State) : outline (monitorEffect s) = outline s := by
  unfold monitorEffect
  simp only
  split <;> simp [outline]

@[simp] theorem outline_statReset (s : State) : outline (statReset s) = outline s := by simp [statReset, outline]

@[simp] theorem outline_discardWindow (s : State) : outline (discardWindow s) = outline s := by
  obtain ⟨accs, h⟩ := discardWindow_spec s
  rw [h]
  rfl

/-! ## Files -/

@[simp] theorem outline_reportFile (f : IntervalFile) (s : State) : outline (reportFile f s) = outline s := by
  refine outline_foldl _ (fun t seq => ?_) _ _
  refine (outline_foldl _ (fun _ _ => ?_) _ _).trans rfl
  simp

@[simp] theorem outline_beginTransit (f : IntervalFile) (fromHeld : Bool) (s : State) :
    outline (beginTransit f fromHeld s) = outline s := rfl

@[simp] theorem outline_holdFile (f : IntervalFile) (s : State) : outline (holdFile f s) = outline s := by
  simp only [holdFile, outline_request, outline_reportFile]
  rfl

@[simp] theorem outline_placeFile (f : IntervalFile) (s : State) : outline (placeFile f s) = outline s := by
  unfold placeFile
  split
  · exact outline_reportFile ..
  · split <;> simp

@[simp] theorem outline_returnTransit (quiet : Bool) (s : State) : outline (returnTransit quiet s) = outline s := by
  unfold returnTransit
  split
  · rfl
  · simp only [outline_requestIf, outline_reportFile]
    rfl

@[simp] theorem outline_retryHeld (s : State) : outline (retryHeld s) = outline s := by
  unfold retryHeld
  split <;> rfl

@[simp] theorem outline_ownerAnswer (word : Word32) (s : State) : outline (ownerAnswer word s) = outline s := by
  unfold ownerAnswer
  split
  · split_ifs
    · rfl
    · simp
    · rfl
  · rfl

@[simp] theorem outline_bodyAnswer (s : State) : outline (bodyAnswer s) = outline s := by
  unfold bodyAnswer
  repeat' split
  all_goals rfl

@[simp] theorem outline_pageComplete (s : State) : outline (pageComplete s) = outline s := by
  unfold pageComplete
  split
  · split
    · simp only [outline_reportFile]
      split <;> rfl
    · rfl
  · rfl

@[simp] theorem outline_changeLayout (s : State) : outline (changeLayout s) = outline s := by
  unfold changeLayout
  split <;> rfl

@[simp] theorem outline_addParts (seq : Word64) (f : Assembly → Assembly) (s : State) :
    outline (addParts seq f s) = outline s := rfl

@[simp] theorem outline_fileReady (seq : Word64) (s : State) : outline (fileReady seq s) = outline s := by
  unfold fileReady
  split <;> simp

@[simp] theorem outline_completeFile (seq : Word64) (s : State) : outline (completeFile seq s) = outline s := by
  unfold completeFile
  split
  · split
    · exact outline_placeFile ..
    · rfl
  · rfl

@[simp] theorem outline_statAfterClose (c : Close) (s : State) : outline (statAfterClose c s) = outline s := by
  unfold statAfterClose
  simp only
  split
  · rfl
  · exact outline_statOpen _

@[simp] theorem outline_statFinishStep (s : State) : outline (statFinishStep s) = outline s := by
  unfold statFinishStep
  split <;> simp

/-! ## The sync line -/

@[simp] theorem outline_modDecoder (f : Decoder → Decoder) (s : State) : outline (modDecoder f s) = outline s := rfl

@[simp] theorem outline_endBurst (s : State) : outline (endBurst s) = outline s := by
  obtain ⟨ic, cs, event, h, -⟩ := burstAction_spec s.ic.decoder.pulses (modDecoder (fun d => { d with pulses := 0 }) s)
  rw [endBurst, h]
  rfl

@[simp] theorem outline_stuckLow (s : State) : outline (stuckLow s) = outline s := rfl

@[simp] theorem outline_recover (s : State) : outline (recover s) = outline s := rfl

theorem outline_overdue (at? : Option Nat) (f : State → State) (s : State) (h : ∀ s, outline (f s) = outline s) :
    outline (overdue at? f s) = outline s := by
  unfold overdue
  repeat' split
  all_goals simp [h]

@[simp] theorem outline_lineFall (s : State) : outline (lineFall s) = outline s := by
  unfold lineFall
  split
  · rfl
  · exact (outline_overdue _ _ _ outline_endBurst).trans (outline_overdue _ _ _ outline_recover)

@[simp] theorem outline_lineHigh (s : State) : outline (lineHigh s) = outline s := rfl

@[simp] theorem outline_judgeLow (low : Nat) (s : State) : outline (judgeLow low s) = outline s := by
  unfold judgeLow
  split
  · exact outline_overdue _ _ _ outline_endBurst
  · rfl

@[simp] theorem outline_lineRise (s : State) : outline (lineRise s) = outline s := by
  have ho : outline (overdue (stuckLowAt s.ic.decoder) stuckLow s) = outline s := outline_overdue _ _ _ outline_stuckLow
  refine outline_ite rfl ?_
  simp only
  split
  · exact outline_ite ho ((outline_judgeLow ..).trans ho)
  · exact ho

/-! ## Configurations and parameters -/

@[simp] theorem outline_activate (cfg : Cfg) (e : Fin 16) (s : State) : outline (activate cfg e s) = outline s := by
  have clock : ∀ t, outline (activateClock cfg t) = outline t := fun _ => outline_ite rfl rfl
  have reference : ∀ t, outline (activateReference s.store.active cfg t) = outline t := fun _ =>
    outline_ite rfl rfl
  have layout : ∀ t, outline (activateLayout s.store.active cfg t) = outline t := fun _ =>
    outline_ite rfl (outline_changeLayout _)
  have tariff : ∀ t, outline (activateTariff t) = outline t := fun _ => rfl
  have offsets : ∀ t, outline ((List.range 28).foldl activateOffset t) = outline t :=
    outline_foldl _ (fun _ _ => outline_setChannel ..) _
  simp only [activate, outline_completeOk, tariff, layout, reference, clock, offsets]
  rfl

@[simp] theorem outline_judgeBlock (block : List Byte) (e : Fin 16) (s : State) :
    outline (judgeBlock block e s) = outline s := by
  have pending : ∀ cfg, outline (makePending cfg e s) = outline s := fun cfg => by
    unfold makePending
    simp only
    split
    · exact outline_complete ..
    · rfl
  unfold judgeBlock
  simp only
  repeat' split
  all_goals simp [pending]

@[simp] theorem outline_completeRead (e : Fin 16) (n : Nat) (s : State) : outline (completeRead e n s) = outline s := by
  unfold completeRead
  split <;> simp

@[simp] theorem outline_readParam (e : Fin 16) (n : Nat) (s : State) : outline (readParam e n s) = outline s := by
  unfold readParam readOffset
  simp only
  split_ifs <;> simp

@[simp] theorem outline_writeParam (e : Fin 16) (n value : Nat) (s : State) :
    outline (writeParam e n value s) = outline s := by
  unfold writeParam writeOffset writeSetting
  split_ifs <;> simp

/-! ## Orders -/

@[simp] theorem outline_pauseEvent (s : State) : outline (pauseEvent s) = outline s := rfl

@[simp] theorem outline_resumeEvent (s : State) : outline (resumeEvent s) = outline s := by
  unfold resumeEvent
  split <;> rfl

@[simp] theorem outline_resetCompletions (s : State) : outline (resetCompletions s) = outline s := by
  unfold resetCompletions
  split
  · exact outline_foldl _ (fun _ _ => outline_completeFail ..) _ _
  · rfl

@[simp] theorem outline_captureSnapshot (e : Fin 16) (s : State) : outline (captureSnapshot e s) = outline s := by
  unfold captureSnapshot
  split
  · split
    · rfl
    · exact outline_completeFail ..
  · rfl

@[simp] theorem outline_finishOrder (s : State) (f : Finishing) : outline (finishOrder s f) = outline s := by
  cases f with
  | tariff e => exact outline_completeOk ..
  | read e n => exact outline_completeRead ..
  | offset e ch stored => exact outline_completeOk ..
  | image e =>
    simp only [finishOrder, finishSnapshot]
    split
    · rfl
    · exact outline_captureSnapshot ..

@[simp] theorem outline_finishOrders (s : State) : outline (finishOrders s) = outline s := by
  unfold finishOrders
  split
  · exact outline_foldl _ outline_finishOrder _ _
  · rfl

@[simp] theorem outline_orderLoadConfig (f : InFlight) (s : State) : outline (orderLoadConfig f s) = outline s := by
  unfold orderLoadConfig
  split
  · rfl
  · simp

@[simp] theorem outline_orderCloseInterval (f : InFlight) (s : State) :
    outline (orderCloseInterval f s) = outline s := by
  unfold orderCloseInterval
  split
  · rfl
  · simp

@[simp] theorem outline_loadClock (time offset : Nat) (s : State) : outline (loadClock time offset s) = outline s := by
  unfold loadClock
  split <;> rfl

@[simp] theorem outline_orderSetTime (f : InFlight) (s : State) : outline (orderSetTime f s) = outline s := by
  unfold orderSetTime
  simp only
  split <;> simp

@[simp] theorem outline_orderDemandReset (f : InFlight) (s : State) : outline (orderDemandReset f s) = outline s := by
  unfold orderDemandReset
  split
  · rfl
  · simp

@[simp] theorem outline_orderSnapshot (f : InFlight) (s : State) : outline (orderSnapshot f s) = outline s := by
  unfold orderSnapshot
  simp only
  split_ifs
  · simp
  · simp
  · rfl

@[simp] theorem outline_setTariff (slot : Option Nat) (s : State) : outline (setTariff slot s) = outline s := rfl

@[simp] theorem outline_orderTariffSet (f : InFlight) (s : State) : outline (orderTariffSet f s) = outline s := by
  unfold orderTariffSet
  simp only
  split_ifs <;> simp

@[simp] theorem outline_orderCalibrate (f : InFlight) (s : State) : outline (orderCalibrate f s) = outline s := by
  unfold orderCalibrate
  simp only
  split_ifs <;> simp

@[simp] theorem outline_orderLinkRestart (f : InFlight) (s : State) : outline (orderLinkRestart f s) = outline s := by
  unfold orderLinkRestart
  simp only
  split_ifs <;> simp

@[simp] theorem outline_handOver (e : Fin 16) (s : State) : outline (handOver e s) = outline s := by
  unfold handOver
  split
  · unfold carryOut orderParamRead orderParamWrite
    split_ifs <;> simp
  · rfl

@[simp] theorem outline_popQueue (s : State) : outline (popQueue s) = outline s := outline_pump _

@[simp] theorem outline_takenAnswered (s : State) : outline (takenAnswered s) = outline s := by
  unfold takenAnswered
  repeat' split
  all_goals simp

@[simp] theorem outline_resultAnswered (s : State) : outline (resultAnswered s) = outline s := by
  unfold resultAnswered
  split
  · split
    · exact outline_pump _
    · rfl
  · rfl

@[simp] theorem outline_imageWritten (e : Fin 16) (s : State) : outline (imageWritten e s) = outline s := by
  unfold imageWritten
  split
  · exact outline_completeOk ..
  · rfl

/-! ## The exchange port -/

@[simp] theorem outline_beginScan (s : State) : outline (beginScan s) = outline s := by
  unfold beginScan
  split <;> rfl

@[simp] theorem outline_beginHeader (s : State) : outline (beginHeader s) = outline s := by
  unfold beginHeader
  split <;> rfl

@[simp] theorem outline_headerFieldsAnswer (s : State) : outline (headerFieldsAnswer s) = outline s := by
  unfold headerFieldsAnswer
  repeat' split
  all_goals rfl

@[simp] theorem outline_updateCountAnswer (s : State) : outline (updateCountAnswer s) = outline s := by
  unfold updateCountAnswer
  repeat' split
  all_goals rfl

@[simp] theorem outline_abandonScan (s : State) : outline (abandonScan s) = outline s := by
  unfold abandonScan
  split
  · exact outline_resumeEvent _
  · rfl

@[simp] theorem outline_faultConfigRead (s : State) : outline (faultConfigRead s) = outline s := by
  unfold faultConfigRead
  split
  · simp only [outline_completeFail, outline_resumeEvent]
    rfl
  · rfl

@[simp] theorem outline_faultSnapshots (s : State) : outline (faultSnapshots s) = outline s :=
  outline_foldl _ (fun _ _ => outline_completeFail ..) _ _

@[simp] theorem outline_enterFaulted (kind : FaultKind) (dir : BusDir) (op : BusOp) (addr : Word64) (s : State) :
    outline (enterFaulted kind dir op addr s) = outline s := by
  simp only [enterFaulted, outline_faultSnapshots, outline_faultConfigRead, outline_abandonScan, outline_returnTransit]
  rfl

@[simp] theorem outline_accessError (op : BusOp) (dir : BusDir) (off : Nat) (entry : Fin 16) (s : State) :
    outline (accessError op dir off entry s) = outline s := by
  unfold accessError
  repeat' split
  all_goals simp

@[simp] theorem outline_accessTimeout (op : BusOp) (dir : BusDir) (off : Nat) (entry : Fin 16) (s : State) :
    outline (accessTimeout op dir off entry s) = outline s := by
  unfold accessTimeout
  repeat' split
  all_goals simp

@[simp] theorem outline_resumeExchange (s : State) : outline (resumeExchange s) = outline s := by
  obtain ⟨x, head, h, -⟩ := resumeExchange_spec s
  rw [h]
  rfl

@[simp] theorem outline_writeRun (run : Bool) (s : State) : outline (writeRun run s) = outline s := by
  obtain ⟨-, r, m, refused, cs, h, -⟩ := writeRun_spec run s
  rw [h]
  rfl

@[simp] theorem outline_writeControl (run resume : Bool) (s : State) :
    outline (writeControl run resume s) = outline s := by
  unfold writeControl
  split <;> simp

@[simp] theorem outline_scanAnswered_idle (table : List Byte) (s : State) :
    outline (scanAnswered table s) = outline s := by
  unfold scanAnswered
  split
  · split
    · simp only [outline_pushDue, outline_resumeEvent]
      rfl
    · rfl
  · rfl

@[simp] theorem outline_blockAnswered (block : List Byte) (s : State) :
    outline (blockAnswered block s) = outline s := by
  unfold blockAnswered
  split
  · split
    · simp only [outline_judgeBlock, outline_resumeEvent]
      rfl
    · rfl
  · rfl

/-! ## Windows and events -/

theorem takeEnergy_length (d : Nat) (regs : List Reg) (r : WinResult) : (takeEnergy d regs r).length = regs.length := by
  unfold takeEnergy
  split
  · exact foldl_keeps (fun l : List Reg => l.length = regs.length) _ (fun l f hl => by simp [feedRegister, hl]) _ _ rfl
  · rfl

@[simp] theorem outline_acctTakeWindow (d : DecompWindow) (results : List WinResult) (s : State) :
    outline (acctTakeWindow d results s) = outline s := by
  have h : (results.foldl (takeEnergy s.divisor) s.acct.regs).length = s.acct.regs.length :=
    foldl_keeps (fun l : List Reg => l.length = s.acct.regs.length) _ (fun l r hl => by rw [takeEnergy_length, hl]) _ _ rfl
  simp [acctTakeWindow, outline, h]

@[simp] theorem outline_takeVerdict (d : DecompWindow) (results : List WinResult) (s : State) :
    outline (takeVerdict d results s) = outline s := by
  unfold takeVerdict
  split <;> rfl

theorem outline_forPositions (specs : List PointSpectra) (positions : List Nat) (f : PointSpectra → Nat → State → State)
    (h : ∀ p pos s, outline (f p pos s) = outline s) (s : State) :
    outline (forPositions specs positions f s) = outline s :=
  outline_foldl _ (fun s p => outline_foldl _ (fun s pos => h p pos s) positions s) specs s

@[simp] theorem outline_decompose (s : State) : outline (decompose s) = outline s := by
  have rms : ∀ specs t, outline (forPositions specs (List.range 7) takeRms t) = outline t :=
    fun specs => outline_forPositions specs _ _ fun _ _ _ => outline_setChannel ..
  have calibrations : ∀ d specs t, outline (forPositions specs (List.range 7) (takeCalibration d) t) = outline t :=
    fun d specs => outline_forPositions specs _ _ fun _ _ _ => outline_calibrationStep ..
  unfold decompose
  split
  · rfl
  · simp only [outline_pushDue, outline_statTakeWindow, outline_acctTakeWindow, outline_takeVerdict, calibrations, rms]
    rfl

@[simp] theorem outline_beginEvent (kind : EventKind) (halting : Bool) (ds : List Due) (s : State) :
    outline (beginEvent kind halting ds s) = outline s := rfl

@[simp] theorem outline_haltRun (s : State) : outline (haltRun s) = outline s := by
  have h : outline (allLinks.foldl (fun s l => failCalibrationsOf l (failRestart l .badState s)) s) = outline s :=
    outline_foldl _ (fun _ _ => by simp) _ _
  rw [← h]
  simp [haltRun, outline]

@[simp] theorem outline_closeWindow (s : State) : outline (closeWindow s) = outline s := by
  unfold closeWindow
  split
  · rfl
  · simp only [outline_pushDue]
    split
    · rw [outline_haltRun]
      simp [outline]
    · simp [outline]

@[simp] theorem outline_tickInstant (s : State) : outline (tickInstant s) = outline s := by
  refine outline_ite ?_ rfl
  rw [outline_beginEvent, startRun, outline_request]
  simp [outline, startLinks]

@[simp] theorem outline_endEvent (s : State) : outline (endEvent s) = outline s := by
  unfold endEvent
  split
  · rfl
  · simp only
    split <;> simp [startWindow, outline]

@[simp] theorem outline_orDefer (d : Due) (s : State) : outline (orDefer d s) = outline s := by
  unfold orDefer
  split <;> rfl

@[simp] theorem outline_completeDecomposition (s : State) : outline (completeDecomposition s) = outline s := by
  unfold completeDecomposition
  split <;> simp

@[simp] theorem outline_abandonReads (s : State) : outline (abandonReads s) = outline s := by
  unfold abandonReads
  simp only
  split
  · exact outline_resumeEvent _
  · rfl

end Sys2Proof.Machine
end

section
/-! SUPPORT. What a step keeps: a property that every part of what is due, the passing of time and every act of a command
keep is kept by every step. -/

namespace Sys2Proof.Machine

/-- What the acts of the commands and the parts of what is due keep. -/
structure KeptByActs (P : State → Prop) : Prop where
  pending : ∀ s cs, P s → P { s with pending := cs }
  due : ∀ s ds, P s → P { s with due := ds }
  part : ∀ d s, P s → P (microStep d s)
  time : ∀ n s, P s → P (elapse n s)
  deferred : ∀ d s, P s → P (orDefer d s)
  tick : ∀ s, P s → P (tickInstant s)
  boundary : ∀ halting s, P s → P (beginEvent .boundary halting boundaryDue s)
  decomposition : ∀ s, P s → P (completeDecomposition s)
  scanReads : ∀ table s, P s → P (scanAnswered table s)
  blockReads : ∀ block s, P s → P (blockAnswered block s)
  image : ∀ e s, P s → P (imageWritten e s)
  takenWrite : ∀ s, P s → P (takenAnswered s)
  resultWrite : ∀ s, P s → P (resultAnswered s)
  delivery : ∀ s, P s → P (delivered s)
  headerWrite : ∀ s, P s → P (headerFieldsAnswer s)
  countWrite : ∀ s, P s → P (updateCountAnswer s)
  busError : ∀ op dir off e s, P s → P (accessError op dir off e s)
  busTimeout : ∀ op dir off e s, P s → P (accessTimeout op dir off e s)
  owner : ∀ word s, P s → P (ownerAnswer word s)
  body : ∀ s, P s → P (bodyAnswer s)
  page : ∀ s, P s → P (pageComplete s)
  base : ∀ hi value s, P s → P (writeExbase hi value s)
  control : ∀ run resume s, P s → P (writeControl run resume s)
  causes : ∀ value s, P s → P (clearCauses value s)
  mask : ∀ value s, P s → P (writeMask value s)
  level : ∀ low s, P s → P (modDecoder (fun d => { d with lineLow := low }) s)
  fall : ∀ s, P s → P (lineFall s)
  rise : ∀ s, P s → P (lineRise s)
  stuck : ∀ s, P s → P (stuckLow s)
  recovery : ∀ s, P s → P (recover s)
  burst : ∀ s, P s → P (endBurst s)
  fresh : ∀ nom60 phase cause t s, P s → P { freshState nom60 phase cause s with tick := t }
  load : ∀ stage cause words s, P s → P (loadStep stage cause words s)
  reads : ∀ s, P s → P (abandonReads s)
  blocks : ∀ s, P s → P (softBlocks s)

theorem onlyIf_keeps {P : State → Prop} (b : State → Bool) (f : State → State) (hf : ∀ s, P s → P (f s)) (s : State) (h : P s) :
    P (onlyIf b f s) := by
  unfold onlyIf
  split
  · exact hf s h
  · exact h

namespace KeptByActs

variable {P : State → Prop} (K : KeptByActs P)
include K

theorem settle (s : State) (h : P s) : P (settle s) := settleFor_keeps P K.due K.part _ s h

theorem advance (s : State) (h : P s) : P (advance s) := advanceFor_keeps P K.due K.part _ s h

theorem perform (wanted : Due → State → Bool) (s : State) (h : P s) : P (perform wanted s) :=
  perform_keeps P K.due K.part wanted s h

theorem waitUntil (t : Nat) (s : State) (h : P s) : P (waitUntil t s) := K.time _ s h

/-- A command from outside keeps what its act keeps. -/
theorem fromOutside (dt : Nat) (act : State → State) (ha : ∀ s, P s → P (act s)) (s : State) (h : P s) :
    P (fromOutside dt act s) := by
  unfold Machine.fromOutside
  split
  · exact K.time dt s h
  · exact K.advance _ (ha _ (K.time dt _ (K.settle s h)))

/-- A command of the engine's timers keeps what its act keeps. -/
theorem fromTimer (instant : State → Option Nat) (act : State → State) (ha : ∀ s, P s → P (act s)) (s : State)
    (h : P s) : P (fromTimer instant act s) := by
  unfold Machine.fromTimer
  split
  · exact h
  · split
    · exact K.advance _ (ha _ (K.waitUntil _ _ (K.settle s h)))
    · exact h

theorem reachTick (s : State) (h : P s) : P (reachTick s) := by
  unfold Machine.reachTick
  refine K.tick _ ?_
  split
  · exact K.settle _ (K.due _ _ h)
  · exact h

theorem reachBoundary (s : State) (h : P s) : P (reachBoundary s) := by
  refine K.boundary _ _ (K.waitUntil _ _ ?_)
  have strobes := K.settle _ (K.due s (List.replicate (windowLen s.tb.nom60 - 1 - s.tb.strobe) Due.strobe ++ s.due) h)
  unfold beforeBoundary
  simp only
  split
  · exact K.settle _ (K.due _ _ strobes)
  · exact strobes

theorem writeEngctl (run resume srst : Bool) (s : State) (h : P s) : P (writeEngctl run resume srst s) := by
  unfold Machine.writeEngctl
  split
  · exact K.blocks _ (K.settle _ (K.reads s h))
  · exact K.control run resume s h

theorem lineChange (dt : Nat) (low : Bool) (act : State → State) (ha : ∀ s, P s → P (act s)) (s : State) (h : P s) :
    P (lineChange dt low act s) := by
  unfold Machine.lineChange
  split
  · exact K.level low _ (K.time dt s h)
  · exact K.fromOutside dt act ha s h

theorem powerOn (nomf60 : Bool) (s t : State) (h : P s) (ht : execPowerOn nomf60 s = .next t) : P t := by
  unfold execPowerOn at ht
  split at ht
  · cases ht; exact K.fresh nomf60 (.held .powerOn) .powerOn 0 s h
  · cases ht; exact K.fresh nomf60 (.loading .identity 0 .powerOn) .powerOn 0 s h

theorem pinResetRelease (dt : Nat) (nomf60 : Bool) (s t : State) (h : P s)
    (ht : execPinResetRelease dt nomf60 s = .next t) : P t := by
  unfold execPinResetRelease at ht
  simp only at ht
  split at ht
  · cases ht; exact K.fresh _ _ _ _ _ (K.time dt s h)
  · cases ht; exact K.time dt s h

theorem factoryTransferAnswered (dt : Nat) (words : List Word32) (s t : State) (h : P s)
    (ht : execFactoryTransferAnswered dt words s = .next t) : P t := by
  unfold execFactoryTransferAnswered at ht
  simp only at ht
  split at ht
  · split at ht
    · cases ht; exact K.load _ _ _ _ (K.time dt s h)
    · cases ht; exact K.time dt s h
  · cases ht; exact K.time dt s h

theorem factoryTransferTimeout (s t : State) (h : P s) (ht : execFactoryTransferTimeout s = .next t) : P t := by
  unfold execFactoryTransferTimeout at ht
  split at ht
  · cases ht; exact K.load _ _ _ _ (K.waitUntil _ s h)
  · cases ht; exact h

/-- What the acts keep, every command keeps. -/
theorem exec (i : Instr) (s t : State) (h : P s) (ht : exec i s = .next t) : P t := by
  cases i with
  | powerOn nomf60 => exact K.powerOn nomf60 s t h ht
  | pinResetAssert _ => cases ht; exact K.fresh _ _ _ 0 s h
  | pinResetRelease dt nomf60 => exact K.pinResetRelease dt nomf60 s t h ht
  | factoryTransferAnswered dt words => exact K.factoryTransferAnswered dt words s t h ht
  | factoryTransferTimeout => exact K.factoryTransferTimeout s t h ht
  | exbaseWrite dt hi value => cases ht; exact K.fromOutside dt _ (K.base hi value) s h
  | runSet w => cases ht; exact K.fromOutside w.dt _ (K.writeEngctl _ _ _) s h
  | runClear w => cases ht; exact K.fromOutside w.dt _ (K.writeEngctl _ _ _) s h
  | resume w => cases ht; exact K.fromOutside w.dt _ (K.writeEngctl _ _ _) s h
  | softReset w => cases ht; exact K.fromOutside w.dt _ (K.writeEngctl _ _ _) s h
  | intcauseClear dt value => cases ht; exact K.fromOutside dt _ (K.causes value) s h
  | intmaskWrite dt value => cases ht; exact K.fromOutside dt _ (K.mask value) s h
  | registerWriteIgnored dt _ _ => cases ht; exact K.fromOutside dt _ (fun _ h => h) s h
  | freeTick => cases ht; exact K.fromTimer _ _ K.reachTick s h
  | sampleStrobe => cases ht; exact K.fromTimer _ _ (K.deferred .strobe) s h
  | windowBoundary => cases ht; exact K.fromTimer _ _ K.reachBoundary s h
  | frameArrival dt l bytes => cases ht; exact K.fromOutside dt _ (K.deferred _) s h
  | decompositionComplete dt => cases ht; exact K.fromOutside dt _ K.decomposition s h
  | headerFieldsAnswered dt => cases ht; exact K.fromOutside dt _ K.headerWrite s h
  | updateCountWriteAnswered dt => cases ht; exact K.fromOutside dt _ K.countWrite s h
  | ownerWordAnswer dt word => cases ht; exact K.fromOutside dt _ (onlyIf_keeps _ _ (K.owner word)) s h
  | pageBodyAnswered dt => cases ht; exact K.fromOutside dt _ (onlyIf_keeps _ _ K.body) s h
  | pageWriteComplete dt => cases ht; exact K.fromOutside dt _ (onlyIf_keeps _ _ K.page) s h
  | busAccessError dt op dir off e => cases ht; exact K.fromOutside dt _ (K.busError op dir off e) s h
  | busAccessTimeout op dir off e => cases ht; exact K.fromTimer _ _ (K.busTimeout op dir off e) s h
  | scanReadsAnswered dt table => cases ht; exact K.fromOutside dt _ (K.scanReads table) s h
  | configBlockReadDone dt block => cases ht; exact K.fromOutside dt _ (K.blockReads block) s h
  | snapshotWritten dt e => cases ht; exact K.fromOutside dt _ (K.image e) s h
  | takenWriteAnswered dt => cases ht; exact K.fromOutside dt _ K.takenWrite s h
  | completionResultWritten dt => cases ht; exact K.fromOutside dt _ K.resultWrite s h
  | completionDelivered dt => cases ht; exact K.fromOutside dt _ K.delivery s h
  | syncLineFall dt => cases ht; exact K.lineChange dt true _ K.fall s h
  | syncLineRise dt => cases ht; exact K.lineChange dt false _ K.rise s h
  | stuckLowFault => cases ht; exact K.fromTimer _ _ K.stuck s h
  | stuckLowRecovery => cases ht; exact K.fromTimer _ _ K.recovery s h
  | syncBurstEnd => cases ht; exact K.fromTimer _ _ K.burst s h
  | _ => cases ht; exact K.perform _ s h

/-- What the acts keep, every step keeps. -/
theorem step (s t : State) (h : P s) (ht : step s = .next t) : P t := by
  unfold Machine.step at ht
  split at ht
  · cases ht; exact K.time 1 _ (K.settle s h)
  · exact K.exec _ _ t (K.pending s _ h) ht

end KeptByActs

end Sys2Proof.Machine
end

section
/-! PROOF. Every step keeps the numbers of the parts, the alignment of the base, and each index in flight once (O58). -/

namespace Sys2Proof.Machine

/-- From `s` to `t` the numbers of the parts, the alignment of the base and each index in flight once are kept, each by
itself. -/
structure Keeps (s t : State) : Prop where
  shape : shaped s → shaped t
  base : baseAligned s → baseAligned t
  once : entriesOnce s → entriesOnce t

theorem Keeps.trans {s t u : State} (h : Keeps s t) (h' : Keeps t u) : Keeps s u :=
  ⟨fun x => h'.shape (h.shape x), fun x => h'.base (h.base x), fun x => h'.once (h.once x)⟩

/-- A state of the same outline. -/
theorem Keeps.of_outline {s t : State} (h : outline t = outline s) : Keeps s t := by
  simp only [outline, Outline.mk.injEq] at h
  obtain ⟨links, channels, regs, opening, demand, monitors, exbase, entries⟩ := h
  refine ⟨fun hs => ?_, fun hb => ?_, fun ho => ?_⟩
  · simpa only [shaped, links, channels, regs, opening, demand, monitors] using hs
  · simpa only [baseAligned, exbase] using hb
  · simpa only [entriesOnce, entries] using ho

/-! ## Accounts -/

/-- The accounting unit's part of the shape. -/
def Accounting.shaped (a : Accounting) : Prop := a.regs.length = 180 ∧ a.opening.length = 180 ∧ a.demand.length = 40

theorem Keeps.of_acct (s : State) (a : Accounting) (h : s.acct.shaped → a.shaped) : Keeps s { s with acct := a } := by
  refine ⟨?_, fun hb => hb, fun ho => ho⟩
  rintro ⟨links, channels, regs, opening, demand, monitors⟩
  obtain ⟨regs', opening', demand'⟩ := h ⟨regs, opening, demand⟩
  exact ⟨links, channels, regs', opening', demand', monitors⟩

/-- R76: an opening takes one count from each register. -/
theorem acctOpen_shaped (a : Accounting) (h : a.shaped) : (acctOpen a).shaped := by
  obtain ⟨regs, -, demand⟩ := h
  exact ⟨regs, by simpa [acctOpen] using regs, demand⟩

theorem acctStart_shaped (a : Accounting) (h : a.shaped) : (acctStart a).shaped := by
  unfold acctStart
  split
  · exact acctOpen_shaped a h
  · exact h

theorem raiseDemand_length (c : Close) (table : List DemandEntry) (p : AcctPart) :
    (raiseDemand c table p).length = table.length := by
  unfold raiseDemand
  split <;> simp

theorem acctFinish_shaped (a : Accounting) (c : Close) (h : a.shaped) : (acctFinish a c).2.shaped := by
  obtain ⟨regs, opening, demand⟩ := h
  have table : ((c.points.map (acctPart a c)).foldl (raiseDemand c) a.demand).length = 40 :=
    foldl_keeps (fun l : List DemandEntry => l.length = 40) _ (fun l p hl => (raiseDemand_length c l p).trans hl) _ _ demand
  have closed : ∀ reset : Bool, ({ a with
      demand := if reset then List.replicate 40 ({} : DemandEntry)
        else (c.points.map (acctPart a c)).foldl (raiseDemand c) a.demand
      closes := a.closes.drop 1 } : Accounting).shaped := fun reset => by
    refine ⟨regs, opening, ?_⟩
    cases reset
    · exact table
    · simp
  simp only [acctFinish]
  split
  · exact closed _
  · exact acctOpen_shaped _ (closed _)

theorem Keeps.acctFinishStep (s : State) : Keeps s (acctFinishStep s) := by
  unfold Machine.acctFinishStep
  split
  · next c _ _ => exact (Keeps.of_acct s (acctFinish s.acct c).2 (acctFinish_shaped _ c)).trans (.of_outline (by simp))
  · exact .of_outline rfl

theorem Keeps.settleInterval (s : State) : Keeps s (settleInterval s) := by
  have tariff : Keeps s (settleTariff s) := .of_outline (by simp)
  unfold Machine.settleInterval
  simp only
  split
  · split
    · exact (tariff.trans (Keeps.of_acct _ _ (acctStart_shaped _))).trans (.of_outline (by simp))
    · exact tariff
  · exact tariff

/-! ## Orders in flight -/

/-- R159: an entry is taken only where its index is not in flight. -/
theorem entries_takeOrders (table : List Byte) (s : State) :
    (takeOrders table s).orders.inFlight.map (fun f => f.entry) =
      (resetCompletions s).orders.inFlight.map (fun f => f.entry) ++ takenEntries (resetCompletions s) table := by
  obtain ⟨head, h⟩ := takeOrders_spec table s
  rw [h]
  simp [takenOrder, Function.comp_def]

theorem not_inFlight_of_taken (s : State) (table : List Byte) (e : Fin 16) (h : e ∈ takenEntries s table) :
    e ∉ s.orders.inFlight.map (fun f => f.entry) := by
  obtain ⟨-, free⟩ : entryState (tableEntry table e.val) = 1 ∧ s.inFlight e = none := by
    simpa [takenEntries, takes] using h
  simpa [State.inFlight] using free

theorem Keeps.takeOrders (table : List Byte) (s : State) : Keeps s (takeOrders table s) := by
  obtain ⟨o, hr⟩ := resetCompletions_spec s
  obtain ⟨head, h⟩ := takeOrders_spec table s
  have kept : Keeps s (resetCompletions s) := .of_outline (by simp)
  refine ⟨fun hs => ?_, fun hb => ?_, fun ho => ?_⟩
  · rw [h, hr]; exact hs
  · rw [h, hr]; exact hb
  · unfold entriesOnce
    rw [entries_takeOrders]
    refine List.nodup_append.mpr ⟨kept.once ho, (List.nodup_finRange 16).filter _, ?_⟩
    rintro a ha b hb rfl
    exact not_inFlight_of_taken _ table a hb ha

/-- R161: a delivered completion takes its index out of the in-flight list. -/
theorem Keeps.delivered (s : State) : Keeps s (delivered s) := by
  unfold Machine.delivered
  split
  · split
    · next e _ _ _ _ =>
      refine Keeps.trans (t := { s with orders := { s.orders with
        inFlight := s.orders.inFlight.filter (fun f => f.entry ≠ e) } }) ⟨fun hs => hs, fun hb => hb, fun ho => ?_⟩
        (.of_outline (by simp only [outline_popQueue]; rfl))
      exact ho.sublist (List.filter_sublist.map _)
    · exact .of_outline rfl
  · exact .of_outline rfl

/-! ## The exchange area base -/

/-- R196: a base is a multiple of 4,096 where its 12 low bits are 0. -/
theorem baseAligned_iff (s : State) : baseAligned s ↔ ∀ i < 12, s.port.exbase.getLsbD i = false := by
  have mask : ∀ i < 64, (0xFFF#64).getLsbD i = decide (i < 12) := by decide
  unfold baseAligned
  constructor
  · intro h i hi
    have := congrArg (fun b => b.getLsbD i) h
    simpa [mask i (by omega), hi] using this
  · intro h
    refine BitVec.eq_of_getLsbD_eq fun i hi => ?_
    rw [BitVec.getLsbD_and, mask i hi]
    by_cases low : i < 12
    · simp [h i low]
    · simp [low]

theorem Keeps.of_base (s : State) (b : Word64)
    (h : (∀ i < 12, s.port.exbase.getLsbD i = false) → ∀ i < 12, b.getLsbD i = false) :
    Keeps s { s with port := { s.port with exbase := b } } :=
  ⟨fun hs => hs, fun hb => (baseAligned_iff _).mpr (h ((baseAligned_iff s).mp hb)), fun ho => ho⟩

/-- R196: a write to the high half leaves the low half, and a write to the low half stores its 12 low bits as 0. -/
theorem Keeps.writeExbase (hi : Bool) (value : Word32) (s : State) : Keeps s (writeExbase hi value s) := by
  have mask : ∀ i < 12, (0xFFFFF000#32).getLsbD i = false := by decide
  unfold Machine.writeExbase
  split
  · refine (Keeps.of_base s _ fun low i lt => ?_).trans (.of_outline (outline_pump _))
    have lt32 : i < 32 := by omega
    cases hi
    · exact BitVec.getLsbD_append.trans (by rw [BitVec.getLsbD_and, mask i lt]; simp [lt32])
    · exact BitVec.getLsbD_append.trans (by simpa [lt32] using low i lt)
  · exact .of_outline rfl

/-! ## Resets -/

theorem Keeps.freshState (nom60 : Bool) (phase : ResetPhase) (cause : ResetCause) (t : Nat) (s : State) :
    Keeps s { freshState nom60 phase cause s with tick := t } :=
  ⟨fun _ => ⟨List.length_replicate, List.length_replicate, List.length_replicate, List.length_replicate,
    List.length_replicate, List.length_replicate⟩, fun _ => (by decide : (0#64 &&& 0xFFF#64) = 0), fun _ => List.nodup_nil⟩

/-- The links and the channels are as many as R1 and R13 name. -/
theorem Keeps.of_links_channels (s : State) (links : List Link) (channels : List Channel)
    (hl : s.links.length = 4 → links.length = 4) (hc : channels.length = 28) :
    Keeps s { s with links := links, channels := channels } := by
  refine ⟨?_, fun hb => hb, fun ho => ho⟩
  rintro ⟨nl, -, rest⟩
  exact ⟨hl nl, hc, rest⟩

theorem Keeps.endLoad (cause : ResetCause) (s : State) : Keeps s (endLoad cause s) :=
  (Keeps.of_links_channels s s.links (factoryChannels s.store.factory) id (by simp [factoryChannels])).trans
    (.of_outline rfl)

theorem Keeps.loadStep (stage : LoadStage) (cause : ResetCause) (words : Option (List Word32)) (s : State) :
    Keeps s (loadStep stage cause words s) := by
  cases stage with
  | identity => exact .of_outline rfl
  | epochRead => exact .of_outline rfl
  | epochWrite => exact .of_outline rfl
  | epochVerify => 
    refine Keeps.trans (t := modFactory _ s) (.of_outline rfl) (Keeps.endLoad cause _)

theorem Keeps.softBlocks (s : State) : Keeps s (softBlocks s) := by
  have orders : outline (softOrders s) = outline s := by simp [softOrders, outline, Function.comp_def]
  have closed : Keeps s (softClose (discardWindow (returnTransit true (softOrders s)))) :=
    .of_outline (by simp [softClose, orders])
  have links : ∀ t, Keeps t (softLinks t) := fun t => Keeps.of_links_channels t _ _ (by simp) (by simp)
  have ports : ∀ t, Keeps t (softPort (softIntervals (softTimebase t))) := fun t => .of_outline rfl
  exact ((closed.trans (links _)).trans (ports _)).trans (.of_outline ((outline_pump _).trans (outline_pushDue _ _)))

/-! ## Every part and every act -/

theorem Keeps.part (d : Due) (s : State) : Keeps s (microStep d s) := by
  cases d with
  | takeOrders table => exact Keeps.takeOrders table s
  | settleTariff => exact Keeps.settleInterval s
  | acctFinish =>
    simp only [microStep_acctFinish, onlyIf]
    split
    · exact Keeps.acctFinishStep s
    · exact .of_outline rfl
  | intervalEnd | tariffStep | clockCheck | timeoutCheck | demandApply | heldRetry | statFinish =>
    exact .of_outline (outline_onlyIf _ _ s (by simp))
  | asOf t => exact .of_outline rfl
  | _ => exact .of_outline (by simp)

/-- What is kept from a state on, every act keeps. -/
theorem Keeps.keptByActs (s : State) : KeptByActs (Keeps s) where
  pending _ _ h := h.trans (.of_outline rfl)
  due _ _ h := h.trans (.of_outline rfl)
  part d t h := h.trans (Keeps.part d t)
  time _ _ h := h.trans (.of_outline (by simp))
  deferred _ _ h := h.trans (.of_outline (by simp))
  tick _ h := h.trans (.of_outline (by simp))
  boundary _ _ h := h.trans (.of_outline (by simp))
  decomposition _ h := h.trans (.of_outline (by simp))
  scanReads _ _ h := h.trans (.of_outline (by simp))
  blockReads _ _ h := h.trans (.of_outline (by simp))
  image _ _ h := h.trans (.of_outline (by simp))
  takenWrite _ h := h.trans (.of_outline (by simp))
  resultWrite _ h := h.trans (.of_outline (by simp))
  delivery t h := h.trans (Keeps.delivered t)
  headerWrite _ h := h.trans (.of_outline (by simp))
  countWrite _ h := h.trans (.of_outline (by simp))
  busError _ _ _ _ _ h := h.trans (.of_outline (by simp))
  busTimeout _ _ _ _ _ h := h.trans (.of_outline (by simp))
  owner _ _ h := h.trans (.of_outline (by simp))
  body _ h := h.trans (.of_outline (by simp))
  page _ h := h.trans (.of_outline (by simp))
  base hi value t h := h.trans (Keeps.writeExbase hi value t)
  control _ _ _ h := h.trans (.of_outline (by simp))
  causes _ _ h := h.trans (.of_outline rfl)
  mask _ _ h := h.trans (.of_outline rfl)
  level _ _ h := h.trans (.of_outline rfl)
  fall _ h := h.trans (.of_outline (by simp))
  rise _ h := h.trans (.of_outline (by simp))
  stuck _ h := h.trans (.of_outline (by simp))
  recovery _ h := h.trans (.of_outline (by simp))
  burst _ h := h.trans (.of_outline (by simp))
  fresh nom60 phase cause tick t h := h.trans (Keeps.freshState nom60 phase cause tick t)
  load stage cause words t h := h.trans (Keeps.loadStep stage cause words t)
  reads _ h := h.trans (.of_outline (by simp))
  blocks t h := h.trans (Keeps.softBlocks t)

theorem Keeps.step (s t : State) (h : step s = .next t) : Keeps s t :=
  (Keeps.keptByActs s).step s t (.of_outline rfl) h

/-- Settles O58: no part of what is due and no act of a command changes the numbers of the parts, the alignment of the
base or the single occurrence of an index in flight. -/
theorem everyStepKeepsShapeAndBase : Obligations.EveryStepKeepsShapeAndBase :=
  ⟨fun s t hs h => (Keeps.step s t h).shape hs, fun s t hb h => (Keeps.step s t h).base hb,
    fun s t ho h => (Keeps.step s t h).once ho⟩

end Sys2Proof.Machine
end

section
/-! SUPPORT. What a link and a channel read after each small update, and where what is due comes to a stop. -/

namespace Sys2Proof.Machine

/-! ## Reading a link or a channel -/

@[simp] theorem link_elapse (n : Nat) (s : State) (l : Fin 4) : (elapse n s).link l = s.link l := by simp [State.link]

@[simp] theorem channel_elapse (n : Nat) (s : State) (ch : Nat) : (elapse n s).channel ch = s.channel ch := by
  simp [State.channel]

@[simp] theorem link_waitUntil (t : Nat) (s : State) (l : Fin 4) : (waitUntil t s).link l = s.link l := link_elapse ..

@[simp] theorem link_pushDue (ds : List Due) (s : State) (l : Fin 4) : (pushDue ds s).link l = s.link l := rfl

@[simp] theorem activeGain_elapse (n : Nat) (s : State) (ch : Nat) : activeGain (elapse n s) ch = activeGain s ch := by
  simp [activeGain]

@[simp] theorem strobe_elapse (n : Nat) (s : State) : (elapse n s).tb.strobe = s.tb.strobe := by
  unfold elapse
  split <;> rfl

@[simp] theorem nom60_elapse (n : Nat) (s : State) : (elapse n s).tb.nom60 = s.tb.nom60 := by
  unfold elapse
  split <;> rfl

/-- A link that is not DOWN is one of the list. -/
theorem link_lt_of_not_down (s : State) (l : Fin 4) (h : (s.link l).state ≠ .down) : l.val < s.links.length := by
  by_contra out
  exact h (by rw [State.link, List.getD_eq_default _ _ (Nat.le_of_not_lt out)])

theorem link_setLink (s : State) (l l' : Fin 4) (k : Link) :
    (s.setLink l k).link l' = if l' = l ∧ l.val < s.links.length then k else s.link l' := by
  simp only [State.link, State.setLink, List.getD_eq_getElem?_getD, List.getElem?_set]
  by_cases same : l' = l
  · subst same
    by_cases lt : l'.val < s.links.length
    · simp [lt]
    · simp [lt]
  · have ne : l.val ≠ l'.val := fun e => same (Fin.ext e.symm)
    simp [same, ne]

theorem link_setLink_self (s : State) (l : Fin 4) (k : Link) (h : (s.link l).state ≠ .down) :
    (s.setLink l k).link l = k := by
  simp [link_setLink, link_lt_of_not_down s l h]

theorem link_setLink_of_ne (s : State) (l l' : Fin 4) (k : Link) (h : l' ≠ l) : (s.setLink l k).link l' = s.link l' := by
  simp [link_setLink, h]

/-! ## Where what is due comes to a stop -/

/-- What is due stops at once: nothing is due, or the first part is one that a command always names. -/
def stops (ds : List Due) : Prop := ∀ d ∈ ds.head?, ∀ s, named d s = true

theorem stops_nil : stops [] := by simp [stops]

theorem stops_drop (l : Fin 4) (r : DropReason) (ds : List Due) : stops (.drop l r :: ds) := by simp [stops]

theorem stops_enterRunning (l : Fin 4) (bytes : List Byte) (ds : List Due) : stops (.enterRunning l bytes :: ds) := by
  simp [stops]

theorem advanceFor_stops (n : Nat) (s : State) (h : stops s.due) : advanceFor n s = s := by
  cases due : s.due with
  | nil => exact advanceFor_nil n s due
  | cons d ds => exact advanceFor_named n s d ds due (h d (by simp [due]) _)

@[simp] theorem pushDue_nil (s : State) : pushDue [] s = s := rfl

/-- What is due and pushed only under a condition. -/
theorem pushDue_ite (p : Prop) [Decidable p] (ds : List Due) (s : State) :
    pushDue (if p then ds else []) s = if p then pushDue ds s else s := by
  split <;> rfl

/-- One unnamed part comes about by itself, where what it brings stops at once. -/
theorem advance_pushDue_one (d : Due) (s : State) (hd : s.due = []) (hn : named d s = false)
    (hs : stops (microStep d s).due) : advance (pushDue [d] s) = microStep d s := by
  have rest : ({ pushDue [d] s with due := [] } : State) = s := by cases s; cases hd; rfl
  obtain ⟨n, hf⟩ := fuelFor_succ (pushDue [d] s)
  rw [advance, hf, advanceFor_step n _ d [] (by simp [hd]) (by rw [rest]; exact hn), rest, advanceFor_stops n _ hs]

/-- At rest, a frame that arrives acts by the state of its link, where what it brings stops at once. -/
theorem exec_frameArrival (dt : Nat) (l : Fin 4) (bytes : List Byte) (s : State) (h : atRest s)
    (hs : stops (frameStep l bytes (elapse dt s)).due) :
    exec (.frameArrival dt l bytes) s = .next (frameStep l bytes (elapse dt s)) := by
  obtain ⟨⟨phase, due⟩, event⟩ := h
  have pushed : orDefer (.frame l bytes) (elapse dt s) = pushDue [.frame l bytes] (elapse dt s) := by
    simp [orDefer, event]
  show Host.Outcome.next _ = _
  rw [fromOutside_quiet dt _ s phase due, pushed, advance_pushDue_one (.frame l bytes) _ (by simp [due]) rfl hs]
  rfl

end Sys2Proof.Machine
end

section
/-! PROOF. Frames: at a RUNNING link, placed or counted (O19, O20); at a SEEKING link, the sync run and the entry into
RUNNING (O22); and what a drop leaves (O21). -/

namespace Sys2Proof.Machine

/-! ## The fields of a frame (11.8) -/

theorem field_one (bytes : List Byte) (off : Nat) : field bytes off 1 = (bytes.getD off 0).toNat := by
  unfold field
  rw [List.getD_eq_getElem?_getD, ← Nat.add_zero off, ← List.getElem?_drop, Nat.add_zero]
  cases bytes.drop off <;> simp [leNat]

theorem field_two (bytes : List Byte) (off : Nat) :
    field bytes off 2 = (bytes.getD off 0).toNat + 256 * (bytes.getD (off + 1) 0).toNat := by
  unfold field
  rw [List.getD_eq_getElem?_getD, List.getD_eq_getElem?_getD, ← List.getElem?_drop]
  conv_rhs => rw [← Nat.add_zero off, ← List.getElem?_drop, Nat.add_zero]
  rcases bytes.drop off with _ | ⟨a, _ | ⟨b, rest⟩⟩ <;> simp [leNat]

/-- A word and its parity bit hold the ones of both. -/
theorem oddOnes_word (w : Nat) (h : w < 65536) (p : Bool) : oddOnes 17 (w + 65536 * (if p then 1 else 0)) = true ↔
    (((List.range 16).filter (fun i => w.testBit i)).length + (if p then 1 else 0)) % 2 = 1 := by
  have bits : ∀ i, (w + 65536 * (if p then 1 else 0)).testBit i =
      if i < 16 then w.testBit i else (if p then 1 else 0).testBit (i - 16) := fun i => by
    rw [Nat.add_comm]
    exact Nat.testBit_two_pow_mul_add (i := 16) _ h i
  have low : (List.range 16).filter (fun i => (w + 65536 * (if p then 1 else 0)).testBit i) =
      (List.range 16).filter (fun i => w.testBit i) :=
    List.filter_congr fun i hi => by rw [bits, if_pos (List.mem_range.mp hi)]
  have top : (w + 65536 * (if p then 1 else 0)).testBit 16 = p := by
    rw [bits]
    cases p <;> rfl
  have last : [16].filter (fun i => (w + 65536 * (if p then 1 else 0)).testBit i) = if p then [16] else [] := by
    simp only [List.filter_cons, List.filter_nil, top]
  unfold oddOnes
  rw [List.range_succ, List.filter_append, low, last]
  cases p <;> simp

/-- 11.8: where the fields of a frame stand. -/
theorem decodeFrame_fields (bytes : List Byte) (b : Nat → Nat) (hb : ∀ i, b i = (bytes.getD i 0).toNat) :
    (decodeFrame bytes).index = b 0 + 256 * b 1 ∧ (decodeFrame bytes).fault = (b 2).testBit 7 ∧
      ∀ c < 7, ∀ w, w = b (3 + 2 * c) + 256 * b (4 + 2 * c) →
        (decodeFrame bytes).clips.getD c false = (b 2).testBit c ∧
        (decodeFrame bytes).words.getD c 0 = (if w < 32768 then (w : Int) else (w : Int) - 65536) ∧
        ((decodeFrame bytes).parityOk.getD c false = true ↔ (((List.range 16).filter (fun i => w.testBit i)).length
          + (if (b 17).testBit c then 1 else 0)) % 2 = 1) := by
  have one : ∀ off, field bytes off 1 = b off := fun off => by rw [field_one, hb]
  have two : ∀ off, field bytes off 2 = b off + 256 * b (off + 1) := fun off => by rw [field_two, hb, hb]
  refine ⟨two 0, by simp [decodeFrame, one], fun c hc w hw => ?_⟩
  have word : field bytes (3 + 2 * c) 2 = w := by rw [two, hw]; congr 3; omega
  have bound : w < 65536 := by
    have := (bytes.getD (3 + 2 * c) 0).isLt
    have := (bytes.getD (4 + 2 * c) 0).isLt
    rw [hw, hb, hb]
    omega
  refine ⟨?_, ?_, ?_⟩
  · simp [decodeFrame, one, hc]
  · simp [decodeFrame, word, hc, signed]
  · rw [← oddOnes_word w bound]
    simp [decodeFrame, word, one, hc]

/-! ## A frame at a RUNNING link -/

/-- An index that is lost takes the last good samples, or 0 (R4). -/
theorem lastGoodSlot_eq (k : Link) : lastGoodSlot k = { subst := true, ch := k.lastGood.map (fun v =>
    { good := false, raw := 0, val := v.getD 0, clipped := false }) } := rfl

/-- A frame is good where neither its fault flag is set nor a word fails. -/
theorem frameGood_eq (f : Frame) : frameGood f = !(f.fault || decide (0 < badWords f)) := by
  unfold frameGood
  cases f.fault <;> simp [Nat.pos_iff_ne_zero]

theorem frameGood_iff (f : Frame) : frameGood f = true ↔ f.fault = false ∧ badWords f = 0 := by
  simp [frameGood]

theorem not_frameGood_iff (f : Frame) : frameGood f = false ↔ f.fault = true ∨ 0 < badWords f := by
  rw [frameGood_eq]
  cases f.fault <;> simp

theorem badWords_eq_zero (f : Frame) (h : ∀ c < 7, f.parityOk.getD c false = true) : badWords f = 0 := by
  simpa [badWords, List.filter_eq_nil_iff] using h

theorem chanFails_of_good (f : Frame) (hf : f.fault = false) (h : ∀ c < 7, f.parityOk.getD c false = true) (c : Nat)
    (hc : c < 7) : chanFails f c = false := by
  rw [chanFails, hf, h c hc]
  rfl

theorem runningFrame_stale (l : Fin 4) (bytes : List Byte) (s : State) (hb : bytes.length = 18)
    (h : (decodeFrame bytes).index < (s.link l).slots.length ∨ s.tb.strobe < (decodeFrame bytes).index) :
    runningFrame l bytes s = s.setLink l { s.link l with staleFrames := (s.link l).staleFrames + 1 } := by
  simp [runningFrame, frameEnds, hb, h]

theorem runningFrame_unframed (l : Fin 4) (bytes : List Byte) (s : State) (hb : bytes.length ≠ 18) :
    runningFrame l bytes s = framingErrorFrame l s := by
  simp [runningFrame, frameEnds, hb]

theorem runningFrame_accept (l : Fin 4) (bytes : List Byte) (s : State) (hb : bytes.length = 18)
    (h1 : (s.link l).slots.length ≤ (decodeFrame bytes).index) (h2 : (decodeFrame bytes).index ≤ s.tb.strobe) :
    runningFrame l bytes s = acceptFrame l (decodeFrame bytes) bytes s := by
  simp [runningFrame, frameEnds, hb, Nat.not_lt.mpr h1, Nat.not_lt.mpr h2]

/-- R5: a framing error at an index that has not been strobed places nothing. -/
theorem framingErrorFrame_ahead (l : Fin 4) (s : State) (h : s.tb.strobe < (s.link l).slots.length) :
    framingErrorFrame l s = s.setLink l { s.link l with framingErrors := (s.link l).framingErrors + 1 } := by
  simp [framingErrorFrame, Nat.not_le.mpr h]

/-- R5: a framing error at an index that has been strobed substitutes it and raises the failure run. -/
theorem framingErrorFrame_strobed (l : Fin 4) (s : State) (h : (s.link l).slots.length ≤ s.tb.strobe) :
    framingErrorFrame l s = pushDue (if 64 ≤ (s.link l).failRun + 1 then [.drop l .framingRun] else [])
      (s.setLink l { s.link l with
        framingErrors := (s.link l).framingErrors + 1
        failRun := (s.link l).failRun + 1
        slots := lastGoodSlot (s.link l) :: (s.link l).slots }) := by
  rw [pushDue_ite]
  simp only [framingErrorFrame, h, if_true, dropRun]
  rfl

/-- R7: a gap that completes the failure run drops the link before the frame is placed. -/
theorem acceptFrame_gap (l : Fin 4) (f : Frame) (bytes : List Byte) (s : State)
    (h : 64 ≤ (s.link l).failRun + (f.index - (s.link l).slots.length)) :
    acceptFrame l f bytes s = pushDue [.drop l .indexGap, .seekFrame l bytes] (s.setLink l { s.link l with
      failRun := (s.link l).failRun + (f.index - (s.link l).slots.length)
      slots := List.replicate (f.index - (s.link l).slots.length) (lastGoodSlot (s.link l)) ++ (s.link l).slots }) := by
  simp only [acceptFrame, dropRun, h, if_true]
  rfl

/-- R4: the record and the last good samples after a frame that is placed behind a gap. -/
theorem placeFrame_fillLastGood (s : State) (l : Fin 4) (f : Frame) (k : Link) :
    placeFrame s l f (fillLastGood f.index k) = { k with
      slots := { subst := f.fault || decide (0 < badWords f), ch := (List.range 7).map (placedSample s l k f) } ::
        (List.replicate (f.index - k.slots.length) (lastGoodSlot k) ++ k.slots)
      lastGood := (List.range 7).map (fun c => if chanFails f c then k.lastGood.getD c none
        else some (((List.range 7).map (placedSample s l k f)).getD c {}).val) } := by
  unfold placeFrame
  rw [frameGood_eq, Bool.not_not]
  rfl

/-- R4, R15, R16: a sample as a frame places it, written out. -/
theorem placedSample_eq (s : State) (l : Fin 4) (k : Link) (f : Frame) (c : Nat) : placedSample s l k f c =
    if chanFails f c then { good := false, raw := 0, val := (k.lastGood.getD c none).getD 0, clipped := false }
    else {
      good := true, raw := f.words.getD c 0
      val := corrected (s.channel (7 * l.val + c)).offset (activeGain s (7 * l.val + c)) (f.words.getD c 0)
      clipped := isClipped (s.channel (7 * l.val + c)).offset (activeGain s (7 * l.val + c))
        (f.clips.getD c false) (f.words.getD c 0) } := rfl

/-- R3, R4, R7: any other gap is filled and the frame is placed. -/
theorem acceptFrame_placed (l : Fin 4) (f : Frame) (bytes : List Byte) (s : State) (run : Nat)
    (h : (s.link l).failRun + (f.index - (s.link l).slots.length) < 64)
    (hr : run = if f.fault || 0 < badWords f
      then (s.link l).failRun + (f.index - (s.link l).slots.length) + 1 else 0) :
    acceptFrame l f bytes s = pushDue (if 64 ≤ run then [.drop l (if f.fault then .moduleFault else .parityRun)] else [])
      (s.setLink l { placeFrame s l f (fillLastGood f.index (s.link l)) with
        failRun := run
        goodFrames := if f.fault || 0 < badWords f then (s.link l).goodFrames else (s.link l).goodFrames + 1
        parityErrors := (s.link l).parityErrors + BitVec.ofNat 32 (badWords f) }) := by
  have hrun : (if frameGood f then 0 else (s.link l).failRun + (f.index - (s.link l).slots.length) + 1) = run := by
    rw [hr, frameGood_eq]
    cases f.fault || decide (0 < badWords f) <;> rfl
  have hgood : (if frameGood f then (s.link l).goodFrames + 1 else (s.link l).goodFrames) =
      if f.fault || 0 < badWords f then (s.link l).goodFrames else (s.link l).goodFrames + 1 := by
    rw [frameGood_eq]
    cases f.fault || decide (0 < badWords f) <;> rfl
  rw [pushDue_ite]
  simp only [acceptFrame, dropRun, Nat.not_le.mpr h, if_false, hrun, hgood]

theorem stops_ite_drop (p : Prop) [Decidable p] (l : Fin 4) (r : DropReason) :
    stops (if p then [.drop l r] else []) := by
  split
  · exact stops_drop l r []
  · exact stops_nil

/-- At rest a RUNNING link takes a frame by `runningFrame`, on the state that the passing of time leaves. -/
theorem exec_frameArrival_running (dt : Nat) (l : Fin 4) (bytes : List Byte) (s t : State) (rest : atRest s)
    (hr : (s.link l).state = .running) (ht : runningFrame l bytes (elapse dt s) = t) (hs : stops t.due) :
    exec (.frameArrival dt l bytes) s = .next t := by
  have step : frameStep l bytes (elapse dt s) = t := by simp [frameStep, hr, ht]
  rw [← step] at hs ⊢
  exact exec_frameArrival dt l bytes s rest hs

/-- Settles O20: the frames that a link ignores, counts, substitutes or places, by the tests of R3 in their order. -/
theorem badFramesAreCountedOrSubstituted : Obligations.BadFramesAreCountedOrSubstituted := by
  intro s dt l bytes rest
  obtain ⟨⟨-, due⟩, -⟩ := id rest
  have running := exec_frameArrival_running dt l bytes s (rest := rest)
  refine ⟨fun hr => ?_, fun hr hb h => ?_, fun hr hb h => ?_, fun hr hb h => ?_, ?_⟩
  · have step : frameStep l bytes (elapse dt s) = elapse dt s := by simp [frameStep, hr]
    rw [exec_frameArrival dt l bytes s rest (by simp [step, due, stops_nil]), step]
  · refine running _ hr ((runningFrame_stale l bytes _ hb (by simpa using h)).trans ?_) (by simp [due, stops_nil])
    rw [link_elapse]
  · rw [← link_elapse dt s l] at *
    exact running _ hr ((runningFrame_unframed l bytes _ hb).trans (framingErrorFrame_ahead l _ (by simpa using h)))
      (by simp [due, stops_nil])
  · rw [← link_elapse dt s l] at *
    exact running _ hr ((runningFrame_unframed l bytes _ hb).trans (framingErrorFrame_strobed l _ (by simpa using h)))
      (by simp [due, stops_ite_drop])
  · rintro f lost rfl hr hb h1 h2 rfl
    rw [← link_elapse dt s l] at *
    have accepted := runningFrame_accept l bytes (elapse dt s) hb h1 (by simpa using h2)
    refine ⟨fun h => ?_, ?_⟩
    · exact running _ hr (accepted.trans (acceptFrame_gap l _ bytes _ h)) (by simp [stops_drop])
    · rintro h bad fails samples run rfl hf rfl hrun
      obtain rfl : fails = chanFails (decodeFrame bytes) := funext hf
      refine running _ hr (accepted.trans ((acceptFrame_placed l _ bytes _ run h hrun).trans ?_))
        (by simp [due, stops_ite_drop])
      rw [placeFrame_fillLastGood]
      simp only [funext (placedSample_eq _ _ _ _), channel_elapse, activeGain_elapse]
      rfl

/-- The samples of a good frame, corrected (R4, R15, R16). -/
def goodSamples (s : State) (l : Fin 4) (f : Frame) : List ChanSample :=
  (List.range 7).map (fun c =>
    { good := true, raw := f.words.getD c 0
      val := corrected (s.channel (7 * l.val + c)).offset (activeGain s (7 * l.val + c)) (f.words.getD c 0)
      clipped := isClipped (s.channel (7 * l.val + c)).offset (activeGain s (7 * l.val + c))
        (f.clips.getD c false) (f.words.getD c 0) })

theorem placedSamples_of_good (s : State) (l : Fin 4) (k : Link) (f : Frame) (hf : f.fault = false)
    (hp : ∀ c < 7, f.parityOk.getD c false = true) :
    (List.range 7).map (placedSample s l k f) = goodSamples s l f :=
  List.map_congr_left fun c hc => by
    rw [placedSample_eq, chanFails_of_good f hf hp c (List.mem_range.mp hc)]
    rfl

theorem goodSamples_getD (s : State) (l : Fin 4) (f : Frame) (c : Nat) (hc : c < 7) :
    ((goodSamples s l f).getD c {}).val =
      corrected (s.channel (7 * l.val + c)).offset (activeGain s (7 * l.val + c)) (f.words.getD c 0) := by
  simp [goodSamples, List.getD_eq_getElem?_getD, hc]

/-- R4: a good frame leaves each of its corrected samples as its channel's last good one. -/
theorem placeFrame_of_good (s : State) (l : Fin 4) (f : Frame) (k : Link) (hf : f.fault = false)
    (hp : ∀ c < 7, f.parityOk.getD c false = true) :
    placeFrame s l f k = { k with
      slots := { subst := false, ch := goodSamples s l f } :: k.slots
      lastGood := (goodSamples s l f).map (fun x : ChanSample => some x.val) } := by
  have good : frameGood f = true := by simp [frameGood_eq, hf, badWords_eq_zero f hp]
  have kept : (List.range 7).map (fun c => if chanFails f c then k.lastGood.getD c none
      else some ((goodSamples s l f).getD c {}).val) = (goodSamples s l f).map (fun x : ChanSample => some x.val) := by
    unfold goodSamples
    rw [List.map_map]
    refine List.map_congr_left fun c hc => ?_
    rw [chanFails_of_good f hf hp c (List.mem_range.mp hc)]
    exact congrArg some (goodSamples_getD s l f c (List.mem_range.mp hc))
  unfold placeFrame
  simp only [placedSamples_of_good s l k f hf hp, good, kept]
  rfl

/-- Settles O19: the accepting case of `runningFrame` without a gap and without a failing word. -/
theorem goodFrameIsPlaced : Obligations.GoodFrameIsPlaced := by
  refine ⟨?_, fun bytes f b hf hb => hf ▸ decodeFrame_fields bytes b hb⟩
  rintro s dt l bytes f rest rfl hr hb hi hc hf hp hrun
  obtain ⟨⟨-, due⟩, -⟩ := id rest
  have bad := badWords_eq_zero _ hp
  have full : fillLastGood (decodeFrame bytes).index (s.link l) = s.link l := by simp [fillLastGood, hi]
  refine exec_frameArrival_running dt l bytes s _ rest hr ?_ (by simp [due, stops_nil])
  rw [runningFrame_accept l bytes _ hb (by simp [hi]) (by simpa using hc), acceptFrame_placed l _ bytes _ 0
    (by simpa [hi] using hrun) (by simp [hf, bad]), link_elapse, full, placeFrame_of_good _ l _ _ hf hp, bad, hf]
  simp [goodSamples, Function.comp_def]

/-! ## A frame at a SEEKING link -/

theorem seekingFrame_unframed (l : Fin 4) (bytes : List Byte) (s : State) (hb : bytes.length ≠ 18) :
    seekingFrame l bytes s = s.setLink l { s.link l with
      framingErrors := (s.link l).framingErrors + 1, syncRun := 0, syncLast := none } := by
  simp [seekingFrame, frameEnds, hb]

theorem seekingFrame_stale (l : Fin 4) (bytes : List Byte) (s : State) (hb : bytes.length = 18)
    (h : s.tb.strobe < (decodeFrame bytes).index) : seekingFrame l bytes s = s.setLink l { s.link l with
      staleFrames := (s.link l).staleFrames + 1, syncRun := 0, syncLast := none } := by
  simp [seekingFrame, frameEnds, hb, h]

theorem seekingFrame_failing (l : Fin 4) (bytes : List Byte) (s : State) (hb : bytes.length = 18)
    (h : (decodeFrame bytes).index ≤ s.tb.strobe) (hg : frameGood (decodeFrame bytes) = false) :
    seekingFrame l bytes s = s.setLink l { s.link l with
      parityErrors := (s.link l).parityErrors + BitVec.ofNat 32 (badWords (decodeFrame bytes))
      syncRun := 0, syncLast := none } := by
  simp [seekingFrame, frameEnds, hb, Nat.not_lt.mpr h, hg]

/-- R11: a well-formed frame counts, and a run of 16 makes the entry into RUNNING due. -/
theorem seekingFrame_counted (l : Fin 4) (bytes : List Byte) (s : State) (run : Nat) (hb : bytes.length = 18)
    (h : (decodeFrame bytes).index ≤ s.tb.strobe) (hg : frameGood (decodeFrame bytes) = true)
    (hr : run = if continuesRun (windowLen s.tb.nom60) (s.link l) (decodeFrame bytes).index
      then (s.link l).syncRun + 1 else 1) :
    seekingFrame l bytes s = pushDue (if 16 ≤ run then [.enterRunning l bytes] else []) (s.setLink l { s.link l with
      goodFrames := (s.link l).goodFrames + 1, syncRun := run, syncLast := some (decodeFrame bytes).index }) := by
  rw [pushDue_ite]
  simp only [seekingFrame, frameEnds, hb, Nat.not_lt.mpr h, hg, syncRunGoal, ← hr]
  rfl

/-- R11: a frame continues the sync run where its index follows the one before it, round the end of a window. -/
theorem continuesRun_iff (n : Nat) (k : Link) (index : Nat) : continuesRun n k index = true ↔
    ∃ last, k.syncLast = some last ∧ (index = last + 1 ∨ index = 0 ∧ last + 1 = n) := by
  unfold continuesRun
  cases k.syncLast <;> simp

/-- R11: what the entry into RUNNING leaves, before a LINK_RESTART in flight completes (R14). -/
theorem enterRunning_of_good (l : Fin 4) (bytes : List Byte) (s : State) (hf : (decodeFrame bytes).fault = false)
    (hp : ∀ c < 7, (decodeFrame bytes).parityOk.getD c false = true) :
    enterRunning l bytes s = (match (s.link l).restart with
      | some r => completeOk r.entry (BitVec.ofNat 64 r.boundaries) (eventTime s)
      | none => id) (s.setLink l { s.link l with
        state := .running, failRun := 0, syncRun := 0, syncLast := none, restart := none
        enteredAt := some (decodeFrame bytes).index
        slots := { subst := false, ch := goodSamples s l (decodeFrame bytes) } ::
          (s.link l).slots.drop ((s.link l).slots.length - (decodeFrame bytes).index)
        lastGood := (goodSamples s l (decodeFrame bytes)).map (fun x : ChanSample => some x.val) }) := by
  unfold enterRunning
  simp only [placeFrame_of_good s l _ _ hf hp]
  cases (s.link l).restart <;> rfl

/-- Settles O22: each test of a well-formed frame in its order, and the entry at the sixteenth. -/
theorem sixteenFramesEnterRunning : Obligations.SixteenFramesEnterRunning := by
  constructor
  · rintro s dt l bytes f bad run k rest rfl rfl hk rfl
    obtain ⟨⟨-, due⟩, -⟩ := id rest
    have seeking : ∀ t, seekingFrame l bytes (elapse dt s) = t → stops t.due →
        exec (.frameArrival dt l bytes) s = .next t := by
      rintro t rfl hs
      have step : frameStep l bytes (elapse dt s) = seekingFrame l bytes (elapse dt s) := by simp [frameStep, hk]
      rw [← step] at hs ⊢
      exact exec_frameArrival dt l bytes s rest hs
    rw [← link_elapse dt s l, ← strobe_elapse dt s, ← nom60_elapse dt s] at *
    refine ⟨fun hb => ?_, fun hb h => ?_, fun hb h hg => ?_, fun hb h hf hbad continues begins => ?_⟩
    · exact seeking _ (seekingFrame_unframed l bytes _ hb) (by simp [due, stops_nil])
    · exact seeking _ (seekingFrame_stale l bytes _ hb h) (by simp [due, stops_nil])
    · exact seeking _ (seekingFrame_failing l bytes _ hb h ((not_frameGood_iff _).mpr hg)) (by simp [due, stops_nil])
    · refine seeking _ (seekingFrame_counted l bytes _ run hb h ((frameGood_iff _).mpr ⟨hf, hbad⟩) ?_) ?_
      · split
        · next hc => exact continues ((continuesRun_iff ..).mp hc)
        · next hc =>
          rw [continuesRun_iff] at hc
          exact begins fun last hl => ⟨fun h => hc ⟨last, hl, .inl h⟩, fun h => hc ⟨last, hl, .inr h⟩⟩
      · rw [pushDue_due]
        split <;> simp [due, stops_nil, stops_enterRunning]
  · rintro s u l bytes ds f samples hd rfl hf hp rfl rfl
    have entered : exec (.linkEnterRunning l) s = .next (advance (enterRunning l bytes { s with due := ds })) := by
      show Host.Outcome.next _ = _
      rw [perform_front _ s _ ds hd rfl (by simp)]
      rfl
    rw [entered, enterRunning_of_good l bytes _ hf hp]
    refine ⟨fun hr => ?_, fun r hr => ?_⟩
    · rw [show (State.link { s with due := ds } l).restart = none from hr]
      rfl
    · rw [show (State.link { s with due := ds } l).restart = some r from hr]
      rfl

/-! ## A drop -/

/-- R12: the link as a drop leaves it. -/
def droppedLink (reason : DropReason) (c : Nat) (k : Link) : Link :=
  { k with
    state := .seeking, dropReason := reason, drops := k.drops + 1, failRun := 0, syncRun := 0, syncLast := none
    lastGood := List.replicate 7 none
    slots := List.replicate (c + 1 - k.slots.length) (lastGoodSlot k) ++ k.slots }

/-- R12, R23: a drop changes its link, ends the calibrations of its channels and requests LINK. -/
theorem dropLink_eq (l : Fin 4) (reason : DropReason) (s : State) :
    ∃ cs, dropLink l reason s = { s.setLink l (droppedLink reason s.tb.strobe (s.link l)) with
      channels := cs
      port := { s.port with intcause := s.port.intcause ||| (1#9 <<< 5) }
      orders := (failInTurn .badState (eventTime s) (calibrationEntries l s) s).orders } ∧
      ∀ ch, cs.getD ch {} = if ch / 7 = l.val then { s.channel ch with calibration := none } else s.channel ch := by
  obtain ⟨cs, h, -, hc⟩ := failCalibrationsOf_eq l
    (request .link (s.setLink l (droppedLink reason s.tb.strobe (s.link l))))
  have orders := failInTurn_congr .badState (eventTime s) (calibrationEntries l s)
    (request .link (s.setLink l (droppedLink reason s.tb.strobe (s.link l)))) s rfl rfl rfl rfl
  refine ⟨cs, ?_, hc⟩
  rw [← orders]
  exact h

/-- Settles O21: the command of a drop is `dropLink` on the rest of what is due. -/
theorem linkDropFillsAndSeeks : Obligations.LinkDropFillsAndSeeks := by
  intro s l r ds hd hr
  have dropped : exec (.linkDrop l) s = .next (advance (dropLink l r { s with due := ds })) := by
    show Host.Outcome.next _ = _
    rw [perform_front _ s _ ds hd rfl (by simp)]
    rfl
  obtain ⟨cs, h, hc⟩ := dropLink_eq l r { s with due := ds }
  have orders := failInTurn_congr .badState (eventTime s) (calibrationEntries l s) { s with due := ds } s rfl rfl rfl rfl
  refine ⟨_, dropped, ?_⟩
  rw [h]
  refine ⟨rfl, ?_, fun l' hl => ?_, rfl, hc, orders, rfl, rfl, rfl, rfl, rfl, rfl, rfl, rfl⟩
  · exact link_setLink_self s l _ (by simp [hr])
  · exact link_setLink_of_ne s l l' _ hl

end Sys2Proof.Machine
end

section
/-! PROOF. A strobe on the four links (O15). -/

namespace Sys2Proof.Machine

/-- R6, R7: a strobe finds a RUNNING link silent: its failure run and its unanswered indices make 64. -/
def silent (s : State) (l : Fin 4) : Bool :=
  (s.link l).state = .running && decide (64 ≤ (s.link l).failRun + (s.tb.strobe - (s.link l).slots.length))

/-- R11: a link as a strobe leaves it. -/
def strobedLink (s : State) (l : Fin 4) : Link :=
  if (s.link l).state = .seeking then fillZero (s.tb.strobe + 1) (s.link l) else s.link l

/-- R6, R7, R11: a strobe on one link fills it where it is SEEKING, and makes its drop due where it is silent. -/
theorem strobeLink_eq (l : Fin 4) (s : State) :
    ∃ links, strobeLink l s = { s with
      links := links, due := (if silent s l then [.drop l .silence] else []) ++ s.due } ∧
      ∀ l', State.link { s with links := links } l' = if l' = l then strobedLink s l else s.link l' := by
  unfold strobeLink silent strobedLink
  cases hk : (s.link l).state with
  | down => exact ⟨s.links, by simp [hk], fun l' => by by_cases e : l' = l <;> simp [e]⟩
  | seeking =>
    refine ⟨s.links.set l.val (fillZero (s.tb.strobe + 1) (s.link l)), by simp [State.setLink, hk], fun l' => ?_⟩
    refine (link_setLink s l l' _).trans ?_
    simp [link_lt_of_not_down s l (by simp [hk])]
  | running =>
    refine ⟨s.links, ?_, fun l' => by by_cases e : l' = l <;> simp [e]⟩
    by_cases run : 64 ≤ (s.link l).failRun + (s.tb.strobe - (s.link l).slots.length) <;>
      simp [hk, dropRun, run, pushDue]

/-- A strobe on links in turn. -/
theorem foldr_strobeLink (s : State) : ∀ ls : List (Fin 4), ls.Nodup →
    ∃ links, ls.foldr strobeLink s = { s with
      links := links, due := (ls.filter (silent s)).map (fun l => .drop l .silence) ++ s.due } ∧
      ∀ l, State.link { s with links := links } l = if l ∈ ls then strobedLink s l else s.link l
  | [], _ => ⟨s.links, by simp, fun l => by simp⟩
  | l :: ls, distinct => by
    obtain ⟨new, rest⟩ := List.nodup_cons.mp distinct
    obtain ⟨links, h, hl⟩ := foldr_strobeLink s ls rest
    obtain ⟨links', h', hl'⟩ := strobeLink_eq l (ls.foldr strobeLink s)
    have link : ∀ i, (ls.foldr strobeLink s).link i = if i ∈ ls then strobedLink s i else s.link i := fun i => by
      rw [h]; exact hl i
    have tb : (ls.foldr strobeLink s).tb = s.tb := by rw [h]
    have heard : silent (ls.foldr strobeLink s) l = silent s l := by simp [silent, link, new, tb]
    refine ⟨links', ?_, fun i => ?_⟩
    · rw [List.foldr_cons, h', heard, h]
      cases hs : silent s l <;> simp [hs]
    · refine Eq.trans ?_ ((hl' i).trans ?_)
      · rfl
      · by_cases e : i = l
        · simp [e, strobedLink, link, new, tb]
        · simp [e, link]

/-- The passing of time leaves the instants of the strobes (R30). -/
@[simp] theorem strobeAt_waitUntil (t n : Nat) (s : State) : strobeAt (waitUntil t s).tb n = strobeAt s.tb n := by
  unfold waitUntil elapse
  split <;> rfl

@[simp] theorem strobe_waitUntil (t : Nat) (s : State) : (waitUntil t s).tb.strobe = s.tb.strobe := strobe_elapse ..

/-- Settles O15: the strobe falls at its instant, and `foldr_strobeLink` gives what it leaves of the four links. -/
theorem strobeReachesEveryLink : Obligations.StrobeReachesEveryLink := by
  intro s rest hm hn
  obtain ⟨⟨phase, due⟩, event⟩ := rest
  generalize ht : strobeAt s.tb (s.tb.strobe + 1) = instant
  have fell : strobeInstant s = some instant := by simp [strobeInstant, waitingStrobes, event, hm, hn, ht]
  generalize hw : waitUntil instant (waitUntil instant s) = w
  generalize hu : ({ w with tb := { w.tb with strobe := w.tb.strobe + 1 } } : State) = u
  obtain ⟨links, h, hl⟩ := foldr_strobeLink u allLinks (by decide)
  have step : microStep .strobe (waitUntil instant s) = allLinks.foldr strobeLink u := by
    simp [strobeStep, ht, ← hu, ← hw]
  have strobe : u.tb.strobe = s.tb.strobe + 1 := by simp [← hu, ← hw]
  have link : ∀ l, u.link l = s.link l := fun l => by
    rw [← hu, ← hw]
    exact (link_waitUntil ..).trans (link_waitUntil ..)
  have drops : (allLinks.foldr strobeLink u).due = (allLinks.filter (silent u)).map (fun l => .drop l .silence) := by
    rw [h]
    simp [← hu, ← hw, due]
  have done : exec .sampleStrobe s = .next (allLinks.foldr strobeLink u) := by
    show Host.Outcome.next _ = _
    rw [fromTimer_quiet strobeInstant _ s instant phase due fell]
    simp only [orDefer, waitUntil_event, event]
    rw [advance_pushDue_one .strobe _ (by simp [due]) rfl ?_, step]
    rw [step, drops]
    intro d hd t
    obtain ⟨l, -, rfl⟩ := List.mem_map.mp (List.mem_of_mem_head? hd)
    rfl
  have all : ∀ l : Fin 4, l ∈ allLinks := by decide
  refine ⟨_, done, ?_, ?_, fun l hs => ?_, fun l hs => ?_, ?_, ?_⟩
  · rw [h]; exact strobe
  · rw [h]
    show u.tick = _
    rw [← hu, ← hw]
    show (waitUntil instant (waitUntil instant s)).tick = _
    rw [waitUntil_instant, waitUntil_instant, ← ht]
    simp only [strobeAt, strobeTick, ceilDiv]
    omega
  · rw [h]
    refine (hl l).trans ?_
    simp [all, strobedLink, link, hs]
  · rw [h]
    refine (hl l).trans ?_
    simp [all, strobedLink, link, hs, strobe, fillZero, zeroSlot, substSample]
  · rw [drops]
    have heard : silent u = fun l : Fin 4 => (s.link l).state = .running &&
        decide (64 ≤ (s.link l).failRun + (s.tb.strobe + 1 - (s.link l).slots.length)) := by
      funext l
      simp only [silent, link, strobe]
    rw [heard]
    rfl
  · rw [h]
    simp [← hu, ← hw]

end Sys2Proof.Machine
end

section
/-! PROOF. Channels: correction (O23), their numbers (O24), offsets and idle windows (O25), STUCK and NORMAL (O26). -/

namespace Sys2Proof.Machine

/-! ## Correction -/

/-- What rounding half away from zero leaves, with the sign on which the half is not reached. -/
theorem roundHalfAway_error (n : Int) (d : Nat) (h : d = 32768) : ∃ e : Int, n = 32768 * roundHalfAway n d + e ∧
    -16384 ≤ e ∧ e ≤ 16384 ∧ (0 ≤ n → e ≠ 16384) ∧ (n < 0 → e ≠ -16384) := by
  subst h
  refine ⟨n - 32768 * roundHalfAway n 32768, by omega, ?_⟩
  simp only [roundHalfAway]
  split_ifs <;> omega

theorem clampInt_eq_self_iff (lo hi v : Int) : clampInt lo hi v = v ↔ lo ≤ v ∧ v ≤ hi := by
  unfold clampInt
  split_ifs <;> omega

/-- Settles O23: the error of `roundHalfAway`, and the clamp of R15 with the saturation that R16 asks of. -/
theorem correctionIsExactAndBounded : Obligations.CorrectionIsExactAndBounded := by
  intro o raw g flag
  obtain ⟨low, high⟩ := clampInt_range (-32767) 32767 (correctedExact o g raw) (by omega)
  have kept := clampInt_eq_self_iff (-32767) 32767 (correctedExact o g raw)
  refine ⟨low, high, fun h => ?_, fun h => ?_, fun h h' => kept.mpr ⟨h, h'⟩, roundHalfAway_error _ _ rfl, ?_⟩
  · simp [corrected, clampInt, h]
  · have : ¬ correctedExact o g raw < -32767 := by omega
    simp [corrected, clampInt, h, this]
  · have saturated : corrected o g raw ≠ correctedExact o g raw ↔
        correctedExact o g raw < -32767 ∨ 32767 < correctedExact o g raw := by
      unfold corrected
      rw [ne_eq, kept]
      omega
    simp only [isClipped, Bool.or_eq_true, decide_eq_true_eq, saturated, or_assoc]

/-! ## Channel numbers -/

/-- R189: the parameters of a channel. -/
theorem paramValue_channel (s : State) (ch : Nat) (h : ch < 28) :
    paramValue s (64 + ch) = some (unsignedValue (flag (s.channel ch).stuck)) ∧
      paramValue s (96 + ch) = some (unsignedValue (s.channel ch).lastRms) ∧
      paramValue s (128 + ch) = some (unsignedValue (s.store.factory.gains.getD ch 32768)) ∧
      paramValue s (160 + ch) = some (signedValue (s.store.factory.offsets.getD ch 0)) ∧
      paramValue s (192 + ch) = some (unsignedValue (activeGain s ch)) ∧
      paramValue s (224 + ch) = some (signedValue (storedOffset (s.channel ch))) := by
  refine ⟨?_, ?_, ?_, ?_, ?_, ?_⟩ <;>
    simp (disch := omega) only [paramValue, if_pos, if_neg, Nat.add_sub_cancel_left]

/-- R22, R175: a CALIBRATE that meets its conditions begins. -/
theorem orderCalibrate_begins (f : InFlight) (s : State) (ch : Nat) (hch : param32 f.params 16 = ch) (h28 : ch < 28)
    (hr : runningHere s = true) (hc : (s.channel ch).calibration = none) (hs : (s.channel ch).stuck = false)
    (hl : (s.link (Fin.ofNat 4 (ch / 7))).state = .running) :
    orderCalibrate f s = s.setChannel ch { s.channel ch with
      calibration := some { entry := f.entry, firstWindow := s.tb.winNo, sum := 0 } } := by
  have bound : ¬ 27 < ch := by omega
  simp only [orderCalibrate, hch, bound, hr, hc, hs, hl]
  rfl

theorem runningHere_iff (s : State) :
    runningHere s = true ↔ ∃ ev, s.event = some ev ∧ ev.kind ≠ .tick ∧ ev.halting = false := by
  unfold runningHere atBoundary State.halting
  cases s.event <;> simp

theorem handOver_eq (s : State) (e : Fin 16) (f : InFlight) (h : s.inFlight e = some f) :
    handOver e s = carryOut f s := by
  simp [handOver, h]

theorem carryOut_calibrate (f : InFlight) (s : State) (h : f.kind = 9) : carryOut f s = orderCalibrate f s := by
  simp [carryOut, h]

/-- Settles O24: the numbers by division by seven, the parameters by `paramValue_channel`, a CALIBRATE by
`orderCalibrate_begins`. -/
theorem channelNumbers : Obligations.ChannelNumbers := by
  refine ⟨fun p hp c hc => ⟨rfl, ?_, fun p' hp' c' hc' h => ?_⟩, fun ch h => ?_, fun s ch h => ?_, ?_⟩
  · unfold channelOf; omega
  · unfold channelOf at h; omega
  · exact ⟨ch / 7, by omega, ch % 7, by omega, by unfold channelOf; omega⟩
  · obtain ⟨stuck, rest⟩ := paramValue_channel s ch h
    refine ⟨stuck.trans ?_, rest⟩
    cases (s.channel ch).stuck <;> rfl
  · rintro s e f ch hf rfl hk hch h28 hev hc hs hl
    rw [handOver_eq s _ f hf, carryOut_calibrate f s hk,
      orderCalibrate_begins f s ch hch h28 ((runningHere_iff s).mpr hev) hc hs hl]

/-! ## Offsets -/

/-- R17: while measuring a request waits. -/
theorem requestOffset_measuring (ch : Nat) (v : Int) (idle late : Bool) (s : State) (h : measuring s = true) :
    requestOffset ch v idle late s =
      s.setChannel ch { s.channel ch with request := some { value := v, idle := idle, late := late } } := by
  simp [requestOffset, h]

/-- R17: a PARAM_WRITE of the boundary that halts waits. -/
theorem requestOffset_halting (ch : Nat) (v : Int) (idle : Bool) (s : State) (h : s.halting = true) :
    requestOffset ch v idle true s =
      s.setChannel ch { s.channel ch with request := some { value := v, idle := idle, late := true } } := by
  simp [requestOffset, h]

/-- R17: any other request while measurement is halted takes effect at once. -/
theorem requestOffset_halted (ch : Nat) (v : Int) (idle late : Bool) (s : State) (hm : measuring s = false)
    (h : late = true → s.halting = false) : requestOffset ch v idle late s = takeOffset ch v idle s := by
  have now : (late && s.halting) = false := by
    cases late
    · rfl
    · exact h rfl
  simp [requestOffset, hm, now]

theorem halting_of_event (s : State) (ev : Event) (h : s.event = some ev) : s.halting = ev.halting := by
  simp [State.halting, h]

theorem halting_eq_false (s : State) (h : ∀ ev, s.event = some ev → ev.halting = false) : s.halting = false := by
  unfold State.halting
  split
  · next ev he => exact h ev he
  · rfl

/-- R17: a request that stands as its event ends while measurement is halted takes effect. -/
theorem channel_endEvent_halted (s : State) (ev : Event) (ch : Nat) (he : s.event = some ev)
    (hm : measuring s = false) (hch : ch < s.channels.length) :
    (endEvent s).channel ch = settleRequest false (s.channel ch) := by
  have halted : measuring { s with channels := s.channels.map (settleRequest (measuring s)) } = false := hm
  unfold endEvent
  split
  · next none => simp [he] at none
  · simp only [halted, Bool.false_eq_true, if_false]
    show (s.channels.map (settleRequest (measuring s))).getD ch {} = _
    rw [hm]
    simp [State.channel, List.getD_eq_getElem?_getD, hch]

/-- The part of an offset that has arrived, by its command. -/
theorem exec_offsetChangeEffect (s : State) (ch : Fin 28) (r : OffsetRequest) (ds : List Due)
    (hd : s.due = .offsetEffect ch :: ds) (hr : (s.channel ch.val).request = some r) :
    exec (.offsetChangeEffect ch) s =
      .next (advance (takeOffset ch.val r.value r.idle { s with due := ds })) := by
  have found : (State.channel { s with due := ds } ch.val).request = some r := hr
  show Host.Outcome.next _ = _
  rw [perform_front _ s _ ds hd (by simp [found]) (by simp)]
  simp [offsetEffect, found]

/-! ## Idle windows -/

theorem trackingOn_iff (s : State) : trackingOn s = true ↔ ∃ c, s.store.active = some c ∧ c.idleTracking = 1 := by
  unfold trackingOn
  cases s.store.active <;> simp

theorem idleReaches_iff (s : State) (ch : Fin 28) (isIdle : Bool) : idleReaches s ch isIdle = true ↔
    trackingOn s = true ∧ (s.channel ch.val).stuck = false ∧ isIdle = true ∧ 49 ≤ (s.channel ch.val).idleCount := by
  simp [idleReaches, and_assoc]

/-- R21: the 50th idle window requests the mean, clamped. -/
theorem idleStep_reached (ch : Fin 28) (isIdle : Bool) (mean : Int) (s : State) (h : idleReaches s ch isIdle = true) :
    idleStep ch isIdle mean s = requestOffset ch (clampInt (-2047) 2047 mean) true false
      (s.setChannel ch { s.channel ch.val with idleCount := 0 }) := by
  simp [idleStep, h]

/-- R21: an idle window before the 50th is counted. -/
theorem idleStep_counts (ch : Fin 28) (mean : Int) (s : State) (ht : trackingOn s = true)
    (hs : (s.channel ch.val).stuck = false) (h : (s.channel ch.val).idleCount < 49) :
    idleStep ch true mean s = s.setChannel ch { s.channel ch.val with idleCount := (s.channel ch.val).idleCount + 1 } := by
  have early : idleReaches s ch true = false := by
    rw [← Bool.not_eq_true, idleReaches_iff]
    omega
  simp [idleStep, early, ht, hs]

/-- R21: any other window leaves the count 0. -/
theorem idleStep_clears (ch : Fin 28) (isIdle : Bool) (mean : Int) (s : State)
    (h : (trackingOn s && !(s.channel ch.val).stuck && isIdle) = false) :
    idleStep ch isIdle mean s = s.setChannel ch { s.channel ch.val with idleCount := 0 } := by
  simp [idleStep, idleReaches, h]

/-- R17, R182: the gain and offset in use. -/
theorem configured_factory (s : State) (ch : Nat)
    (h : s.store.active = none ∨ ∃ c, s.store.active = some c ∧ (c.chan ch).useFactory = 1) :
    configuredOffset s.store ch = s.store.factory.offsets.getD ch 0 ∧
      activeGain s ch = s.store.factory.gains.getD ch 32768 := by
  obtain h | ⟨c, h, hf⟩ := h
  · simp [configuredOffset, activeGain, configuredGain, h]
  · simp [configuredOffset, activeGain, configuredGain, h, hf]

theorem configured_own (s : State) (ch : Nat) (c : Cfg) (h : s.store.active = some c) (hf : (c.chan ch).useFactory ≠ 1) :
    configuredOffset s.store ch = (c.chan ch).offset ∧ activeGain s ch = (c.chan ch).gain := by
  simp [configuredOffset, activeGain, configuredGain, h, hf]

/-- Settles O25: when a request takes effect, what an idle window does, and the values in use. -/
theorem offsetRequestsTakeEffect : Obligations.OffsetRequestsTakeEffect := by
  refine ⟨⟨exec_offsetChangeEffect, fun s ch v idle late h => requestOffset_measuring ch v idle late s h,
    fun s ch v idle late hm h => ?_, fun s ev ch v idle he hh => ?_, fun s ev ch r he hm hch hr => ?_⟩, ?_, ?_, ?_⟩
  · exact requestOffset_halted ch v idle late s hm fun hl => halting_eq_false s (h hl)
  · exact requestOffset_halting ch v idle s ((halting_of_event s ev he).trans hh)
  · rw [microStep_endEvent, channel_endEvent_halted s ev ch he hm hch]
    simp [settleRequest, hr]
  · intro s ch mean ds c hd ha ht hs hc
    have reached : idleReaches { s with due := ds } ch true = true :=
      (idleReaches_iff ..).mpr ⟨(trackingOn_iff _).mpr ⟨c, ha, ht⟩, hs, rfl, hc⟩
    show Host.Outcome.next _ = _
    rw [perform_front _ s _ ds hd (by simpa using reached) (by simp), microStep_idle, idleStep_reached _ _ _ _ reached]
    rfl
  · intro s ch b mean
    constructor
    · rintro c ha ht hs rfl hc
      exact idleStep_counts ch mean s ((trackingOn_iff s).mpr ⟨c, ha, ht⟩) hs hc
    · intro h
      refine idleStep_clears ch b mean s ?_
      obtain off | stuck | busy := h
      · have : trackingOn s = false := by
          rw [← Bool.not_eq_true, trackingOn_iff]
          rintro ⟨c, ha, ht⟩
          exact off c ha ht
        simp [this]
      · simp [stuck]
      · simp [busy]
  · intro s ch
    exact ⟨fun h => configured_factory s ch (.inl h), fun c h =>
      ⟨fun hf => configured_factory s ch (.inr ⟨c, h, hf⟩), configured_own s ch c h⟩⟩

/-! ## STUCK and NORMAL -/

theorem becomesStuck_iff (c : Channel) (clipped : Bool) :
    becomesStuck c clipped = true ↔ c.stuck = false ∧ clipped = true ∧ 199 ≤ c.clipRun := by
  simp [becomesStuck, and_assoc]

theorem becomesNormal_iff (c : Channel) (clipped : Bool) :
    becomesNormal c clipped = true ↔ c.stuck = true ∧ clipped = false ∧ 9 ≤ c.clearRun := by
  simp [becomesNormal, and_assoc]

theorem clipStep_stuck (ch : Fin 28) (clipped : Bool) (s : State) (h : becomesStuck (s.channel ch.val) clipped = true) :
    clipStep ch clipped s = enterStuck ch s := by
  simp [clipStep, h]

theorem clipStep_normal (ch : Fin 28) (clipped : Bool) (s : State)
    (h : becomesNormal (s.channel ch.val) clipped = true) : clipStep ch clipped s = leaveStuck ch s := by
  have not_stuck : becomesStuck (s.channel ch.val) clipped = false := by
    rw [← Bool.not_eq_true, becomesStuck_iff]
    rw [becomesNormal_iff] at h
    simp [h.1]
  simp [clipStep, h, not_stuck]

/-- R18, R19: any other window moves the runs alone. -/
theorem clipStep_moves (ch : Fin 28) (clipped : Bool) (s : State)
    (hs : becomesStuck (s.channel ch.val) clipped = false) (hn : becomesNormal (s.channel ch.val) clipped = false) :
    clipStep ch clipped s = s.setChannel ch { s.channel ch.val with
      clipRun := if clipped then (s.channel ch.val).clipRun + 1 else 0
      clearRun := if (s.channel ch.val).stuck then (if clipped then 0 else (s.channel ch.val).clearRun + 1)
        else (s.channel ch.val).clearRun } := by
  simp [clipStep, hs, hn]

theorem failCalibration_some (code : ResultCode) (ch : Nat) (s : State) (c : Calibration)
    (h : (s.channel ch).calibration = some c) : failCalibration code ch s =
      completeFail c.entry code (eventTime s) (s.setChannel ch { s.channel ch with calibration := none }) := by
  simp [failCalibration, h]

theorem failCalibration_none (code : ResultCode) (ch : Nat) (s : State) (h : (s.channel ch).calibration = none) :
    failCalibration code ch s = s := by
  simp [failCalibration, h]

/-- Settles O26: the two named cases of `clipStep`, the windows that move the runs alone, and the calibration that
ends. -/
theorem channelsGoStuckAndBack : Obligations.ChannelsGoStuckAndBack := by
  refine ⟨fun s ch ds hd hs hc => ?_, fun s ch ds hd hs hc => ?_, fun s ch b hs h => ?_, fun s ch b hs h => ?_,
    fun s ch => ⟨fun c h => failCalibration_some _ ch s c h, failCalibration_none _ ch s⟩⟩
  · have goes : becomesStuck (State.channel { s with due := ds } ch.val) true = true :=
      (becomesStuck_iff ..).mpr ⟨hs, rfl, hc⟩
    show Host.Outcome.next _ = _
    rw [perform_front _ s _ ds hd (by simp [goes]) (by simp [goes]), microStep_clip, clipStep_stuck _ _ _ goes]
    rfl
  · have goes : becomesNormal (State.channel { s with due := ds } ch.val) false = true :=
      (becomesNormal_iff ..).mpr ⟨hs, rfl, hc⟩
    show Host.Outcome.next _ = _
    rw [perform_front _ s _ ds hd (by simp [goes]) (by simp [goes]), microStep_clip, clipStep_normal _ _ _ goes]
    rfl
  · have stays : becomesStuck (s.channel ch.val) b = false := by
      rw [← Bool.not_eq_true, becomesStuck_iff]
      rintro ⟨-, rfl, run⟩
      simp at h
      omega
    have normal : becomesNormal (s.channel ch.val) b = false := by simp [becomesNormal, hs]
    rw [microStep_clip, clipStep_moves ch b s stays normal]
    simp [hs]
  · have stays : becomesNormal (s.channel ch.val) b = false := by
      rw [← Bool.not_eq_true, becomesNormal_iff]
      rintro ⟨-, rfl, run⟩
      simp at h
      omega
    have stuck : becomesStuck (s.channel ch.val) b = false := by simp [becomesStuck, hs]
    rw [microStep_clip, clipStep_moves ch b s stuck stays]
    simp [hs]

end Sys2Proof.Machine
end

section
/-! PROOF. How a CALIBRATE and a LINK_RESTART begin or fail, and how they end at boundaries (O53). -/

namespace Sys2Proof.Machine

/-! ## Parts of the state that stay -/

theorem setLink_self (s : State) (l : Fin 4) : s.setLink l (s.link l) = s := by
  have same : s.links.set l.val (s.link l) = s.links := by
    unfold State.link
    rcases Nat.lt_or_ge l.val s.links.length with lt | ge
    · rw [List.getD_eq_getElem _ _ lt, List.set_getElem_self]
    · rw [List.set_eq_of_length_le ge]
  unfold State.setLink
  rw [same]

theorem eventTime_of_event (s : State) (ev : Event) (h : s.event = some ev) : eventTime s = ev.tOld := by
  simp [eventTime, h]

/-! ## CALIBRATE (R175) -/

theorem orderCalibrate_badParam (f : InFlight) (s : State) (h : 27 < param32 f.params 16) :
    orderCalibrate f s = completeFail f.entry .badParam (eventTime s) s := by
  simp [orderCalibrate, h]

theorem orderCalibrate_notRunning (f : InFlight) (s : State) (h : param32 f.params 16 ≤ 27)
    (hr : runningHere s = false) : orderCalibrate f s = completeFail f.entry .badState (eventTime s) s := by
  simp [orderCalibrate, Nat.not_lt.mpr h, hr]

theorem orderCalibrate_busy (f : InFlight) (s : State) (h : param32 f.params 16 ≤ 27) (hr : runningHere s = true)
    (hc : (s.channel (param32 f.params 16)).calibration ≠ none) :
    orderCalibrate f s = completeFail f.entry .busy (eventTime s) s := by
  simp [orderCalibrate, Nat.not_lt.mpr h, hr, Option.isSome_iff_ne_none.mpr hc]

theorem orderCalibrate_badState (f : InFlight) (s : State) (h : param32 f.params 16 ≤ 27) (hr : runningHere s = true)
    (hc : (s.channel (param32 f.params 16)).calibration = none)
    (hs : (s.channel (param32 f.params 16)).stuck = true ∨
      (s.link (Fin.ofNat 4 (param32 f.params 16 / 7))).state ≠ .running) :
    orderCalibrate f s = completeFail f.entry .badState (eventTime s) s := by
  simp only [orderCalibrate, Nat.not_lt.mpr h, hr, hc]
  simpa using fun hn hl => absurd hl (hs.resolve_left (by simp [hn]))

/-! ## LINK_RESTART (R13, R176) -/

theorem carryOut_linkRestart (f : InFlight) (s : State) (h : f.kind = 10) : carryOut f s = orderLinkRestart f s := by
  simp [carryOut, h]

theorem orderLinkRestart_badParam (f : InFlight) (s : State) (h : 3 < param32 f.params 16) :
    orderLinkRestart f s = completeFail f.entry .badParam (eventTime s) s := by
  simp [orderLinkRestart, h]

/-- A LINK_RESTART on one of the four links, by what the link is at. -/
theorem orderLinkRestart_link (f : InFlight) (s : State) (l : Fin 4) (h : param32 f.params 16 = l.val) :
    orderLinkRestart f s =
      if (s.link l).restart.isSome then completeFail f.entry .busy (eventTime s) s
      else if (s.link l).state = .down then completeFail f.entry .badState (eventTime s) s
      else restartLink l f.entry s := by
  have known : ¬ 3 < l.val := by omega
  have same : Fin.ofNat 4 l.val = l := Fin.ext (Nat.mod_eq_of_lt l.isLt)
  simp only [orderLinkRestart, h, known, same, if_false]

/-- R13: the link as a restart leaves it. -/
def restartedLink (e : Fin 16) (k : Link) : Link :=
  { k with
    state := .seeking, failRun := 0, syncRun := 0, syncLast := none, lastGood := List.replicate 7 none
    runningAtStart := false, enteredAt := none, restart := some { entry := e, boundaries := 0 } }

theorem restartLink_seeking (l : Fin 4) (e : Fin 16) (s : State) (h : (s.link l).state = .seeking) :
    restartLink l e s = s.setLink l (restartedLink e (s.link l)) := by
  simp [restartLink, h, restartedLink]

/-- R13, R23: a restart of a RUNNING link fills its record up to c and ends the calibrations of its channels. -/
theorem restartLink_running (l : Fin 4) (e : Fin 16) (s : State) (h : (s.link l).state = .running) :
    ∃ cs, restartLink l e s =
      { s.setLink l (restartedLink e (fillLastGood (s.tb.strobe + 1) (s.link l))) with
        channels := cs
        orders := (failInTurn .badState (eventTime s) (calibrationEntries l s) s).orders } ∧
      ∀ ch, cs.getD ch {} = if ch / 7 = l.val then { s.channel ch with calibration := none } else s.channel ch := by
  obtain ⟨cs, hf, -, hc⟩ := failCalibrationsOf_eq l
    (s.setLink l (restartedLink e (fillLastGood (s.tb.strobe + 1) (s.link l))))
  have orders := failInTurn_congr .badState (eventTime s) (calibrationEntries l s)
    (s.setLink l (restartedLink e (fillLastGood (s.tb.strobe + 1) (s.link l)))) s rfl rfl rfl rfl
  refine ⟨cs, ?_, hc⟩
  rw [← orders]
  refine Eq.trans ?_ hf
  simp only [restartLink, h, if_true]
  rfl

theorem fillLastGood_length (n : Nat) (k : Link) : (fillLastGood n k).slots.length = max k.slots.length n := by
  simp only [fillLastGood, List.length_append, List.length_replicate]
  omega

/-! ## Restarts at boundaries (R14) -/

theorem restartExpires_iff (k : Link) : restartExpires k = true ↔
    ∃ r, k.restart = some r ∧ k.state = .seeking ∧ 49 ≤ r.boundaries := by
  unfold restartExpires
  cases k.restart <;> simp

theorem restartCheck_expires (l : Fin 4) (s : State) (r : Restart) (hr : (s.link l).restart = some r)
    (h : restartExpires (s.link l) = true) :
    restartCheck l s =
      completeFail r.entry .timeout (eventTime s) (s.setLink l { s.link l with restart := none }) := by
  simp [restartCheck, h, failRestart, hr]

theorem restartCheck_counts (l : Fin 4) (s : State) (h : restartExpires (s.link l) = false) :
    restartCheck l s = s.setLink l { s.link l with
      restart := (s.link l).restart.map (fun r => { r with boundaries := r.boundaries + 1 }) } := by
  simp [restartCheck, h]

/-! ## Calibrations at boundaries (R23) -/

theorem measures_iff (c : Calibration) (n : Nat) :
    c.measures n = true ↔ c.firstWindow ≤ n ∧ n < c.firstWindow + 5 := by
  simp [Calibration.measures]

theorem anySubstituted_iff (w : PointWindow) (pos : Nat) :
    anySubstituted w pos = true ↔ ∃ sl ∈ w.slots, (sl.ch.getD pos {}).good = false := by
  simp only [anySubstituted, List.any_eq_true, Bool.not_eq_true']

/-- The window of a point among those of the window that ended. -/
theorem find_point (points : List PointWindow) (w : PointWindow) (p : Nat) (hw : w ∈ points) (hp : w.point = p)
    (hu : ∀ w' ∈ points, w'.point = w.point → w' = w) : points.find? (fun q => q.point = p) = some w := by
  cases found : points.find? (fun q => q.point = p) with
  | none =>
    have := List.find?_eq_none.mp found w hw
    simp [hp] at this
  | some q =>
    have at_p : q.point = p := by simpa using List.find?_some found
    rw [hu q (List.mem_of_find?_eq_some found) (at_p.trans hp.symm)]

theorem calibrationCheck_eq (ch : Fin 28) (s : State) (d : DecompWindow) (c : Calibration) (w : PointWindow)
    (hd : s.spectral.decomposing = some d) (hc : (s.channel ch.val).calibration = some c)
    (hw : d.points.find? (fun p => p.point = ch.val / 7) = some w) :
    calibrationCheck ch s =
      if c.measures d.number && anySubstituted w (ch.val % 7) then failCalibration .badState ch s else s := by
  simp only [calibrationCheck, hd, hc, hw]

/-- Settles O53: the checks of the two orders in turn, and what ends them at a boundary. -/
theorem calibrationsAndRestarts : Obligations.CalibrationsAndRestarts := by
  refine ⟨?_, ?_, fun s l => ⟨fun r hr h => ?_, fun hr => ?_⟩, ?_⟩
  · rintro s e ds f ev n hd hf hev hn
    obtain rfl := inFlight_entry s e f hf
    change n = param32 f.params 16 at hn
    subst hn
    have time : eventTime { s with due := ds } = ev.tOld := eventTime_of_event _ ev hev
    have calibrate : ∀ t, f.kind = 9 → orderCalibrate f { s with due := ds } = t →
        exec (.calibrate f.entry) s = .next (advance t) := by
      rintro t hk rfl
      show Host.Outcome.next _ = _
      rw [perform_handsOver 9 s _ ds f hd hf hk (by decide) (by decide), carryOut_calibrate f _ hk]
    have restart : ∀ t, f.kind = 10 → orderLinkRestart f { s with due := ds } = t →
        exec (.linkRestart f.entry) s = .next (advance t) := by
      rintro t hk rfl
      show Host.Outcome.next _ = _
      rw [perform_handsOver 10 s _ ds f hd hf hk (by decide) (by decide), carryOut_linkRestart f _ hk]
    rw [← time]
    refine ⟨fun hk h => ?_, fun hk h hev' => ?_, fun hk h tick halts => ?_, fun hk h => ?_, fun hk l hl => ?_⟩
    · exact calibrate _ hk (orderCalibrate_badParam f _ h)
    · refine calibrate _ hk (orderCalibrate_notRunning f _ h ?_)
      rw [← Bool.not_eq_true, runningHere_iff]
      rintro ⟨ev', he, tick, halts⟩
      obtain rfl : ev = ev' := Option.some.inj (hev.symm.trans he)
      simp [tick, halts] at hev'
    · have runs : runningHere { s with due := ds } = true := (runningHere_iff _).mpr ⟨ev, hev, tick, halts⟩
      exact ⟨fun hc => calibrate _ hk (orderCalibrate_busy f _ h runs hc),
        fun hc hs => calibrate _ hk (orderCalibrate_badState f _ h runs hc hs),
        fun hc hs hl => calibrate _ hk (orderCalibrate_begins f _ _ rfl (Nat.lt_succ_of_le h) runs hc hs hl)⟩
    · exact restart _ hk (orderLinkRestart_badParam f _ h)
    · have order := orderLinkRestart_link f { s with due := ds } l hl
      refine ⟨fun hr => ?_, fun hr hs => ?_, fun hr hs => ?_, fun hr hs _ => ?_⟩
      · refine restart _ hk (order.trans (if_pos ?_))
        exact Option.isSome_iff_ne_none.mpr hr
      · have free : (State.link { s with due := ds } l).restart = none := hr
        exact restart _ hk (by rw [order, free]; exact if_pos hs)
      · have free : (State.link { s with due := ds } l).restart = none := hr
        have up : (State.link { s with due := ds } l).state ≠ .down := by
          show (s.link l).state ≠ .down
          simp [hs]
        have restarted := restartLink_seeking l f.entry { s with due := ds } hs
        rw [restartedLink, ← hs] at restarted
        exact restart _ hk (order.trans ((if_neg (by simp [free])).trans ((if_neg up).trans restarted)))
      · have free : (State.link { s with due := ds } l).restart = none := hr
        have up : (State.link { s with due := ds } l).state ≠ .down := by
          show (s.link l).state ≠ .down
          simp [hs]
        obtain ⟨cs, restarted, channels⟩ := restartLink_running l f.entry { s with due := ds } hs
        have here : (restartLink l f.entry { s with due := ds }).link l =
            restartedLink f.entry (fillLastGood (s.tb.strobe + 1) (s.link l)) := by
          rw [restarted]
          exact link_setLink_self { s with due := ds } l _ up
        have others : ∀ l' : Fin 4, l' ≠ l → (restartLink l f.entry { s with due := ds }).link l' = s.link l' := by
          intro l' hl'
          rw [restarted]
          exact link_setLink_of_ne { s with due := ds } l l' _ hl'
        refine ⟨_, restart _ hk (order.trans ((if_neg (by simp [free])).trans (if_neg up))), by rw [restarted]; rfl,
          by rw [here]; rfl, by rw [here]; rfl, by rw [here]; rfl, by rw [here]; rfl, by rw [here]; rfl, ?_,
          by rw [restarted]; rfl, ?_, ?_, others⟩
        · rw [here]
          exact fillLastGood_length ..
        · rw [restarted]
          exact channels
        · rw [restarted, time]
          exact failInTurn_congr .badState ev.tOld (calibrationEntries l s) { s with due := ds } s rfl rfl rfl rfl
  · intro s l r ds hd hr hs hb
    have expires : restartExpires (State.link { s with due := ds } l) = true :=
      (restartExpires_iff _).mpr ⟨r, hr, hs, hb⟩
    show Host.Outcome.next _ = _
    rw [perform_front _ s _ ds hd expires (by simp), microStep_restartCheck, restartCheck_expires l { s with due := ds } r hr expires]
    rfl
  · have early : restartExpires (s.link l) = false := by
      rw [← Bool.not_eq_true, restartExpires_iff]
      rintro ⟨r', hr', hs, hb⟩
      obtain rfl : r = r' := Option.some.inj (hr.symm.trans hr')
      simp [hs] at h
      omega
    rw [microStep_restartCheck, restartCheck_counts l s early, hr]
    rfl
  · have none_flies : restartExpires (s.link l) = false := by simp [restartExpires, hr]
    rw [microStep_restartCheck, restartCheck_counts l s none_flies]
    rw [hr, Option.map_none, ← hr, setLink_self]
  · intro s ch d c w hd hc hw hp hu
    have check := calibrationCheck_eq ch s d c w hd hc (find_point d.points w _ hw hp hu)
    refine ⟨fun h1 h2 hs => ?_, fun h => ?_⟩
    · rw [microStep_calibrationCheck, check, (measures_iff ..).mpr ⟨h1, h2⟩, (anySubstituted_iff ..).mpr hs]
      exact failCalibration_some _ _ s c hc
    · have stays : (c.measures d.number && anySubstituted w (ch.val % 7)) = false := by
        rw [← Bool.not_eq_true, Bool.and_eq_true, measures_iff, anySubstituted_iff]
        rintro ⟨⟨h1, h2⟩, sl, hm, hg⟩
        obtain h | h | h := h
        · omega
        · omega
        · exact absurd hg (by rw [h sl hm]; decide)
      rw [microStep_calibrationCheck, check, stays]
      rfl

end Sys2Proof.Machine
end

section
/-! PROOF. The end of a window: the crossings and the measured pace, the record that goes into decomposition, and the
halt (O17, O18). -/

namespace Sys2Proof.Machine

/-! ## Crossings (R35) -/

/-- The crossing of two consecutive samples, written out. -/
theorem crossing_toList (a b : EdgeSample) : (crossing a b).toList =
    if a.good = true ∧ b.good = true ∧ a.val < 0 ∧ 0 ≤ b.val then
      [a.instant + (2 * ((b.instant - a.instant) * (-a.val).toNat) + (b.val - a.val).toNat) /
        (2 * (b.val - a.val).toNat)]
    else [] := by
  simp only [crossing, Bool.and_eq_true, decide_eq_true_eq, and_assoc]
  split <;> rfl

/-- The crossings of a run of samples are those of its consecutive pairs. -/
theorem crossingsOf_eq : ∀ (samples : List EdgeSample) (x : Nat → EdgeSample),
    (∀ n < samples.length, samples[n]? = some (x n)) → crossingsOf samples =
      (List.range (samples.length - 1)).flatMap (fun n => (crossing (x n) (x (n + 1))).toList)
  | [], _, _ => rfl
  | [_], _, _ => rfl
  | a :: b :: rest, x, h => by
    have first : a = x 0 := by simpa using h 0 (by simp)
    have second : b = x 1 := by simpa using h 1 (by simp)
    have later := crossingsOf_eq (b :: rest) (fun n => x (n + 1)) fun n hn => by simpa using h (n + 1) (by simpa using hn)
    have pairs : (a :: b :: rest).length - 1 = (b :: rest).length - 1 + 1 := by simp
    rw [crossingsOf, later, pairs, List.range_succ_eq_map, List.flatMap_cons, List.flatMap_map, first, second]

/-- The crossings of a sample and a run of samples after it. -/
theorem crossingsOf_cons (e a : EdgeSample) (samples : List EdgeSample) (h : samples[0]? = some a) :
    crossingsOf (e :: samples) = (crossing e a).toList ++ crossingsOf samples := by
  cases samples with
  | nil => simp at h
  | cons b rest =>
    obtain rfl : b = a := by simpa using h
    rfl

/-- R35: the V1 sample of index `n` of a window. -/
def v1Sample (tb : Timebase) (k : Link) (n : Nat) : EdgeSample :=
  { good := ((k.slots.reverse.getD n { subst := false, ch := [] }).ch.getD 0 {}).good
    val := ((k.slots.reverse.getD n { subst := false, ch := [] }).ch.getD 0 {}).val
    instant := 256 * ((tb.winStart + n * tb.pace + 255) / 256) }

theorem v1Samples_length (w p : Nat) (slots : List Slot) : (v1Samples w p slots).length = slots.length := by
  simp [v1Samples]

theorem v1Samples_getElem? (tb : Timebase) (k : Link) (n : Nat) (h : n < k.slots.length) :
    (v1Samples tb.winStart tb.pace k.slots)[n]? = some (v1Sample tb k n) := by
  have placed : k.slots.reverse[n]? = some (k.slots.reverse.getD n { subst := false, ch := [] }) := by
    rw [List.getD_eq_getElem?_getD, List.getElem?_eq_getElem (by simpa using h), Option.getD_some]
  rw [v1Samples, List.getElem?_mapIdx, placed]
  rfl

/-- R35: the crossings of a window from index `j` on. -/
theorem crossingsOf_drop (tb : Timebase) (k : Link) (j : Nat) :
    crossingsOf ((v1Samples tb.winStart tb.pace k.slots).drop j) = (List.range (k.slots.length - 1 - j)).flatMap
      (fun n => (crossing (v1Sample tb k (j + n)) (v1Sample tb k (j + n + 1))).toList) := by
  have length : ((v1Samples tb.winStart tb.pace k.slots).drop j).length = k.slots.length - j := by
    rw [List.length_drop, v1Samples_length]
  rw [crossingsOf_eq _ (fun n => v1Sample tb k (j + n)), length, Nat.sub_right_comm]
  · rfl
  · intro n hn
    rw [List.getElem?_drop]
    exact v1Samples_getElem? tb k (j + n) (by omega)

theorem scanCrossings_stopped (tb : Timebase) (k : Link) (h : k.state ≠ .running) : scanCrossings tb k = [] := by
  cases hk : k.state <;> simp_all [scanCrossings]

theorem scanCrossings_entered (tb : Timebase) (k : Link) (j : Nat) (h : k.state = .running) (he : k.enteredAt = some j) :
    scanCrossings tb k = (crossingsOf ((v1Samples tb.winStart tb.pace k.slots).drop j)).filter
      (fun c => tb.prevWinStart ≤ c) := by
  simp [scanCrossings, h, he]

theorem scanCrossings_held (tb : Timebase) (k : Link) (h : k.state = .running) (he : k.enteredAt = none)
    (hr : k.runningAtStart = true) :
    scanCrossings tb k = (tb.crossings ++
      crossingsOf (k.prevV1.toList ++ v1Samples tb.winStart tb.pace k.slots)).filter (fun c => tb.prevWinStart ≤ c) := by
  simp [scanCrossings, h, he, hr]

/-- R35: the crossings of a whole window behind the last sample before it. -/
theorem crossingsOf_held (tb : Timebase) (k : Link) (h : 0 < k.slots.length) :
    crossingsOf (k.prevV1.toList ++ v1Samples tb.winStart tb.pace k.slots) =
      (match k.prevV1 with | some e => (crossing e (v1Sample tb k 0)).toList | none => []) ++
        (List.range (k.slots.length - 1)).flatMap
          (fun n => (crossing (v1Sample tb k n) (v1Sample tb k (n + 1))).toList) := by
  have whole := crossingsOf_drop tb k 0
  simp only [List.drop_zero, Nat.sub_zero, Nat.zero_add] at whole
  rw [← whole]
  cases k.prevV1 with
  | none => rfl
  | some e => exact crossingsOf_cons e _ _ (v1Samples_getElem? tb k 0 h)

/-! ## Measured pace and verdict (R36, R37) -/

theorem measuredPace_none (nom60 : Bool) (w : Nat) (crossings : List Nat)
    (h : crossings.length < cycles nom60 + 1 ∨ crossings.getD (crossings.length - 1) 0 < w) :
    measuredPace nom60 w crossings = none := by
  unfold measuredPace
  by_cases few : crossings.length < cycles nom60 + 1
  · simp only [few, if_true]
  · simp only [few, if_false, h.resolve_left few, if_true]

theorem measuredPace_some (nom60 : Bool) (w : Nat) (crossings : List Nat) (h1 : cycles nom60 + 1 ≤ crossings.length)
    (h2 : w ≤ crossings.getD (crossings.length - 1) 0) :
    measuredPace nom60 w crossings = some (roundHalfUp
      (crossings.getD (crossings.length - 1) 0 - crossings.getD (crossings.length - 1 - cycles nom60) 0)
      (windowLen nom60)) := by
  simp only [measuredPace, Nat.not_lt.mpr h1, Nat.not_lt.mpr h2, if_false]

theorem boundaryVerdict_pace (nom60 held : Bool) (pace : Option Nat) : (boundaryVerdict nom60 held pace).pace = pace := by
  unfold boundaryVerdict
  cases held <;> cases pace <;> simp
  split <;> rfl

theorem boundaryVerdict_noLink (nom60 : Bool) (pace : Option Nat) :
    (boundaryVerdict nom60 false pace).verdict = .noLink := rfl

theorem boundaryVerdict_fewCrossings (nom60 : Bool) : (boundaryVerdict nom60 true none).verdict = .fewCrossings := rfl

theorem boundaryVerdict_some (nom60 : Bool) (p : Nat) : (boundaryVerdict nom60 true (some p)).verdict =
    if p < paceMin nom60 ∨ paceMax nom60 < p then .outOfRange else .valid := by
  simp only [boundaryVerdict, Bool.not_true, Bool.false_eq_true, if_false, Bool.or_eq_true, decide_eq_true_eq]
  exact apply_ite Measured.verdict _ _ _

theorem linkHeld_iff (k : Link) :
    linkHeld k = true ↔ k.state = .running ∧ k.runningAtStart = true ∧ k.enteredAt = none := by
  simp [linkHeld, and_assoc]

/-! ## The record of a window (R24, R31, R46) -/

theorem windowClass_eq (running : Bool) (subst : Nat) (stuck : List Bool) :
    windowClass running subst (stuck.any (fun b => b)) =
      if running = false ∨ 256 ≤ subst then .missing else if 9 ≤ subst ∨ true ∈ stuck then .flagged else .clean := by
  simp [windowClass]

theorem pointWindow_cls (s : State) (p : Nat) : (pointWindow s p).cls =
    if (s.link (Fin.ofNat 4 p)).state ≠ .running ∨ 256 ≤ (pointWindow s p).subst then .missing
    else if 9 ≤ (pointWindow s p).subst ∨ true ∈ (pointWindow s p).stuck then .flagged else .clean := by
  refine (windowClass_eq _ _ _).trans ?_
  simp only [decide_eq_false_iff_not]
  rfl

theorem governing_of_cap (s : State) (cap : Captured) (h : s.spectral.cap = some cap) : governing s = cap := by
  simp [governing, h]

/-- R2, R24, R31: a window has ended at the event in hand, and nothing has followed of it. -/
def windowEnded (ev : Event) (s : State) : State :=
  { s with
    spectral := { s.spectral with decomposing := some (endingWindow ev s) }
    links := s.links.map (rollLink s.tb)
    channels := s.channels.map (fun c => { c with mark := false })
    tb := rollTimebase (endingCrossings s) s.tb }

theorem link_windowEnded (ev : Event) (s : State) (l : Fin 4) :
    (windowEnded ev s).link l = rollLink s.tb (s.link l) := getD_map_rollLink ..

theorem channel_windowEnded (ev : Event) (s : State) (ch : Nat) :
    (windowEnded ev s).channel ch = { s.channel ch with mark := false } := getD_map_unmark ..

/-- What is in flight at the end of a window is what was in flight before it. -/
theorem entries_windowEnded (ev : Event) (s : State) (l : Fin 4) :
    restartEntry l (windowEnded ev s) ++ calibrationEntries l (windowEnded ev s) =
      restartEntry l s ++ calibrationEntries l s := by
  simp only [restartEntry, calibrationEntries, Channel.calibrationEntry, link_windowEnded, channel_windowEnded,
    rollLink_restart]

/-- What the end of a window makes due where neither a calibration nor a restart is in flight. -/
theorem afterWindow_of_none (d : DecompWindow) (s : State) (hc : ∀ ch < 28, (s.channel ch).calibration = none)
    (hr : ∀ l, (s.link l).restart = none) : afterWindow d s =
      (allChannels.filter (fun ch => (s.channel ch.val).request.isSome)).map Due.offsetEffect ++
        d.points.flatMap (fun w => (List.range 7).map
          (fun pos => Due.clip (Fin.ofNat 28 (channelOf w.point pos)) (windowClipped w pos))) := by
  have no_calibration : allChannels.filter (fun ch => (s.channel ch.val).calibration.isSome) = [] :=
    List.filter_eq_nil_iff.mpr fun ch _ => by simp [hc ch.val ch.isLt]
  have no_restart : allLinks.filter (fun l => (s.link l).restart.isSome) = [] :=
    List.filter_eq_nil_iff.mpr fun l _ => by simp [hr l]
  rw [afterWindow, no_calibration, no_restart, List.map_nil, List.map_nil, List.nil_append, List.append_nil]

/-- R10, R14, R23, R31: the end of a window at the boundary that halts: the whole of what it leaves. -/
theorem closeWindow_halted (s : State) (ev : Event) (h : s.event = some ev) (hh : ev.halting = true) :
    ∃ links channels, closeWindow s = { s with
      spectral := { cap := none, decomposing := some (endingWindow ev s) }
      links := links, channels := channels
      orders := (failInTurn .badState ev.tOld
        (allLinks.flatMap (fun l => restartEntry l s ++ calibrationEntries l s)) s).orders
      tb := { rollTimebase (endingCrossings s) s.tb with freeTickAt := s.tick + 2000000 }
      port := { s.port with meas := .halted, intcause := s.port.intcause ||| (1#9 <<< 8) }
      due := (allChannels.filter (fun ch => (s.channel ch.val).request.isSome)).map Due.offsetEffect ++
        (endingWindow ev s).points.flatMap (fun w => (List.range 7).map
          (fun pos => Due.clip (Fin.ofNat 28 (channelOf w.point pos)) (windowClipped w pos))) ++ s.due } ∧
      links.length = s.links.length ∧
      (∀ l < s.links.length, links.getD l {} = linkDown (rollLink s.tb (s.links.getD l {}))) ∧
      channels.length = s.channels.length ∧
      (∀ ch < 28, channels.getD ch {} = { s.channel ch with mark := false, calibration := none }) := by
  obtain ⟨links, channels, halted, length, length', down, ended⟩ := haltRun_eq (windowEnded ev s)
  have links_length : links.length = s.links.length := length.trans (List.length_map _)
  have channel_ended : ∀ ch < 28, channels.getD ch {} = { s.channel ch with mark := false, calibration := none } :=
    fun ch hch => by rw [ended ch hch, channel_windowEnded]
  have link_down : ∀ l < s.links.length, links.getD l {} = linkDown (rollLink s.tb (s.links.getD l {})) :=
    fun l hl => by rw [down l (by simpa [windowEnded] using hl), windowEnded, getD_map_rollLink]
  have no_restart : ∀ l : Fin 4, (links.getD l.val {}).restart = none := fun l => by
    rcases Nat.lt_or_ge l.val s.links.length with lt | ge
    · rw [link_down l.val lt]
      rfl
    · rw [List.getD_eq_default _ _ (links_length ▸ ge)]
  have orders : (failInTurn .badState ev.tOld
      (allLinks.flatMap (fun l => restartEntry l (windowEnded ev s) ++ calibrationEntries l (windowEnded ev s)))
        (windowEnded ev s)).orders =
      (failInTurn .badState ev.tOld (allLinks.flatMap (fun l => restartEntry l s ++ calibrationEntries l s)) s).orders := by
    simp only [entries_windowEnded]
    exact failInTurn_congr .badState ev.tOld _ _ s rfl rfl rfl rfl
  have requests : allChannels.filter (fun ch => (channels.getD ch.val {}).request.isSome) =
      allChannels.filter (fun ch => (s.channel ch.val).request.isSome) :=
    List.filter_congr fun ch _ => by rw [channel_ended ch.val ch.isLt]
  refine ⟨links, channels, ?_, links_length, link_down, length'.trans (List.length_map _), channel_ended⟩
  have after := afterWindow_of_none (endingWindow ev s) (haltRun (windowEnded ev s))
    (fun ch hch => by rw [halted]; exact congrArg Channel.calibration (channel_ended ch hch))
    (fun l => by rw [halted]; exact no_restart l)
  rw [closeWindow_halting s (windowEnded ev s) ev h hh rfl, after, halted,
    eventTime_of_event (windowEnded ev s) ev h, orders, ← requests]
  rfl

/-- R46: the window that ends enters decomposition, at the boundary that halts too. -/
theorem closeWindow_decomposing (s : State) (ev : Event) (h : s.event = some ev) :
    (closeWindow s).spectral.decomposing = some (endingWindow ev s) := by
  cases halts : ev.halting with
  | true =>
    obtain ⟨links, channels, closed, -⟩ := closeWindow_halted s ev h halts
    rw [closed]
  | false => rw [closeWindow_eq s ev h halts]

/-- R6: the end of a window finds a RUNNING link short of samples. -/
theorem finishLink_running (s : State) (l : Fin 4) (h : (s.link l).state = .running) :
    finishLink l s =
      pushDue (if 64 ≤ (s.link l).failRun + (windowLen s.tb.nom60 - (s.link l).slots.length) then [.drop l .silence]
          else [])
        (s.setLink l { s.link l with
          failRun := (s.link l).failRun + (windowLen s.tb.nom60 - (s.link l).slots.length)
          slots := List.replicate (windowLen s.tb.nom60 - (s.link l).slots.length) (lastGoodSlot (s.link l)) ++
            (s.link l).slots }) := by
  rw [pushDue_ite]
  simp only [finishLink, h, dropRun, fillLastGood]

theorem finishLink_other (s : State) (l : Fin 4) (h : (s.link l).state ≠ .running) : finishLink l s = s := by
  cases hk : (s.link l).state <;> simp_all [finishLink]

/-- Settles O17: the record of the window, what follows it, and the crossings and the fill before it. -/
theorem windowEndHandsItsRecordOn : Obligations.WindowEndHandsItsRecordOn := by
  refine ⟨?_, ?_, ?_, ?_, ?_⟩
  · intro s ev o cap hev ho hcap
    have governs := governing_of_cap s cap hcap
    refine ⟨_, closeWindow_decomposing s ev hev, ?_, governs, rfl, ?_, ?_⟩
    · simp only [endingWindow, windowRecord, ho, paceFrequency]
    · rw [endingWindow, governs]
      exact (List.map_map ..).trans (List.map_id _)
    · intro w hw
      obtain ⟨p, -, rfl⟩ := List.mem_map.mp hw
      exact ⟨rfl, rfl, rfl, rfl, pointWindow_cls s p⟩
  · rintro s ev cap ref hev halts hcap rfl
    have reference : refLink s = s.link (Fin.ofNat 4 cap.cfg.refPoint) := by
      rw [refLink, governing_of_cap s cap hcap]
    have crossings : endingCrossings s = scanCrossings s.tb (s.link (Fin.ofNat 4 cap.cfg.refPoint)) := by
      rw [endingCrossings, reference]
    refine ⟨endingWindow ev s, endingVerdict s, s.links.map (rollLink s.tb), by simp [endingWindow, halts], ?_,
      by simp, ?_, ?_, ?_, ?_⟩
    · rw [closeWindow_eq s ev hev halts, crossings]
      rfl
    · rintro l - k rfl
      rw [getD_map_rollLink, rollLink_eq]
      rfl
    · rw [endingVerdict, boundaryVerdict_pace, crossings]
    · intro lost
      have held : linkHeld (s.link (Fin.ofNat 4 cap.cfg.refPoint)) = false := by
        rw [← Bool.not_eq_true, linkHeld_iff]
        rintro ⟨running, start, entered⟩
        obtain h | h | h := lost
        · exact h running
        · exact absurd (h.symm.trans start) (by decide)
        · exact h entered
      rw [endingVerdict, reference, held, boundaryVerdict_noLink]
    · intro running start entered
      have held := (linkHeld_iff _).mpr ⟨running, start, entered⟩
      rw [endingVerdict, boundaryVerdict_pace, reference, held]
      refine ⟨fun few => ?_, fun p measured => ?_⟩
      · rw [few, boundaryVerdict_fewCrossings]
      · rw [measured, boundaryVerdict_some]
        rfl
  · rintro nom60 w c n last crossings rfl rfl rfl
    exact ⟨measuredPace_none nom60 w crossings, measuredPace_some nom60 w crossings⟩
  · intro tb k x cross hx hcross
    obtain rfl : x = v1Sample tb k := funext hx
    obtain rfl : cross = fun a b => (crossing a b).toList :=
      funext fun a => funext fun b => (hcross a b).trans (crossing_toList a b).symm
    refine ⟨scanCrossings_stopped tb k, fun j running entered => ?_, fun running entered start some_placed => ?_⟩
    · rw [scanCrossings_entered tb k j running entered, crossingsOf_drop]
    · have held := scanCrossings_held tb k running entered start
      rw [crossingsOf_held tb k some_placed, ← List.append_assoc] at held
      exact held
  · rintro s l missing rfl
    exact ⟨finishLink_running s l, finishLink_other s l⟩

/-! ## The halt (R10, R34) -/

/-- R10: what the halt leaves of a link, its window's substitutions counted. -/
theorem linkDown_rollLink (tb : Timebase) (k : Link) : linkDown (rollLink tb k) = { k with
    state := .down, slots := [], failRun := 0, syncRun := 0, syncLast := none, lastGood := List.replicate 7 none
    runningAtStart := false, enteredAt := none, prevV1 := none, restart := none
    substituted := if k.state = .down then k.substituted
      else k.substituted + BitVec.ofNat 32 (substCount k.slots) } := by
  rw [rollLink_eq]
  split <;> rfl

/-- Settles O18: what the halt ends, and the lock machine that takes no step there. -/
theorem haltTakesEveryLinkDown : Obligations.HaltTakesEveryLinkDown := by
  refine ⟨fun s ev hev halts => ?_, ?_⟩
  · obtain ⟨links, channels, closed, length, down, length', ended⟩ := closeWindow_halted s ev hev halts
    refine ⟨endingWindow ev s, endingCrossings s, links, channels, _, by simp [endingWindow, halts], closed, length, ?_,
      length', ended, rfl⟩
    rintro l hl k rfl
    rw [down l hl, linkDown_rollLink]
    rfl
  · rintro s t ev hev halts rfl
    have halting : s.halting = true := by rw [State.halting, hev]; exact halts
    have step : lockStep s = requestIf (lockMoves s.tb.lock .acquire) .lock { s with tb := { s.tb with
        lock := .acquire, pace := nominalPace s.tb.nom60, steady := 0, hold := 0, crossings := []
        pendingVerdict := none, winLocked := false } } := by
      simp only [lockStep, halting, if_true, lockReset]
      rfl
    rw [microStep_lockStep, step]
    refine ⟨fun locked => ?_, fun unlocked => ?_⟩
    · rw [locked]
      rfl
    · have stays : lockMoves s.tb.lock .acquire = false := by simp [lockMoves, unlocked]
      rw [stays]
      rfl

end Sys2Proof.Machine
end

section
/-! SUPPORT. The operations that leave the timebase and the spectral unit as they are, said once for each. -/

namespace Sys2Proof.Machine

/-! ## Composition -/

/-- What each step of a fold leaves of the timebase and the spectral unit, the fold leaves. -/
theorem foldl_tb_spectral {α : Type} (f : State → α → State)
    (h : ∀ s a, (f s a).tb = s.tb ∧ (f s a).spectral = s.spectral) (l : List α) (s : State) :
    (l.foldl f s).tb = s.tb ∧ (l.foldl f s).spectral = s.spectral :=
  foldl_keeps (fun t => t.tb = s.tb ∧ t.spectral = s.spectral) f
    (fun t a ht => ⟨(h t a).1.trans ht.1, (h t a).2.trans ht.2⟩) l s ⟨rfl, rfl⟩

theorem onlyIf_tb_spectral (b : State → Bool) (f : State → State) (s : State)
    (h : (f s).tb = s.tb ∧ (f s).spectral = s.spectral) :
    (onlyIf b f s).tb = s.tb ∧ (onlyIf b f s).spectral = s.spectral := by
  unfold onlyIf
  split
  · exact h
  · exact ⟨rfl, rfl⟩

/-! ## Channels and links -/

@[simp] theorem requestOffset_tb_spectral (ch : Nat) (v : Int) (idle late : Bool) (s : State) :
    (requestOffset ch v idle late s).tb = s.tb ∧ (requestOffset ch v idle late s).spectral = s.spectral := by
  obtain ⟨c, h, -⟩ := requestOffset_spec ch v idle late s
  simp [h]

@[simp] theorem offsetEffect_tb_spectral (ch : Fin 28) (s : State) :
    (offsetEffect ch s).tb = s.tb ∧ (offsetEffect ch s).spectral = s.spectral := by
  unfold offsetEffect
  split <;> exact ⟨rfl, rfl⟩

@[simp] theorem failCalibration_tb_spectral (code : ResultCode) (ch : Nat) (s : State) :
    (failCalibration code ch s).tb = s.tb ∧ (failCalibration code ch s).spectral = s.spectral := by
  obtain ⟨cs, o, h, -⟩ := failCalibration_spec code ch s
  simp [h]

@[simp] theorem failCalibrationsOf_tb_spectral (l : Fin 4) (s : State) :
    (failCalibrationsOf l s).tb = s.tb ∧ (failCalibrationsOf l s).spectral = s.spectral :=
  foldl_tb_spectral _ (fun _ _ => failCalibration_tb_spectral ..) _ s

@[simp] theorem calibrationCheck_tb_spectral (ch : Fin 28) (s : State) :
    (calibrationCheck ch s).tb = s.tb ∧ (calibrationCheck ch s).spectral = s.spectral := by
  unfold calibrationCheck
  repeat' split
  all_goals simp

@[simp] theorem calibrationStep_tb_spectral (ch number n rms floor : Nat) (sum : Int) (s : State) :
    (calibrationStep ch number n rms floor sum s).tb = s.tb ∧
      (calibrationStep ch number n rms floor sum s).spectral = s.spectral := by
  obtain ⟨c, o, h, -⟩ := calibrationStep_spec ch number n rms floor sum s
  simp [h]

@[simp] theorem clipStep_tb_spectral (ch : Fin 28) (clipped : Bool) (s : State) :
    (clipStep ch clipped s).tb = s.tb ∧ (clipStep ch clipped s).spectral = s.spectral := by
  simp only [clipStep]
  split_ifs <;> simp [enterStuck, leaveStuck]

@[simp] theorem idleStep_tb_spectral (ch : Fin 28) (isIdle : Bool) (mean : Int) (s : State) :
    (idleStep ch isIdle mean s).tb = s.tb ∧ (idleStep ch isIdle mean s).spectral = s.spectral := by
  simp only [idleStep]
  split_ifs <;> simp

@[simp] theorem dropLink_tb_spectral (l : Fin 4) (reason : DropReason) (s : State) :
    (dropLink l reason s).tb = s.tb ∧ (dropLink l reason s).spectral = s.spectral := by
  simp [dropLink]

@[simp] theorem seekingFrame_tb_spectral (l : Fin 4) (bytes : List Byte) (s : State) :
    (seekingFrame l bytes s).tb = s.tb ∧ (seekingFrame l bytes s).spectral = s.spectral := by
  simp only [seekingFrame]
  split_ifs <;> simp

@[simp] theorem runningFrame_tb_spectral (l : Fin 4) (bytes : List Byte) (s : State) :
    (runningFrame l bytes s).tb = s.tb ∧ (runningFrame l bytes s).spectral = s.spectral := by
  simp only [runningFrame, framingErrorFrame, acceptFrame]
  split_ifs <;> simp

@[simp] theorem frameStep_tb_spectral (l : Fin 4) (bytes : List Byte) (s : State) :
    (frameStep l bytes s).tb = s.tb ∧ (frameStep l bytes s).spectral = s.spectral := by
  unfold frameStep
  split <;> simp

@[simp] theorem enterRunning_tb_spectral (l : Fin 4) (bytes : List Byte) (s : State) :
    (enterRunning l bytes s).tb = s.tb ∧ (enterRunning l bytes s).spectral = s.spectral := by
  unfold enterRunning
  simp only
  split <;> simp

@[simp] theorem strobeLink_tb_spectral (l : Fin 4) (s : State) :
    (strobeLink l s).tb = s.tb ∧ (strobeLink l s).spectral = s.spectral := by
  unfold strobeLink
  simp only
  split
  · simp
  · simp
  · split_ifs <;> simp

@[simp] theorem finishLink_tb_spectral (l : Fin 4) (s : State) :
    (finishLink l s).tb = s.tb ∧ (finishLink l s).spectral = s.spectral := by
  unfold finishLink
  simp only
  split
  · split_ifs <;> simp
  · simp

@[simp] theorem failRestart_tb_spectral (l : Fin 4) (code : ResultCode) (s : State) :
    (failRestart l code s).tb = s.tb ∧ (failRestart l code s).spectral = s.spectral := by
  obtain ⟨ls, o, h, -⟩ := failRestart_spec l code s
  simp [h]

@[simp] theorem restartCheck_tb_spectral (l : Fin 4) (s : State) :
    (restartCheck l s).tb = s.tb ∧ (restartCheck l s).spectral = s.spectral := by
  simp only [restartCheck]
  split_ifs <;> simp

@[simp] theorem restartLink_tb_spectral (l : Fin 4) (e : Fin 16) (s : State) :
    (restartLink l e s).tb = s.tb ∧ (restartLink l e s).spectral = s.spectral := by
  simp only [restartLink]
  split_ifs <;> simp

/-! ## Intervals, accounts and statistics -/

@[simp] theorem takeTariffStep_tb_spectral (s : State) :
    (takeTariffStep s).tb = s.tb ∧ (takeTariffStep s).spectral = s.spectral := by
  unfold takeTariffStep
  split <;> exact ⟨rfl, rfl⟩

@[simp] theorem takeIntervalEnd_tb_spectral (s : State) :
    (takeIntervalEnd s).tb = s.tb ∧ (takeIntervalEnd s).spectral = s.spectral := by
  unfold takeIntervalEnd
  repeat' split
  all_goals exact ⟨rfl, rfl⟩

@[simp] theorem applyDemandReset_tb_spectral (s : State) :
    (applyDemandReset s).tb = s.tb ∧ (applyDemandReset s).spectral = s.spectral :=
  foldl_tb_spectral _ (fun _ _ => by simp) _ _

@[simp] theorem openInterval_tb_spectral (afterStep : Bool) (s : State) :
    (openInterval afterStep s).tb = s.tb ∧ (openInterval afterStep s).spectral = s.spectral := by
  unfold openInterval
  split <;> exact ⟨rfl, rfl⟩

@[simp] theorem passClose_tb_spectral (cs : CauseSet) (t : Nat) (s : State) :
    (passClose cs t s).tb = s.tb ∧ (passClose cs t s).spectral = s.spectral := by
  unfold passClose
  split <;> exact ⟨rfl, rfl⟩

@[simp] theorem decideClose_tb_spectral (s : State) :
    (decideClose s).tb = s.tb ∧ (decideClose s).spectral = s.spectral := by
  unfold decideClose
  simp only
  repeat' split
  all_goals exact ⟨rfl, rfl⟩

@[simp] theorem closeEvent_tb_spectral (s : State) :
    (closeEvent s).tb = s.tb ∧ (closeEvent s).spectral = s.spectral := by
  unfold closeEvent
  split
  · simp only
    split_ifs <;> simp [commitTariff]
  · exact ⟨rfl, rfl⟩

@[simp] theorem statStart_tb_spectral (s : State) :
    (statStart s).tb = s.tb ∧ (statStart s).spectral = s.spectral := by
  unfold statStart statOpen
  repeat' split
  all_goals exact ⟨rfl, rfl⟩

@[simp] theorem settleTariff_tb_spectral (s : State) :
    (settleTariff s).tb = s.tb ∧ (settleTariff s).spectral = s.spectral := by
  unfold settleTariff
  simp only
  repeat' split
  all_goals simp [commitTariff]

@[simp] theorem settleInterval_tb_spectral (s : State) :
    (settleInterval s).tb = s.tb ∧ (settleInterval s).spectral = s.spectral := by
  unfold settleInterval
  simp only
  repeat' split
  all_goals simp

@[simp] theorem monitorStep_tb_spectral (m : Fin 4) (value : Nat) (eligible : Bool) (point index : Nat) (s : State) :
    (monitorStep m value eligible point index s).tb = s.tb ∧
      (monitorStep m value eligible point index s).spectral = s.spectral := by
  unfold monitorStep makeEvent enterEvent
  simp only
  repeat' split
  all_goals simp

@[simp] theorem monitorRestart_tb_spectral (m : Fin 4) (s : State) :
    (monitorRestart m s).tb = s.tb ∧ (monitorRestart m s).spectral = s.spectral := by
  unfold monitorRestart makeEvent enterEvent
  simp only
  split <;> simp

@[simp] theorem monitorEffect_tb_spectral (s : State) :
    (monitorEffect s).tb = s.tb ∧ (monitorEffect s).spectral = s.spectral := by
  unfold monitorEffect
  simp only
  split <;> exact ⟨rfl, rfl⟩

@[simp] theorem acctFinishStep_tb_spectral (s : State) :
    (acctFinishStep s).tb = s.tb ∧ (acctFinishStep s).spectral = s.spectral := by
  obtain ⟨a, f, d, h⟩ := acctFinishStep_spec s
  simp [h]

@[simp] theorem statFinishStep_tb_spectral (s : State) :
    (statFinishStep s).tb = s.tb ∧ (statFinishStep s).spectral = s.spectral := by
  obtain ⟨a, f, d, h⟩ := statFinishStep_spec s
  simp [h]

/-! ## Files -/

@[simp] theorem reportFile_tb_spectral (f : IntervalFile) (s : State) :
    (reportFile f s).tb = s.tb ∧ (reportFile f s).spectral = s.spectral := by
  obtain ⟨c, o, h⟩ := reportFile_spec f s
  simp [h]

@[simp] theorem beginTransit_tb_spectral (f : IntervalFile) (fromHeld : Bool) (s : State) :
    (beginTransit f fromHeld s).tb = s.tb ∧ (beginTransit f fromHeld s).spectral = s.spectral := ⟨rfl, rfl⟩

@[simp] theorem placeFile_tb_spectral (f : IntervalFile) (s : State) :
    (placeFile f s).tb = s.tb ∧ (placeFile f s).spectral = s.spectral := by
  unfold placeFile holdFile
  repeat' split
  all_goals simp

@[simp] theorem returnTransit_tb_spectral (quiet : Bool) (s : State) :
    (returnTransit quiet s).tb = s.tb ∧ (returnTransit quiet s).spectral = s.spectral := by
  unfold returnTransit
  split <;> simp

@[simp] theorem retryHeld_tb_spectral (s : State) :
    (retryHeld s).tb = s.tb ∧ (retryHeld s).spectral = s.spectral := by
  unfold retryHeld
  split <;> exact ⟨rfl, rfl⟩

@[simp] theorem ownerAnswer_tb_spectral (word : Word32) (s : State) :
    (ownerAnswer word s).tb = s.tb ∧ (ownerAnswer word s).spectral = s.spectral := by
  unfold ownerAnswer writeBody
  repeat' split
  all_goals simp

@[simp] theorem bodyAnswer_tb_spectral (s : State) :
    (bodyAnswer s).tb = s.tb ∧ (bodyAnswer s).spectral = s.spectral := by
  unfold bodyAnswer
  repeat' split
  all_goals exact ⟨rfl, rfl⟩

@[simp] theorem pageComplete_tb_spectral (s : State) :
    (pageComplete s).tb = s.tb ∧ (pageComplete s).spectral = s.spectral := by
  unfold pageComplete
  repeat' split
  all_goals simp

@[simp] theorem changeLayout_tb_spectral (s : State) :
    (changeLayout s).tb = s.tb ∧ (changeLayout s).spectral = s.spectral := by
  unfold changeLayout
  split <;> exact ⟨rfl, rfl⟩

@[simp] theorem completeFile_tb_spectral (seq : Word64) (s : State) :
    (completeFile seq s).tb = s.tb ∧ (completeFile seq s).spectral = s.spectral := by
  unfold completeFile
  repeat' split
  all_goals simp

/-! ## The sync line -/

@[simp] theorem endBurst_tb_spectral (s : State) :
    (endBurst s).tb = s.tb ∧ (endBurst s).spectral = s.spectral := by
  obtain ⟨ic, cs, event, h, -⟩ := burstAction_spec s.ic.decoder.pulses (modDecoder (fun d => { d with pulses := 0 }) s)
  simp [endBurst, h]

@[simp] theorem stuckLow_tb_spectral (s : State) :
    (stuckLow s).tb = s.tb ∧ (stuckLow s).spectral = s.spectral := ⟨rfl, rfl⟩

@[simp] theorem recover_tb_spectral (s : State) :
    (recover s).tb = s.tb ∧ (recover s).spectral = s.spectral := ⟨rfl, rfl⟩

theorem overdue_tb_spectral (at? : Option Nat) (f : State → State) (s : State)
    (h : (f s).tb = s.tb ∧ (f s).spectral = s.spectral) :
    (overdue at? f s).tb = s.tb ∧ (overdue at? f s).spectral = s.spectral := by
  unfold overdue
  repeat' split
  all_goals simp [h]

@[simp] theorem lineFall_tb_spectral (s : State) :
    (lineFall s).tb = s.tb ∧ (lineFall s).spectral = s.spectral := by
  unfold lineFall overdueHigh
  split
  · exact ⟨rfl, rfl⟩
  · simp [overdue_tb_spectral]

@[simp] theorem lineRise_tb_spectral (s : State) :
    (lineRise s).tb = s.tb ∧ (lineRise s).spectral = s.spectral := by
  unfold lineRise judgeLow lineHigh
  simp only
  repeat' split
  all_goals simp [overdue_tb_spectral]

/-! ## Configurations, parameters and orders -/

@[simp] theorem judgeBlock_tb_spectral (block : List Byte) (e : Fin 16) (s : State) :
    (judgeBlock block e s).tb = s.tb ∧ (judgeBlock block e s).spectral = s.spectral := by
  unfold judgeBlock makePending
  simp only
  repeat' split
  all_goals simp

@[simp] theorem pauseEvent_tb_spectral (s : State) :
    (pauseEvent s).tb = s.tb ∧ (pauseEvent s).spectral = s.spectral := ⟨rfl, rfl⟩

@[simp] theorem resumeEvent_tb_spectral (s : State) :
    (resumeEvent s).tb = s.tb ∧ (resumeEvent s).spectral = s.spectral := by
  unfold resumeEvent
  split <;> exact ⟨rfl, rfl⟩

@[simp] theorem takeOrders_tb_spectral (table : List Byte) (s : State) :
    (takeOrders table s).tb = s.tb ∧ (takeOrders table s).spectral = s.spectral := by
  obtain ⟨o, hr⟩ := resetCompletions_spec s
  obtain ⟨head, h⟩ := takeOrders_spec table s
  simp [h, hr]

@[simp] theorem captureSnapshot_tb_spectral (e : Fin 16) (s : State) :
    (captureSnapshot e s).tb = s.tb ∧ (captureSnapshot e s).spectral = s.spectral := by
  obtain ⟨o, ps, h⟩ := captureSnapshot_spec e s
  simp [h]

@[simp] theorem finishOrders_tb_spectral (s : State) :
    (finishOrders s).tb = s.tb ∧ (finishOrders s).spectral = s.spectral := by
  obtain ⟨o, ps, h⟩ := finishOrders_spec s
  simp [h]

@[simp] theorem readParam_tb_spectral (e : Fin 16) (n : Nat) (s : State) :
    (readParam e n s).tb = s.tb ∧ (readParam e n s).spectral = s.spectral := by
  unfold readParam readOffset completeRead
  simp only
  repeat' split
  all_goals simp

@[simp] theorem writeParam_tb_spectral (e : Fin 16) (n value : Nat) (s : State) :
    (writeParam e n value s).tb = s.tb ∧ (writeParam e n value s).spectral = s.spectral := by
  simp only [writeParam, writeOffset, writeSetting]
  split_ifs <;> simp

/-- Orders of every kind but SET_TIME leave the timebase and the spectral unit as they are. -/
theorem carryOut_tb_spectral (f : InFlight) (s : State) (h : f.kind ≠ 3) :
    (carryOut f s).tb = s.tb ∧ (carryOut f s).spectral = s.spectral := by
  have load : (orderLoadConfig f s).tb = s.tb ∧ (orderLoadConfig f s).spectral = s.spectral := by
    unfold orderLoadConfig
    split <;> simp
  have close : (orderCloseInterval f s).tb = s.tb ∧ (orderCloseInterval f s).spectral = s.spectral := by
    unfold orderCloseInterval
    split <;> simp
  have demand : (orderDemandReset f s).tb = s.tb ∧ (orderDemandReset f s).spectral = s.spectral := by
    unfold orderDemandReset
    split <;> simp
  have snapshot : (orderSnapshot f s).tb = s.tb ∧ (orderSnapshot f s).spectral = s.spectral := by
    simp only [orderSnapshot]
    split_ifs <;> simp
  have tariff : (orderTariffSet f s).tb = s.tb ∧ (orderTariffSet f s).spectral = s.spectral := by
    simp only [orderTariffSet, setTariff]
    split_ifs <;> simp
  have calibrate : (orderCalibrate f s).tb = s.tb ∧ (orderCalibrate f s).spectral = s.spectral := by
    simp only [orderCalibrate]
    split_ifs <;> simp
  have restart : (orderLinkRestart f s).tb = s.tb ∧ (orderLinkRestart f s).spectral = s.spectral := by
    simp only [orderLinkRestart]
    split_ifs <;> simp
  unfold carryOut orderParamRead orderParamWrite
  rw [if_neg h]
  split_ifs
  · exact load
  · exact close
  · exact demand
  · exact snapshot
  · simp
  · simp
  · exact tariff
  · exact calibrate
  · exact restart
  · simp

@[simp] theorem popQueue_tb_spectral (s : State) :
    (popQueue s).tb = s.tb ∧ (popQueue s).spectral = s.spectral := by simp [popQueue]

@[simp] theorem takenAnswered_tb_spectral (s : State) :
    (takenAnswered s).tb = s.tb ∧ (takenAnswered s).spectral = s.spectral := by
  unfold takenAnswered
  repeat' split
  all_goals simp

@[simp] theorem resultAnswered_tb_spectral (s : State) :
    (resultAnswered s).tb = s.tb ∧ (resultAnswered s).spectral = s.spectral := by
  unfold resultAnswered
  repeat' split
  all_goals simp

@[simp] theorem delivered_tb_spectral (s : State) :
    (delivered s).tb = s.tb ∧ (delivered s).spectral = s.spectral := by
  unfold delivered
  repeat' split
  all_goals simp

@[simp] theorem imageWritten_tb_spectral (e : Fin 16) (s : State) :
    (imageWritten e s).tb = s.tb ∧ (imageWritten e s).spectral = s.spectral := by
  unfold imageWritten
  split <;> simp

/-! ## The exchange port -/

@[simp] theorem beginScan_tb_spectral (s : State) :
    (beginScan s).tb = s.tb ∧ (beginScan s).spectral = s.spectral := by
  unfold beginScan
  split <;> exact ⟨rfl, rfl⟩

@[simp] theorem beginHeader_tb_spectral (s : State) :
    (beginHeader s).tb = s.tb ∧ (beginHeader s).spectral = s.spectral := by
  unfold beginHeader
  split <;> exact ⟨rfl, rfl⟩

@[simp] theorem headerFieldsAnswer_tb_spectral (s : State) :
    (headerFieldsAnswer s).tb = s.tb ∧ (headerFieldsAnswer s).spectral = s.spectral := by
  unfold headerFieldsAnswer
  repeat' split
  all_goals exact ⟨rfl, rfl⟩

@[simp] theorem updateCountAnswer_tb_spectral (s : State) :
    (updateCountAnswer s).tb = s.tb ∧ (updateCountAnswer s).spectral = s.spectral := by
  unfold updateCountAnswer
  repeat' split
  all_goals exact ⟨rfl, rfl⟩

@[simp] theorem faultSnapshots_tb_spectral (s : State) :
    (faultSnapshots s).tb = s.tb ∧ (faultSnapshots s).spectral = s.spectral :=
  foldl_tb_spectral _ (fun _ _ => by simp) _ _

@[simp] theorem enterFaulted_tb_spectral (kind : FaultKind) (dir : BusDir) (op : BusOp) (addr : Word64) (s : State) :
    (enterFaulted kind dir op addr s).tb = s.tb ∧ (enterFaulted kind dir op addr s).spectral = s.spectral := by
  have read (t : State) : (faultConfigRead t).tb = t.tb ∧ (faultConfigRead t).spectral = t.spectral := by
    unfold faultConfigRead
    split <;> simp
  have scan (t : State) : (abandonScan t).tb = t.tb ∧ (abandonScan t).spectral = t.spectral := by
    unfold abandonScan
    split <;> simp
  simp [enterFaulted, read, scan, dropWrites, recordFault]

@[simp] theorem accessError_tb_spectral (op : BusOp) (dir : BusDir) (off : Nat) (entry : Fin 16) (s : State) :
    (accessError op dir off entry s).tb = s.tb ∧ (accessError op dir off entry s).spectral = s.spectral := by
  unfold accessError
  repeat' split
  all_goals simp

@[simp] theorem writeExbase_tb_spectral (hi : Bool) (value : Word32) (s : State) :
    (writeExbase hi value s).tb = s.tb ∧ (writeExbase hi value s).spectral = s.spectral := by
  unfold writeExbase
  split <;> simp

@[simp] theorem writeControl_tb_spectral (run resume : Bool) (s : State) :
    (writeControl run resume s).tb = s.tb ∧ (writeControl run resume s).spectral = s.spectral := by
  obtain ⟨-, r, m, refused, cs, hw, -⟩ := writeRun_spec run s
  obtain ⟨x, head, hx, -⟩ := resumeExchange_spec (writeRun run s)
  unfold writeControl
  split
  · rw [hx, hw]; exact ⟨rfl, rfl⟩
  · rw [hw]; exact ⟨rfl, rfl⟩

@[simp] theorem scanAnswered_tb_spectral (table : List Byte) (s : State) :
    (scanAnswered table s).tb = s.tb ∧ (scanAnswered table s).spectral = s.spectral := by
  unfold scanAnswered
  repeat' split
  all_goals simp

@[simp] theorem blockAnswered_tb_spectral (block : List Byte) (s : State) :
    (blockAnswered block s).tb = s.tb ∧ (blockAnswered block s).spectral = s.spectral := by
  unfold blockAnswered
  repeat' split
  all_goals simp

@[simp] theorem orDefer_tb_spectral (d : Due) (s : State) :
    (orDefer d s).tb = s.tb ∧ (orDefer d s).spectral = s.spectral := by
  unfold orDefer
  split <;> exact ⟨rfl, rfl⟩

@[simp] theorem completeDecomposition_tb_spectral (s : State) :
    (completeDecomposition s).tb = s.tb ∧ (completeDecomposition s).spectral = s.spectral := by
  unfold completeDecomposition
  split <;> simp

@[simp] theorem abandonReads_tb_spectral (s : State) :
    (abandonReads s).tb = s.tb ∧ (abandonReads s).spectral = s.spectral := by
  unfold abandonReads
  simp only
  split <;> simp

end Sys2Proof.Machine
end

section
/-! SUPPORT. The lock machine (R38 to R43): one lemma for each row of its tables, and what a step can do. -/

namespace Sys2Proof.Machine

/-! ## The measured pace and the clamp (R39) -/

theorem validPace_of_valid {m : Measured} {p : Nat} (hv : m.verdict = .valid) (hp : m.pace = some p) :
    validPace m = some p := by simp [validPace, hv, hp]

theorem validPace_of_not_valid {m : Measured} (hv : m.verdict ≠ .valid) : validPace m = none := by simp [validPace, hv]

theorem validPace_eq_some (m : Measured) (p : Nat) : validPace m = some p ↔ m.verdict = .valid ∧ m.pace = some p := by
  simp [validPace]

theorem clampedPace_eq (prev p : Nat) :
    clampedPace prev p = max (prev - prev / 256) (min (prev + prev / 256) p) :=
  clampNat_eq _ _ _ (by simp only [slewBound]; omega)

/-- R39: a clamped pace lies within the slew bound. -/
theorem clampedPace_within (prev p : Nat) :
    clampedPace prev p ≤ prev + prev / 256 ∧ prev ≤ clampedPace prev p + prev / 256 := by
  rw [clampedPace_eq]; omega

/-- R39: so does a pace that deviates by no more. -/
theorem within_of_deviation (prev p : Nat) (h : deviation prev p ≤ prev / 256) :
    p ≤ prev + prev / 256 ∧ prev ≤ p + prev / 256 := by
  unfold deviation at h; omega

/-! ## The rows of the tables -/

section Rows

variable {tb : Timebase} {m : Measured} {p : Nat} (hm : tb.pendingVerdict = some m)

theorem lockNext_none (h : tb.pendingVerdict = none) : lockNext tb = tb := by simp [lockNext, h]

include hm

/-- R40: the third steady verdict in a row locks. -/
theorem lockNext_acquireLocks (hl : tb.lock = .acquire) (hp : validPace m = some p)
    (hd : deviation tb.pace p ≤ tb.pace / 2048) (hs : 3 ≤ tb.steady + 1) : lockNext tb = { tb with
      pendingVerdict := none, pace := clampedPace tb.pace p, steady := 0, lock := .locked } := by
  simp [lockNext, hm, hl, stepAcquire, hp, isSteady, hd, hs]

theorem lockNext_acquireSteady (hl : tb.lock = .acquire) (hp : validPace m = some p)
    (hd : deviation tb.pace p ≤ tb.pace / 2048) (hs : tb.steady + 1 < 3) : lockNext tb = { tb with
      pendingVerdict := none, pace := clampedPace tb.pace p, steady := tb.steady + 1 } := by
  simp [lockNext, hm, hl, stepAcquire, hp, isSteady, hd, Nat.not_le.mpr hs]

theorem lockNext_acquireUnsteady (hl : tb.lock = .acquire) (hp : validPace m = some p)
    (hd : tb.pace / 2048 < deviation tb.pace p) : lockNext tb = { tb with
      pendingVerdict := none, pace := clampedPace tb.pace p, steady := 0 } := by
  simp [lockNext, hm, hl, stepAcquire, hp, isSteady, Nat.not_le.mpr hd]

theorem lockNext_acquireLost (hl : tb.lock = .acquire) (hp : validPace m = none) : lockNext tb = { tb with
    pendingVerdict := none, steady := 0, lock := .holdover, hold := 1 } := by
  simp [lockNext, hm, hl, stepAcquire, hp]

/-- R41: in LOCKED a VALID verdict within the slew bound sets the pace, and one beyond it goes to ACQUIRE. -/
theorem lockNext_lockedWithin (hl : tb.lock = .locked) (hp : validPace m = some p)
    (hd : deviation tb.pace p ≤ tb.pace / 256) : lockNext tb = { tb with pendingVerdict := none, pace := p } := by
  simp [lockNext, hm, hl, stepLocked, hp, slewBound, hd]

theorem lockNext_lockedBeyond (hl : tb.lock = .locked) (hp : validPace m = some p)
    (hd : tb.pace / 256 < deviation tb.pace p) : lockNext tb = { tb with
      pendingVerdict := none, pace := clampedPace tb.pace p, lock := .acquire, steady := 0 } := by
  simp [lockNext, hm, hl, stepLocked, hp, slewBound, Nat.not_le.mpr hd]

theorem lockNext_lockedLost (hl : tb.lock = .locked) (hp : validPace m = none) : lockNext tb = { tb with
    pendingVerdict := none, lock := .holdover, hold := 1 } := by
  simp [lockNext, hm, hl, stepLocked, hp]

/-- R42: in HOLDOVER the 150th verdict in a row other than VALID goes to FREE. -/
theorem lockNext_holdoverFound (hl : tb.lock = .holdover) (hp : validPace m = some p) : lockNext tb = { tb with
    pendingVerdict := none, pace := clampedPace tb.pace p, lock := .acquire, steady := 0, hold := 0 } := by
  simp [lockNext, hm, hl, stepHoldover, hp]

theorem lockNext_holdoverHeld (hl : tb.lock = .holdover) (hp : validPace m = none) (hh : tb.hold + 1 < 150) :
    lockNext tb = { tb with pendingVerdict := none, hold := tb.hold + 1 } := by
  simp [lockNext, hm, hl, stepHoldover, hp, Nat.not_le.mpr hh]

theorem lockNext_holdoverExpires (hl : tb.lock = .holdover) (hp : validPace m = none) (hh : 150 ≤ tb.hold + 1) :
    lockNext tb = { tb with
      pendingVerdict := none, hold := 0, lock := .free, pace := nominalPace tb.nom60 } := by
  simp [lockNext, hm, hl, stepHoldover, hp, hh]

/-- R43: in FREE the pace is nominal, and a VALID verdict goes to ACQUIRE from there. -/
theorem lockNext_freeFound (hl : tb.lock = .free) (hp : validPace m = some p) : lockNext tb = { tb with
    pendingVerdict := none, lock := .acquire, steady := 0, pace := clampedPace (nominalPace tb.nom60) p } := by
  simp [lockNext, hm, hl, stepFree, hp]

theorem lockNext_freeStays (hl : tb.lock = .free) (hp : validPace m = none) : lockNext tb = { tb with
    pendingVerdict := none, pace := nominalPace tb.nom60 } := by
  simp [lockNext, hm, hl, stepFree, hp]

/-- What a lock step can do: one case for each row of the tables, with the steady and the hold count that it leaves. -/
theorem lockNext_cases : ∃ pace lock steady hold,
    lockNext tb = { tb with
      pendingVerdict := none, pace := pace, lock := lock, steady := steady, hold := hold } ∧
    (steady = tb.steady ∨ steady = 0 ∨ steady = tb.steady + 1 ∧ tb.steady + 1 < 3) ∧
    (hold = tb.hold ∨ hold = 0 ∨ hold = 1 ∨ hold = tb.hold + 1 ∧ tb.hold + 1 < 150) ∧
    (pace = tb.pace ∨ (∃ p, validPace m = some p ∧ pace = clampedPace tb.pace p) ∨
      (∃ p, validPace m = some p ∧ pace = p ∧ deviation tb.pace p ≤ tb.pace / 256) ∨
      (tb.lock = .free ∧ ∃ p, validPace m = some p ∧ pace = clampedPace (nominalPace tb.nom60) p) ∨
      (pace = nominalPace tb.nom60 ∧ lock = .free ∧ (tb.lock = .holdover ∨ tb.lock = .free))) := by
  cases hl : tb.lock with
  | acquire =>
    cases hp : validPace m with
    | none => exact ⟨_, _, _, _, lockNext_acquireLost hm hl hp, by simp⟩
    | some p =>
      rcases Nat.lt_or_ge (tb.pace / 2048) (deviation tb.pace p) with hd | hd
      · exact ⟨_, _, _, _, lockNext_acquireUnsteady hm hl hp hd, by simp⟩
      · rcases Nat.lt_or_ge (tb.steady + 1) 3 with hs | hs
        · exact ⟨_, _, _, _, lockNext_acquireSteady hm hl hp hd hs, by simp [hs]⟩
        · exact ⟨_, _, _, _, lockNext_acquireLocks hm hl hp hd hs, by simp⟩
  | locked =>
    cases hp : validPace m with
    | none => exact ⟨_, _, _, _, lockNext_lockedLost hm hl hp, by simp⟩
    | some p =>
      rcases Nat.lt_or_ge (tb.pace / 256) (deviation tb.pace p) with hd | hd
      · exact ⟨_, _, _, _, lockNext_lockedBeyond hm hl hp hd, by simp⟩
      · exact ⟨_, _, _, _, lockNext_lockedWithin hm hl hp hd, by simp [hd]⟩
  | holdover =>
    cases hp : validPace m with
    | none =>
      rcases Nat.lt_or_ge (tb.hold + 1) 150 with hh | hh
      · exact ⟨_, _, _, _, lockNext_holdoverHeld hm hl hp hh, by simp [hh]⟩
      · exact ⟨_, _, _, _, lockNext_holdoverExpires hm hl hp hh, by simp⟩
    | some p => exact ⟨_, _, _, _, lockNext_holdoverFound hm hl hp, by simp⟩
  | free =>
    cases hp : validPace m with
    | none => exact ⟨_, _, _, _, lockNext_freeStays hm hl hp, by simp [hl]⟩
    | some p => exact ⟨_, _, _, _, lockNext_freeFound hm hl hp, by simp⟩

end Rows

end Sys2Proof.Machine
end

section
/-! PROOF. Lock steps: the tables and the slew bound (O28), and the two named lock events of a boundary (O27). -/

namespace Sys2Proof.Machine

/-! ## The step of a boundary (R32, R38, R44) -/

theorem lockMoves_eq_false {a b : LockState} (h : a = .locked ↔ b = .locked) : lockMoves a b = false := by
  simp [lockMoves, h]

theorem lockMoves_eq_true {a b : LockState} (h : ¬(a = .locked ↔ b = .locked)) : lockMoves a b = true := by
  simpa [lockMoves, bne] using h

/-- A boundary that does not halt takes the lock step's outcome. -/
theorem lockStep_eq (s : State) (h : ∀ ev, s.event = some ev → ev.halting = false) :
    lockStep s = requestIf (lockMoves s.tb.lock (lockNext s.tb).lock) .lock { s with
      tb := { lockNext s.tb with winLocked := decide ((lockNext s.tb).lock = .locked) } } := by
  simp [lockStep, halting_eq_false s h]

theorem lockStep_stays (s : State) (h : ∀ ev, s.event = some ev → ev.halting = false)
    (hl : s.tb.lock = .locked ↔ (lockNext s.tb).lock = .locked) : lockStep s = { s with
      tb := { lockNext s.tb with winLocked := decide ((lockNext s.tb).lock = .locked) } } := by
  simp [lockStep_eq s h, lockMoves_eq_false hl, requestIf]

theorem lockStep_moves (s : State) (h : ∀ ev, s.event = some ev → ev.halting = false)
    (hl : ¬(s.tb.lock = .locked ↔ (lockNext s.tb).lock = .locked)) : lockStep s = request .lock { s with
      tb := { lockNext s.tb with winLocked := decide ((lockNext s.tb).lock = .locked) } } := by
  simp [lockStep_eq s h, lockMoves_eq_true hl, requestIf]

/-! ## The slew bound (R39, R43) -/

theorem lockNext_steady_le (tb : Timebase) (h : tb.steady ≤ 2) : (lockNext tb).steady ≤ 2 := by
  cases hm : tb.pendingVerdict with
  | none => rwa [lockNext_none hm]
  | some m =>
    obtain ⟨pace, lock, steady, hold, e, hs, -, -⟩ := lockNext_cases hm
    rw [e]
    show steady ≤ 2
    omega

/-- R39: a step leaves the pace within the slew bound, unless it enters FREE. -/
theorem lockNext_within (tb : Timebase) (hf : tb.lock = .free → tb.pace = nominalPace tb.nom60) :
    ((lockNext tb).pace ≤ tb.pace + tb.pace / 256 ∧ tb.pace ≤ (lockNext tb).pace + tb.pace / 256) ∨
      ((lockNext tb).lock = .free ∧ tb.lock = .holdover ∧ (lockNext tb).pace = nominalPace tb.nom60) := by
  have same : tb.pace ≤ tb.pace + tb.pace / 256 ∧ tb.pace ≤ tb.pace + tb.pace / 256 := by omega
  cases hm : tb.pendingVerdict with
  | none => rw [lockNext_none hm]; exact .inl same
  | some m =>
    obtain ⟨pace, lock, steady, hold, e, -, -, hp⟩ := lockNext_cases hm
    rw [e]
    rcases hp with rfl | ⟨p, -, rfl⟩ | ⟨p, -, rfl, hd⟩ | ⟨hl, p, -, rfl⟩ | ⟨rfl, rfl, hl | hl⟩
    · exact .inl same
    · exact .inl (clampedPace_within _ p)
    · exact .inl (within_of_deviation _ _ hd)
    · left
      show clampedPace (nominalPace tb.nom60) p ≤ _ ∧ _ ≤ clampedPace (nominalPace tb.nom60) p + _
      rw [← hf hl]
      exact clampedPace_within _ p
    · exact .inr ⟨rfl, hl, rfl⟩
    · left
      show nominalPace tb.nom60 ≤ _ ∧ _ ≤ nominalPace tb.nom60 + _
      rw [← hf hl]
      exact same

/-! ## The statements -/

/-- Settles O28: each row of the tables is a lemma of its own, the slew bound holds of every row but the entry to FREE,
and the step of a boundary takes the outcome of the row. -/
theorem lockStepFollowsItsTables : Obligations.LockStepFollowsItsTables := by
  refine ⟨fun tb m p => ⟨lockNext_none, ?_, lockNext_steady_le tb, ?_, ?_, ?_, rfl, clampedPace_eq ..⟩, lockNext_within,
    ?_, ?_⟩
  · intro hm hl
    exact ⟨fun hv hp => lockNext_acquireLocks hm hl (validPace_of_valid hv hp),
      fun hv hp => lockNext_acquireSteady hm hl (validPace_of_valid hv hp),
      fun hv hp => lockNext_acquireUnsteady hm hl (validPace_of_valid hv hp),
      fun hv => lockNext_acquireLost hm hl (validPace_of_not_valid hv)⟩
  · intro hm hl
    exact ⟨fun hv hp => lockNext_lockedWithin hm hl (validPace_of_valid hv hp),
      fun hv hp => lockNext_lockedBeyond hm hl (validPace_of_valid hv hp),
      fun hv => lockNext_lockedLost hm hl (validPace_of_not_valid hv)⟩
  · intro hm hl
    exact ⟨fun hv hp => lockNext_holdoverFound hm hl (validPace_of_valid hv hp),
      fun hv => lockNext_holdoverHeld hm hl (validPace_of_not_valid hv),
      fun hv => lockNext_holdoverExpires hm hl (validPace_of_not_valid hv)⟩
  · intro hm hl
    refine ⟨fun hv => lockNext_freeStays hm hl (validPace_of_not_valid hv), fun hv hp => ?_⟩
    rw [lockNext_freeFound hm hl (validPace_of_valid hv hp), clampedPace_eq]
  · rintro s t tb h rfl rfl
    exact ⟨lockStep_stays s h, lockStep_moves s h⟩
  · intro s m p h hl hm
    refine ⟨fun hv hp hd => ?_, fun hv => ?_⟩
    · have e := lockNext_lockedBeyond hm hl (validPace_of_valid hv hp) hd
      rw [microStep_lockStep, lockStep_moves s h (by simp [e, hl]), e]
      rfl
    · have e := lockNext_lockedLost hm hl (validPace_of_not_valid hv)
      rw [microStep_lockStep, lockStep_moves s h (by simp [e, hl]), e]
      rfl

theorem lockAcquires_iff (s : State) (h : ∀ ev, s.event = some ev → ev.halting = false) :
    lockAcquires s = true ↔ s.tb.lock = .acquire ∧ (lockNext s.tb).lock = .locked := by
  simp [lockAcquires, halting_eq_false s h]

theorem holdoverExpires_iff (s : State) (h : ∀ ev, s.event = some ev → ev.halting = false) :
    holdoverExpires s = true ↔ s.tb.lock = .holdover ∧ (lockNext s.tb).lock = .free := by
  simp [holdoverExpires, halting_eq_false s h]

/-- Settles O27: the third steady verdict is the row that locks, the 150th other than VALID the row that expires. -/
theorem lockEventsAtABoundary : Obligations.LockEventsAtABoundary := by
  refine ⟨fun s ds p hd h hl hs hm hp => ?_, fun s ds m hd h hl hh hm hv => ?_⟩
  · have e : lockNext s.tb = _ := lockNext_acquireLocks hm hl rfl hp (by omega)
    have acquires : lockAcquires { s with due := ds } = true := (lockAcquires_iff _ h).mpr ⟨hl, by rw [e]⟩
    show Host.Outcome.next (perform _ s) = _
    rw [perform_front _ s _ ds hd (by rw [named_lockStep, acquires]; rfl) acquires, microStep_lockStep,
      lockStep_moves { s with due := ds } h (by simp [e, hl])]
    simp only [e, clampedPace_eq]
    rfl
  · have e : lockNext s.tb = _ := lockNext_holdoverExpires hm hl (validPace_of_not_valid hv) (by omega)
    have expires : holdoverExpires { s with due := ds } = true := (holdoverExpires_iff _ h).mpr ⟨hl, by rw [e]⟩
    show Host.Outcome.next (perform _ s) = _
    rw [perform_front _ s _ ds hd (by rw [named_lockStep, expires, Bool.or_true]) expires, microStep_lockStep,
      lockStep_stays { s with due := ds } h (by simp [e, hl])]
    simp only [e]
    rfl

end Sys2Proof.Machine
end

section
/-! PROOF. Every step keeps the pace, and every verdict that may still set one, in the valid pace range (O59). -/

namespace Sys2Proof.Machine

/-! ## The pace of a timebase and the verdict of a window -/

/-- The timebase's part of the bounds on the pace. -/
def Timebase.paceSound (tb : Timebase) : Prop :=
  paceValid tb.nom60 tb.pace ∧ (∀ m, tb.pendingVerdict = some m → verdictSound tb.nom60 m) ∧ tb.steady ≤ 2 ∧ tb.hold ≤ 149

/-- The spectral unit's part: the verdict of the window in the decomposing half. -/
def Spectral.verdictSound (nom60 : Bool) (sp : Spectral) : Prop :=
  ∀ d m, sp.decomposing = some d → d.verdict = some m → Machine.verdictSound nom60 m

theorem paceSound_iff (s : State) : paceSound s ↔ s.tb.paceSound ∧ s.spectral.verdictSound s.tb.nom60 := by
  unfold paceSound Timebase.paceSound Spectral.verdictSound
  tauto

theorem nominalPace_valid (nom60 : Bool) : paceValid nom60 (nominalPace nom60) := by
  cases nom60 <;> simp [paceValid, paceMin, paceMax, nominalPace]

/-- R39: a pace clamped between two valid paces is valid. -/
theorem clampedPace_valid (nom60 : Bool) (prev p : Nat) (h : paceValid nom60 prev) (hp : paceValid nom60 p) :
    paceValid nom60 (clampedPace prev p) := by
  obtain ⟨lo, hi⟩ := h
  obtain ⟨plo, phi⟩ := hp
  rw [clampedPace_eq]
  exact ⟨by omega, by omega⟩

/-- R37: the tests of the boundary leave a VALID verdict only on a pace in the valid range. -/
theorem boundaryVerdict_sound (nom60 held : Bool) (pace : Option Nat) :
    verdictSound nom60 (boundaryVerdict nom60 held pace) := by
  intro hv p hp
  rw [boundaryVerdict_pace] at hp
  subst hp
  cases held with
  | false => simp [boundaryVerdict] at hv
  | true =>
    rw [boundaryVerdict_some] at hv
    split at hv
    · simp at hv
    · next h => exact ⟨by omega, by omega⟩

/-- R37: the amplitude test makes no verdict VALID and leaves the measured pace. -/
theorem amplitudeVerdict_sound (nom60 : Bool) (m : Measured) (g1 : Nat) (h : verdictSound nom60 m) :
    verdictSound nom60 (amplitudeVerdict m g1) := by
  unfold amplitudeVerdict
  split
  · intro hv; simp at hv
  · exact h

/-! ## What a timebase may take -/

theorem lockReset_sound (tb : Timebase) : (lockReset tb).paceSound :=
  ⟨nominalPace_valid _, by simp [lockReset], by simp [lockReset], by simp [lockReset]⟩

/-- R39 to R43: every row of the tables leaves a valid pace. -/
theorem lockNext_sound (tb : Timebase) (h : tb.paceSound) : (lockNext tb).paceSound := by
  cases hm : tb.pendingVerdict with
  | none => rwa [lockNext_none hm]
  | some m =>
    obtain ⟨valid, verdict, steady2, hold149⟩ := h
    have measured (p : Nat) (hp : validPace m = some p) : paceValid tb.nom60 p := by
      obtain ⟨hv, hp⟩ := (validPace_eq_some m p).mp hp
      exact verdict m hm hv p hp
    obtain ⟨pace, lock, steady, hold, e, hs, hh, hp⟩ := lockNext_cases hm
    rw [e]
    refine ⟨?_, by simp, ?_, ?_⟩
    · rcases hp with rfl | ⟨p, vp, rfl⟩ | ⟨p, vp, rfl, -⟩ | ⟨-, p, vp, rfl⟩ | ⟨rfl, -, -⟩
      · exact valid
      · exact clampedPace_valid _ _ _ valid (measured p vp)
      · exact measured _ vp
      · exact clampedPace_valid _ _ _ (nominalPace_valid _) (measured p vp)
      · exact nominalPace_valid _
    · show steady ≤ 2
      omega
    · show hold ≤ 149
      omega

theorem lockNext_nom60 (tb : Timebase) : (lockNext tb).nom60 = tb.nom60 := by
  cases hm : tb.pendingVerdict with
  | none => rw [lockNext_none hm]
  | some m => obtain ⟨_, _, _, _, e, -⟩ := lockNext_cases hm; rw [e]

/-! ## States -/

theorem paceSound_of_tb_spectral {s t : State} (e : t.tb = s.tb ∧ t.spectral = s.spectral) (h : paceSound s) :
    paceSound t := by
  unfold paceSound
  rwa [e.1, e.2]

/-- A discard leaves no verdict behind. -/
theorem paceSound_of_discard {s t : State} (htb : t.tb = s.tb) (hd : t.spectral.decomposing = none) (h : paceSound s) :
    paceSound t := by
  rw [paceSound_iff] at h ⊢
  rw [htb]
  exact ⟨h.1, by simp [Spectral.verdictSound, hd]⟩

theorem paceSound_elapse (n : Nat) (s : State) (h : paceSound s) : paceSound (elapse n s) := by
  obtain ⟨tb, e, rfl | rfl⟩ := elapse_spec n s <;> rw [e]
  · exact h
  · exact h

theorem paceSound_strobeStep (s : State) (h : paceSound s) : paceSound (strobeStep s) := by
  have waited := paceSound_elapse (strobeAt s.tb (s.tb.strobe + 1) - s.tick) s h
  simp only [strobeStep, allLinks, List.foldr]
  refine paceSound_of_tb_spectral (strobeLink_tb_spectral ..) ?_
  refine paceSound_of_tb_spectral (strobeLink_tb_spectral ..) ?_
  refine paceSound_of_tb_spectral (strobeLink_tb_spectral ..) ?_
  refine paceSound_of_tb_spectral (strobeLink_tb_spectral ..) ?_
  exact waited

theorem paceSound_haltRun (s : State) (h : paceSound s) : paceSound (haltRun s) := by
  obtain ⟨links, cs, e, -⟩ := haltRun_eq s
  rw [e]
  exact h

/-- R46: the window that ends hands over a verdict of the boundary, or none. -/
theorem paceSound_closeWindow (s : State) (h : paceSound s) : paceSound (closeWindow s) := by
  unfold closeWindow
  split
  · exact h
  · next ev _ =>
    have ended : (endingWindow ev s).verdict = none ∨ (endingWindow ev s).verdict = some (endingVerdict s) := by
      unfold endingWindow
      cases ev.halting <;> simp
    have rolled : paceSound { s with
        spectral := { s.spectral with decomposing := some (endingWindow ev s) }
        links := s.links.map (rollLink s.tb)
        channels := s.channels.map (fun c => { c with mark := false })
        tb := rollTimebase (endingCrossings s) s.tb } := by
      rw [paceSound_iff] at h ⊢
      refine ⟨h.1, fun d m hd hm => ?_⟩
      cases hd
      rcases ended with none | some
      · simp [none] at hm
      · rw [some] at hm
        cases hm
        exact boundaryVerdict_sound _ _ _
    simp only
    refine paceSound_of_tb_spectral ⟨rfl, rfl⟩ (s := if ev.halting then haltRun _ else _) ?_
    split
    · exact paceSound_haltRun _ rolled
    · exact rolled

theorem paceSound_lockStep (s : State) (h : paceSound s) : paceSound (lockStep s) := by
  rw [paceSound_iff] at h ⊢
  obtain ⟨tb, e, htb⟩ := lockStep_spec s
  have sound : tb.paceSound ∧ tb.nom60 = s.tb.nom60 := by
    subst htb
    split
    · exact ⟨lockReset_sound _, rfl⟩
    · exact ⟨lockNext_sound _ h.1, lockNext_nom60 _⟩
  rw [e, requestIf_tb, requestIf_spectral]
  exact ⟨sound.1, sound.2.symm ▸ h.2⟩

/-- R184: an activation moves the day-of-week offset and the crossing list, and no pace or verdict. -/
theorem paceSound_activate (cfg : Cfg) (e : Fin 16) (s : State) (h : paceSound s) : paceSound (activate cfg e s) := by
  have offsets (t : State) : ((List.range 28).foldl activateOffset t).tb = t.tb ∧
      ((List.range 28).foldl activateOffset t).spectral = t.spectral :=
    foldl_tb_spectral activateOffset (fun _ _ => ⟨rfl, rfl⟩) _ t
  have clock (t : State) (ht : paceSound t) : paceSound (activateClock cfg t) := by
    unfold activateClock
    split_ifs <;> exact ht
  have reference (old : Option Cfg) (t : State) (ht : paceSound t) : paceSound (activateReference old cfg t) := by
    unfold activateReference
    split_ifs <;> exact ht
  have layout (old : Option Cfg) (t : State) :
      (activateLayout old cfg t).tb = t.tb ∧ (activateLayout old cfg t).spectral = t.spectral := by
    unfold activateLayout
    split_ifs <;> simp
  have configured := paceSound_of_tb_spectral (offsets (activateStore cfg s)) h
  have laid := paceSound_of_tb_spectral (layout s.store.active _) (reference s.store.active _ (clock _ configured))
  unfold activate
  simp only
  exact paceSound_of_tb_spectral ⟨completeOk_tb .., completeOk_spectral ..⟩ laid

/-- R28: a SET_TIME moves the clock alone. -/
theorem paceSound_orderSetTime (f : InFlight) (s : State) (h : paceSound s) : paceSound (orderSetTime f s) := by
  unfold orderSetTime
  simp only
  split_ifs
  · exact paceSound_of_tb_spectral ⟨complete_tb .., complete_spectral ..⟩ h
  · have completed : ∀ v t, paceSound (completeOk f.entry v t s) := fun _ _ =>
      paceSound_of_tb_spectral ⟨complete_tb .., complete_spectral ..⟩ h
    unfold loadClock
    split
    · exact completed _ _
    · exact completed _ _

theorem paceSound_handOver (e : Fin 16) (s : State) (h : paceSound s) : paceSound (handOver e s) := by
  unfold handOver
  split
  · next f _ =>
    by_cases hk : f.kind = 3
    · have setTime : carryOut f s = orderSetTime f s := by simp [carryOut, hk]
      rw [setTime]
      exact paceSound_orderSetTime f s h
    · exact paceSound_of_tb_spectral (carryOut_tb_spectral f s hk) h
  · exact h

theorem paceSound_endEvent (s : State) (h : paceSound s) : paceSound (endEvent s) := by
  unfold endEvent
  split
  · exact h
  · simp only
    split
    · exact h
    · exact h

theorem forPositions_tb_spectral (specs : List PointSpectra) (positions : List Nat)
    (f : PointSpectra → Nat → State → State)
    (h : ∀ p pos s, (f p pos s).tb = s.tb ∧ (f p pos s).spectral = s.spectral) (s : State) :
    (forPositions specs positions f s).tb = s.tb ∧ (forPositions specs positions f s).spectral = s.spectral :=
  foldl_tb_spectral _ (fun s p => foldl_tb_spectral _ (fun s pos => h p pos s) positions s) specs s

/-- R37: the verdict of the window, with the amplitude test, becomes the pending one. -/
theorem paceSound_takeVerdict (d : DecompWindow) (results : List WinResult) (s : State) (h : paceSound s)
    (hd : ∀ m, d.verdict = some m → verdictSound s.tb.nom60 m) : paceSound (takeVerdict d results s) := by
  unfold takeVerdict
  split
  · exact h
  · next m hm =>
    rw [paceSound_iff] at h ⊢
    obtain ⟨⟨valid, -, steady, hold⟩, judged⟩ := h
    exact ⟨⟨valid, fun m' hm' => by cases hm'; exact amplitudeVerdict_sound _ m _ (hd m hm), steady, hold⟩, judged⟩

theorem paceSound_decompose (s : State) (h : paceSound s) : paceSound (decompose s) := by
  have rms (specs : List PointSpectra) (t : State) : (forPositions specs (List.range 7) takeRms t).tb = t.tb ∧
      (forPositions specs (List.range 7) takeRms t).spectral = t.spectral :=
    forPositions_tb_spectral specs _ takeRms (fun _ _ _ => ⟨rfl, rfl⟩) t
  have calibrations (d : DecompWindow) (specs : List PointSpectra) (t : State) :
      (forPositions specs (List.range 7) (takeCalibration d) t).tb = t.tb ∧
        (forPositions specs (List.range 7) (takeCalibration d) t).spectral = t.spectral :=
    forPositions_tb_spectral specs _ _ (fun _ _ _ => calibrationStep_tb_spectral ..) t
  have statistics (cfg : Cfg) (results : List WinResult) (t : State) :
      (statTakeWindow cfg results t).tb = t.tb ∧ (statTakeWindow cfg results t).spectral = t.spectral :=
    foldl_tb_spectral (fun (t : State) (r : WinResult) => modAcc r.point (takeResult t.stats.limits cfg r) t)
      (fun _ _ => ⟨rfl, rfl⟩) results t
  unfold decompose
  split
  · exact h
  · next d hd =>
    have cleared : paceSound { s with spectral := { s.spectral with decomposing := none } } :=
      paceSound_of_discard (s := s) rfl rfl h
    have measured := fun specs => paceSound_of_tb_spectral (rms specs _) cleared
    refine paceSound_of_tb_spectral (calibrations d _ _) (paceSound_of_tb_spectral (statistics ..) ?_)
    refine paceSound_of_tb_spectral ⟨rfl, rfl⟩ (paceSound_takeVerdict d _ _ (measured _) fun m hm => ?_)
    rw [(rms _ _).1]
    exact ((paceSound_iff s).mp h).2 d m hd hm

/-! ## Resets and the start of a run -/

theorem paceSound_freshState (nom60 : Bool) (phase : ResetPhase) (cause : ResetCause) (t : Nat) (s : State) :
    paceSound { freshState nom60 phase cause s with tick := t } :=
  (paceSound_iff _).mpr ⟨⟨nominalPace_valid _, by simp [freshState], by simp [freshState], by simp [freshState]⟩,
    by simp [Spectral.verdictSound, freshState]⟩

theorem paceSound_loadStep (stage : LoadStage) (cause : ResetCause) (words : Option (List Word32)) (s : State)
    (h : paceSound s) : paceSound (loadStep stage cause words s) := by
  cases stage <;> exact h

/-- R34: a run starts, like every halt and soft reset leaves it, at nominal pace without a verdict. -/
theorem paceSound_tickInstant (s : State) (h : paceSound s) : paceSound (tickInstant s) := by
  unfold tickInstant
  split
  · exact (paceSound_iff _).mpr ⟨lockReset_sound s.tb, ((paceSound_iff s).mp h).2⟩
  · exact h

theorem paceSound_softBlocks (s : State) : paceSound (softBlocks s) := by
  obtain ⟨accs, discarded⟩ := discardWindow_spec (returnTransit true (softOrders s))
  refine paceSound_of_tb_spectral ⟨pump_tb _, pump_spectral _⟩ ((paceSound_iff _).mpr ⟨lockReset_sound _, ?_⟩)
  intro d m hd
  have none : (softClose (discardWindow (returnTransit true (softOrders s)))).spectral = {} := by
    rw [softClose, (passClose_tb_spectral _ _ _).2, discarded]
  have hd' : (softClose (discardWindow (returnTransit true (softOrders s)))).spectral.decomposing = some d := hd
  simp [none] at hd'

theorem paceSound_accessTimeout (op : BusOp) (dir : BusDir) (off : Nat) (e : Fin 16) (s : State) (h : paceSound s) :
    paceSound (accessTimeout op dir off e s) := by
  unfold accessTimeout
  split
  · split
    · exact paceSound_of_tb_spectral (enterFaulted_tb_spectral ..) (paceSound_elapse _ s h)
    · exact h
  · exact h

/-! ## Every part and every act -/

theorem paceSound_part (d : Due) (s : State) (h : paceSound s) : paceSound (microStep d s) := by
  cases d with
  | strobe => exact paceSound_strobeStep s h
  | closeWindow => exact paceSound_closeWindow s h
  | lockStep => exact paceSound_lockStep s h
  | handOver e => exact paceSound_handOver e s h
  | activate cfg e => exact paceSound_activate cfg e s h
  | endEvent => exact paceSound_endEvent s h
  | decompose => exact paceSound_decompose s h
  | intervalEnd | tariffStep | clockCheck | timeoutCheck | demandApply | heldRetry | acctFinish | statFinish =>
    exact paceSound_of_tb_spectral (onlyIf_tb_spectral _ _ s (by simp [takeTimeout])) h
  | statReset | asOf _ => exact h
  | _ => exact paceSound_of_tb_spectral (by simp) h

theorem paceSound_keptByActs : KeptByActs paceSound where
  pending _ _ h := h
  due _ _ h := h
  part := paceSound_part
  time := paceSound_elapse
  deferred _ _ := paceSound_of_tb_spectral (by simp)
  tick := paceSound_tickInstant
  boundary _ _ h := h
  decomposition _ := paceSound_of_tb_spectral (by simp)
  scanReads _ _ := paceSound_of_tb_spectral (by simp)
  blockReads _ _ := paceSound_of_tb_spectral (by simp)
  image _ _ := paceSound_of_tb_spectral (by simp)
  takenWrite _ := paceSound_of_tb_spectral (by simp)
  resultWrite _ := paceSound_of_tb_spectral (by simp)
  delivery _ := paceSound_of_tb_spectral (by simp)
  headerWrite _ := paceSound_of_tb_spectral (by simp)
  countWrite _ := paceSound_of_tb_spectral (by simp)
  busError _ _ _ _ _ := paceSound_of_tb_spectral (by simp)
  busTimeout := paceSound_accessTimeout
  owner _ _ := paceSound_of_tb_spectral (by simp)
  body _ := paceSound_of_tb_spectral (by simp)
  page _ := paceSound_of_tb_spectral (by simp)
  base _ _ _ := paceSound_of_tb_spectral (by simp)
  control _ _ _ := paceSound_of_tb_spectral (by simp)
  causes _ _ h := h
  mask _ _ h := h
  level _ _ h := h
  fall _ := paceSound_of_tb_spectral (by simp)
  rise _ := paceSound_of_tb_spectral (by simp)
  stuck _ := paceSound_of_tb_spectral (by simp)
  recovery _ := paceSound_of_tb_spectral (by simp)
  burst _ := paceSound_of_tb_spectral (by simp)
  fresh nom60 phase cause t s _ := paceSound_freshState nom60 phase cause t s
  load := paceSound_loadStep
  reads _ := paceSound_of_tb_spectral (by simp)
  blocks s _ := paceSound_softBlocks s

/-- Settles O59: the lock machine sets only nominal, clamped or measured paces, a verdict is VALID only on a pace in the
valid range, and no other part or act moves the pace, the counts or a verdict. -/
theorem everyStepKeepsThePaceValid : Obligations.EveryStepKeepsThePaceValid :=
  fun s t h ht => paceSound_keptByActs.step s t h ht

end Sys2Proof.Machine
end

section
/-! PROOF. The clock: reference ticks (O2) and SET_TIME (O50). -/

namespace Sys2Proof.Machine

/-! ## Reference ticks (R26) -/

/-- R26: `n` ticks after `m` ticks are `m + n` ticks. -/
theorem Timebase.advance_advance (tb : Timebase) (m n : Nat) : (tb.advance m).advance n = tb.advance (m + n) := by
  have carries : ((tb.timeValue + (tb.subMs + m) / 10000) % 2 ^ 48 + ((tb.subMs + m) % 10000 + n) / 10000) % 2 ^ 48 =
      (tb.timeValue + (tb.subMs + (m + n)) / 10000) % 2 ^ 48 := by omega
  have counts : ((tb.subMs + m) % 10000 + n) % 10000 = (tb.subMs + (m + n)) % 10000 := by omega
  simp only [Timebase.advance, carries, counts]

theorem elapse_elapse (m n : Nat) (s : State) : elapse n (elapse m s) = elapse (m + n) s := by
  by_cases h : s.phase = .running
  · rw [elapse_running m s h, elapse_running (m + n) s h, elapse_running n _ (by exact h), Timebase.advance_advance,
      Nat.add_assoc]
  · rw [elapse_inReset m s h, elapse_inReset (m + n) s h, elapse_inReset n _ (by exact h), Nat.add_assoc]

/-- Settles O2: ticks add up, and a step without a command and with nothing due is one tick. -/
theorem referenceTicksRunTheClock : Obligations.ReferenceTicksRunTheClock := by
  refine ⟨fun s m n hp ht hs => ?_, fun s hq h => ?_⟩
  · rw [elapse_elapse, elapse_running n s hp]
    refine ⟨?_, ?_, ?_, rfl, rfl⟩
    · exact Nat.mod_lt _ (by decide)
    · exact Nat.mod_lt _ (by decide)
    · show (s.tb.timeValue + (s.tb.subMs + n) / 10000) % 2 ^ 48 * 10000 + (s.tb.subMs + n) % 10000 = _
      omega
  · have tick : step s = .next (elapse 1 (settle s)) := by simp [step, hq, idleStepAll]
    have carry : (if s.tb.subMs + 1 < 10000 then s.tb.timeValue else s.tb.timeValue + (s.tb.subMs + 1) / 10000) =
        s.tb.timeValue + (s.tb.subMs + 1) / 10000 := by
      split <;> omega
    rw [tick, settle_nil s h.2, elapse_running 1 s h.1, carry]
    rfl

/-! ## SET_TIME (R28, R169) -/

theorem carryOut_setTime (f : InFlight) (s : State) (h : f.kind = 3) : carryOut f s = orderSetTime f s := by
  simp [carryOut, h]

theorem orderSetTime_badParam (f : InFlight) (s : State) (h : 2 ^ 48 ≤ field f.params 0 8 ∨ 6 < field f.params 8 4) :
    orderSetTime f s = complete f.entry true .badParam 0 (eventTime s) s := by
  have bad : (2 ^ 48 ≤ param64 f.params 16 || 6 < param32 f.params 24) = true := by
    rw [Bool.or_eq_true, decide_eq_true_iff, decide_eq_true_iff]
    exact h
  simp only [orderSetTime, bad, if_true]
  rfl

/-- R28: the completion carries the standing time value, and the loaded one counts from the event's tick. -/
theorem orderSetTime_loads (f : InFlight) (s : State) (ev : Event) (he : s.event = some ev)
    (ht : field f.params 0 8 < 2 ^ 48) (ho : field f.params 8 4 ≤ 6) :
    orderSetTime f s = { complete f.entry false .ok (BitVec.ofNat 64 ev.tNew) ev.tOld s with
      event := some { ev with tNew := field f.params 0 8, timeSet := true }
      tb := { s.tb with
        timeValue := (field f.params 0 8 + (s.tick - ev.tick) / 10000) % 2 ^ 48
        subMs := (s.tick - ev.tick) % 10000
        dowOffset := field f.params 8 4 } } := by
  have good : (2 ^ 48 ≤ param64 f.params 16 || 6 < param32 f.params 24) = false := by
    rw [Bool.or_eq_false_iff, decide_eq_false_iff_not, decide_eq_false_iff_not]
    exact ⟨Nat.not_le.mpr ht, Nat.not_lt.mpr ho⟩
  have time := eventTime_of_event s ev he
  obtain ⟨o, completed⟩ := complete_orders_only f.entry false .ok (BitVec.ofNat 64 ev.tNew) ev.tOld s
  simp only [orderSetTime, good, he, time, completeOk, completed, loadClock, modEvent, Timebase.advance, Nat.zero_add]
  rfl

/-- Settles O50: the order at the front of what is due is carried out, and loads the clock or fails. -/
theorem setTimeLoadsTheClock : Obligations.SetTimeLoadsTheClock := by
  rintro s e ds f ev time off late hd hf hk he rfl rfl rfl
  have entry := inFlight_entry s e f hf
  have command : exec (.setTime e) s = .next (advance (orderSetTime f { s with due := ds })) := by
    rw [← carryOut_setTime f _ hk, ← perform_handsOver 3 s e ds f hd hf hk (by decide) (by decide)]
    rfl
  refine ⟨fun ht ho => ⟨_, rfl, ?_⟩, fun hbad => ?_⟩
  · rw [command, orderSetTime_loads f { s with due := ds } ev he ht ho, entry]
  · rw [command, orderSetTime_badParam f _ hbad, eventTime_of_event { s with due := ds } ev he, entry]

end Sys2Proof.Machine
end

section
/-! PROOF. The boundary that ends a window falls at its instant (O16). -/

namespace Sys2Proof.Machine

theorem strobeAt_elapse (m n : Nat) (s : State) : strobeAt (elapse m s).tb n = strobeAt s.tb n := by
  obtain ⟨tb, e, rfl | rfl⟩ := elapse_spec m s
  · rw [e]
  · rw [e]; rfl

theorem exec_windowBoundary (s : State) (h : atRest s) (hm : measuring s = true) :
    exec .windowBoundary s = .next (advance (reachBoundary (elapse 0 s))) := by
  obtain ⟨⟨phase, due⟩, event⟩ := h
  have instant : boundaryInstant s = some s.tick := by simp [boundaryInstant, hm, event]
  have now : waitUntil s.tick s = elapse 0 s := by rw [waitUntil, Nat.sub_self]
  show Host.Outcome.next (fromTimer boundaryInstant reachBoundary s) = _
  rw [fromTimer_quiet _ _ s s.tick phase due instant, now]

/-- R30, R47: a window whose strobes are all emitted and that no decomposition delays has nothing to bring about before
its boundary. -/
theorem beforeBoundary_of_complete (s : State) (hd : s.due = []) (hs : s.tb.strobe + 1 = windowLen s.tb.nom60)
    (hn : s.spectral.decomposing = none) : beforeBoundary s = s := by
  have emitted : windowLen s.tb.nom60 - 1 - s.tb.strobe = 0 := by omega
  simp [beforeBoundary, emitted, settle_nil s hd, hn]

/-- Settles O16: with nothing outstanding the boundary waits for its instant alone. -/
theorem windowBoundaryFallsAtItsInstant : Obligations.WindowBoundaryFallsAtItsInstant := by
  refine ⟨fun s h hm hs hn => ⟨_, rfl, ?_⟩, rfl, rfl, rfl, rfl⟩
  have waits : waitUntil (strobeAt s.tb (windowLen s.tb.nom60)) (elapse 0 s) =
      elapse (s.tb.runStart + (s.tb.winStart + windowLen s.tb.nom60 * s.tb.pace + 255) / 256 - s.tick) s := by
    rw [waitUntil, elapse_tick, elapse_elapse, Nat.zero_add]
    rfl
  rw [exec_windowBoundary s h hm, reachBoundary,
    beforeBoundary_of_complete (elapse 0 s) (by rw [elapse_due]; exact h.1.2) (by simpa using hs) (by simpa using hn),
    strobeAt_elapse, nom60_elapse, waits]
  generalize s.tb.runStart + (s.tb.winStart + windowLen s.tb.nom60 * s.tb.pace + 255) / 256 - s.tick = n
  simp [beginEvent, newEvent, boundaryDue, eventTail, allLinks]

end Sys2Proof.Machine
end

section
/-! SUPPORT. Free ticks and first boundaries: the instant of the event, its parts that have nothing to do, and its scan. -/

namespace Sys2Proof.Machine

/-! ## The instant (R33, R47) -/

theorem exec_freeTick (s : State) (h : atRest s) (hm : measuring s = false) :
    exec .freeTick s = .next (advance (reachTick (elapse (s.tb.freeTickAt - s.tick) s))) := by
  obtain ⟨⟨phase, due⟩, event⟩ := h
  have instant : freeTickInstant s = some s.tb.freeTickAt := by simp [freeTickInstant, hm, event]
  show Host.Outcome.next (fromTimer freeTickInstant reachTick s) = _
  rw [fromTimer_quiet _ _ s _ phase due instant]
  rfl

@[simp] theorem measuring_elapse (n : Nat) (s : State) : measuring (elapse n s) = measuring s := by simp [measuring]

/-- R47: the last decomposition of a run is bound to its boundary, and no passing of time moves it. -/
theorem haltedDeadline_elapse (n : Nat) (s : State) : haltedDeadline (elapse n s).tb =
    s.tb.runStart + (s.tb.winStart + windowLen s.tb.nom60 * nominalPace s.tb.nom60 + 255) / 256 := by
  obtain ⟨tb, e, rfl | rfl⟩ := elapse_spec n s
  · rw [e]; rfl
  · rw [e]; rfl

theorem overdueDecomposition_iff (s : State) (hm : measuring s = false) :
    overdueDecomposition s = true ↔ s.spectral.decomposing ≠ none ∧ haltedDeadline s.tb < s.tick := by
  simp [overdueDecomposition, hm, Option.isSome_iff_ne_none]

/-- A free tick instant that no overdue decomposition delays. -/
theorem exec_freeTick_onTime (s w : State) (h : atRest s) (hm : measuring s = false)
    (hw : w = elapse (s.tb.freeTickAt - s.tick) s)
    (hd : s.spectral.decomposing ≠ none → w.tick ≤
      s.tb.runStart + (s.tb.winStart + windowLen s.tb.nom60 * nominalPace s.tb.nom60 + 255) / 256) :
    exec .freeTick s = .next (advance (tickInstant w)) := by
  have onTime : overdueDecomposition w = false := by
    rw [Bool.eq_false_iff, Ne, overdueDecomposition_iff w (by rw [hw, measuring_elapse, hm]), hw, haltedDeadline_elapse,
      elapse_spectral]
    rintro ⟨some, late⟩
    have := hd some
    rw [hw] at this
    omega
  rw [exec_freeTick s h hm, ← hw, reachTick, onTime]
  rfl

theorem tick_of_free_tick (s : State) : (elapse (s.tb.freeTickAt - s.tick) s).tick = max s.tick s.tb.freeTickAt := by
  rw [elapse_tick]; omega

/-! ## Parts with nothing to do -/

/-- A part that is no row of the table and changes nothing, whatever else is due. -/
def idlePart (s : State) (d : Due) : Prop :=
  ∀ ds, named d { s with due := ds } = false ∧ microStep d { s with due := ds } = { s with due := ds }

theorem eq_with_due (s : State) (ds : List Due) (h : s.due = ds) : s = { s with due := ds } := by subst h; rfl

/-- Idle parts at the front of what is due go by. -/
theorem advanceFor_idleParts (s : State) (rest : List Due) : ∀ (ds : List Due) (n : Nat),
    (∀ d ∈ ds, idlePart s d) →
      advanceFor (n + ds.length) { s with due := ds ++ rest } = advanceFor n { s with due := rest }
  | [], _, _ => rfl
  | d :: ds, n, h => by
    obtain ⟨unnamed, nothing⟩ := h d (List.mem_cons_self ..) (ds ++ rest)
    refine (advanceFor_step (n + ds.length) { s with due := d :: (ds ++ rest) } d (ds ++ rest) rfl unnamed).trans ?_
    exact (congrArg (advanceFor (n + ds.length)) nothing).trans
      (advanceFor_idleParts s rest ds n fun e he => h e (List.mem_cons_of_mem _ he))

/-- A part that waits for a condition is idle without it. -/
theorem onlyIf_false (b : State → Bool) (f : State → State) (s : State) (h : b s = false) : onlyIf b f s = s := by
  simp [onlyIf, h]

/-- No monitor was written, and none waits for its restart. -/
def monitorsSettled (s : State) : Prop := ∀ k ∈ s.stats.monitors, k.dirty = false ∧ k.restartDue = false

theorem restartsDue_settled (s : State) (h : monitorsSettled s) : restartsDue s = [] := by
  have waits (m : Fin 4) : (s.monitor m).restartDue = false := by
    unfold State.monitor
    rcases Nat.lt_or_ge m.val s.stats.monitors.length with lt | ge
    · rw [List.getD_eq_getElem _ _ lt]
      exact (h _ (List.getElem_mem lt)).2
    · rw [List.getD_eq_default _ _ ge]
  simp [restartsDue, waits]

theorem monitorEffect_settled (s : State) (h : monitorsSettled s) : monitorEffect s = s := by
  have same : s.stats.monitors.map settingsEffect = s.stats.monitors :=
    (List.map_congr_left fun k hk => by simp [settingsEffect, (h k hk).1]).trans (List.map_id _)
  unfold monitorEffect
  simp only [same, restartsDue_settled s h]
  split <;> rfl

theorem idle_monitorEffect (s : State) (h : monitorsSettled s) : idlePart s .monitorEffect := fun ds =>
  ⟨by simpa [settingsWait] using fun k hk => (h k hk).1, monitorEffect_settled { s with due := ds } h⟩

theorem idle_scan (s : State) (h : canAccess s = false) : idlePart s .scan := fun ds =>
  ⟨rfl, by
    have unreached : canAccess { s with due := ds } = false := h
    simp [beginScan, unreached]⟩

theorem idle_header (s : State) (h : canAccess s = false) : idlePart s .header := fun ds =>
  ⟨rfl, by
    have unreached : canAccess { s with due := ds } = false := h
    simp [beginHeader, unreached]⟩

theorem idle_heldRetry (s : State) (h : canAccess s = false) : idlePart s .heldRetry := fun ds => by
  have none : canRetry { s with due := ds } = false := by
    show (canAccess s && _ && _ && _) = false
    simp [h]
  exact ⟨none, onlyIf_false _ _ _ none⟩

section Ticks

variable {s : State} {ev : Event} (he : s.event = some ev)
include he

theorem idle_intervalEnd (h : ev.intervalEnd = false) : idlePart s .intervalEnd := fun ds => by
  have none : intervalEndDue { s with due := ds } = false := by simp [intervalEndDue, he, h]
  exact ⟨none, onlyIf_false _ _ _ none⟩

theorem idle_tariffStep (h : ev.tariffStep = false) : idlePart s .tariffStep := fun ds => by
  have none : tariffStepDue { s with due := ds } = false := by simp [tariffStepDue, he, h]
  exact ⟨none, onlyIf_false _ _ _ none⟩

theorem idle_finishOrders (h : ev.finishing = []) : idlePart s .finishOrders := fun ds => by
  have same : ({ ev with finishing := [] } : Event) = ev := by rw [← h]
  refine ⟨rfl, ?_⟩
  simp only [microStep_finishOrders, finishOrders, he, h, modEvent, Option.map_some, List.foldl_nil, same]

/-- R91: no interval closes at a free tick. -/
theorem closable_tick (hk : ev.kind = .tick) (ds : List Due) : closable { s with due := ds } = none := by
  unfold closable
  simp only [he]
  split
  · simp_all
  · rfl

theorem idle_clockCheck (hk : ev.kind = .tick) : idlePart s .clockCheck := fun ds => by
  have none : clockArises { s with due := ds } = false := by rw [clockArises, closable_tick he hk]
  exact ⟨none, onlyIf_false _ _ _ none⟩

theorem idle_timeoutCheck (hk : ev.kind = .tick) : idlePart s .timeoutCheck := fun ds => by
  have none : timeoutArises { s with due := ds } = false := by rw [timeoutArises, closable_tick he hk]
  exact ⟨none, onlyIf_false _ _ _ none⟩

theorem idle_demandApply (hk : ev.kind = .tick) : idlePart s .demandApply := fun ds => by
  have none : demandApplies { s with due := ds } = false := by rw [demandApplies, closable_tick he hk]
  exact ⟨none, onlyIf_false _ _ _ none⟩

/-- R91, R100: the decision of a free tick is to evaluate the tariff. -/
theorem decideClose_tick (hk : ev.kind = .tick) (ds : List Due) :
    decideClose { s with due := ds } = { s with due := .settleTariff :: ds } := by
  have causes : decidedCauses { s with due := ds } = 0 := by rw [decidedCauses, closable_tick he hk]
  simp [decideClose, causes, pushDue]

theorem settleInterval_tick (hk : ev.kind = .tick) : settleInterval s = commitTariff s := by
  have event : (commitTariff s).event = some ev := he
  have settled : settleTariff s = commitTariff s := by simp [settleTariff, event, hk]
  simp [settleInterval, settled, event, hk]

end Ticks

/-- The end of an event while measurement is halted: no window begins, and requested offsets take effect. -/
theorem endEvent_halted (s : State) (ev : Event) (he : s.event = some ev) (hm : measuring s = false) :
    endEvent s = { s with
      event := none, due := replay ev.deferred ++ s.due
      channels := s.channels.map (settleRequest false), ic := { s.ic with lastTime := none } } := by
  have halted : measuring { s with channels := s.channels.map (settleRequest (measuring s)) } = false := hm
  unfold endEvent
  split
  · next none => simp [he] at none
  · next ev' he' =>
    obtain rfl : ev' = ev := by simpa [he] using he'.symm
    simp only [halted, Bool.false_eq_true, if_false]
    rw [hm]

theorem settleRequest_none (cs : List Channel) (measures : Bool) (h : ∀ c ∈ cs, c.request = none) :
    cs.map (settleRequest measures) = cs :=
  (List.map_congr_left fun c hc => by simp [settleRequest, h c hc]).trans (List.map_id _)

/-! ## The scan (R157, R158, R196) -/

theorem canAccess_iff (s : State) : canAccess s = true ↔ s.port.exchange = .online ∧ s.port.exbase ≠ 0 := by
  simp [canAccess]

theorem beginScan_reached (s : State) (h : canAccess s = true) : beginScan s = { s with
    port := { s.port with scan := some { base := s.port.exbase, issuedAt := s.tick } }
    event := s.event.map (fun ev => { ev with todo := s.due }), due := [] } := by
  simp [beginScan, h, pauseEvent, modEvent]

/-- A tick or first boundary with no monitor settings waiting, where the exchange area can be reached, comes to its
scan. -/
theorem advance_tickDue_reached (s : State) (hd : s.due = tickDue) (hm : monitorsSettled s) (hc : canAccess s = true) :
    advance s = { s with
      port := { s.port with scan := some { base := s.port.exbase, issuedAt := s.tick } }
      event := s.event.map (fun ev => { ev with todo := eventTail.drop 1 }), due := [] } := by
  obtain ⟨n, hn⟩ : ∃ n, fuelFor s = n + 4096 := ⟨_, Nat.add_comm ..⟩
  rw [advance, hn]
  conv_lhs => rw [eq_with_due s _ hd]
  refine (advanceFor_idleParts s eventTail [.monitorEffect] (n + 4095) ?_).trans ?_
  · simpa using idle_monitorEffect s hm
  · rw [advanceFor_step (n + 4094) _ .scan (eventTail.drop 1) rfl rfl]
    rw [microStep_scan, beginScan_reached _ (by exact hc), advanceFor_nil _ _ rfl]

/-- A tick with nothing pending, no monitor settings waiting and no offset requested, where the exchange area cannot be
reached, evaluates the tariff and ends. -/
theorem advance_tickDue_unreached (s : State) (ev : Event) (hd : s.due = tickDue) (he : s.event = some ev)
    (hk : ev.kind = .tick) (hi : ev.intervalEnd = false) (ht : ev.tariffStep = false) (hf : ev.finishing = [])
    (hw : ev.deferred = []) (hh : measuring s = false) (hm : monitorsSettled s) (hr : ∀ c ∈ s.channels, c.request = none)
    (hc : canAccess s = false) :
    advance s = { s with event := none, due := [], ic := { (commitTariff s).ic with lastTime := none } } := by
  have before : ∀ d ∈ [.monitorEffect, .scan, .intervalEnd, .tariffStep, .clockCheck, .timeoutCheck, .demandApply],
      idlePart s d := by
    simp only [List.forall_mem_cons]
    exact ⟨idle_monitorEffect s hm, idle_scan s hc, idle_intervalEnd he hi, idle_tariffStep he ht, idle_clockCheck he hk,
      idle_timeoutCheck he hk, idle_demandApply he hk, by simp⟩
  have after : ∀ d ∈ [.finishOrders, .heldRetry, .header], idlePart (commitTariff s) d := by
    simp only [List.forall_mem_cons]
    exact ⟨idle_finishOrders (s := commitTariff s) he hf, idle_heldRetry _ hc, idle_header _ hc, by simp⟩
  obtain ⟨n, hn⟩ : ∃ n, fuelFor s = n + 4096 := ⟨_, Nat.add_comm ..⟩
  rw [advance, hn]
  calc advanceFor (n + 4096) s
    _ = advanceFor (n + 4096) { s with due := tickDue } := by rw [← eq_with_due s _ hd]
    _ = advanceFor (n + 4089) { s with due := [.decide, .finishOrders, .heldRetry, .header, .endEvent] } :=
        advanceFor_idleParts s _ _ (n + 4089) before
    _ = advanceFor (n + 4088) { s with due := [.settleTariff, .finishOrders, .heldRetry, .header, .endEvent] } := by
        rw [advanceFor_step (n + 4088) _ .decide _ rfl rfl, microStep_decide]
        exact congrArg _ (decideClose_tick he hk _)
    _ = advanceFor (n + 4087) { commitTariff s with due := [.finishOrders, .heldRetry, .header, .endEvent] } := by
        rw [advanceFor_step (n + 4087) _ .settleTariff _ rfl rfl, microStep_settleTariff]
        exact congrArg _ (settleInterval_tick (s := { s with due := _ }) he hk)
    _ = advanceFor (n + 4084) { commitTariff s with due := [.endEvent] } :=
        advanceFor_idleParts (commitTariff s) _ _ (n + 4084) after
    _ = advanceFor (n + 4083) { s with
          event := none, due := [], ic := { (commitTariff s).ic with lastTime := none } } := by
        rw [advanceFor_step (n + 4083) _ .endEvent [] rfl rfl, microStep_endEvent,
          endEvent_halted _ ev (by exact he) (by exact hh), hw]
        exact congrArg _ (by simp [settleRequest_none _ false hr, commitTariff, replay])
    _ = _ := advanceFor_nil _ _ rfl

end Sys2Proof.Machine
end

section
/-! PROOF. A free tick while HALTED (O13). -/

namespace Sys2Proof.Machine

/-! ## The free tick (R33) -/

/-- R33: a free tick falls now, and the next one is 2,000,000 ticks away. -/
def tickBegun (s : State) : State :=
  beginEvent .tick false tickDue { s with tb := { s.tb with freeTickAt := s.tick + 2000000 } }

@[simp] theorem dowOffset_elapse (n : Nat) (s : State) : (elapse n s).tb.dowOffset = s.tb.dowOffset := by
  obtain ⟨tb, e, rfl | rfl⟩ := elapse_spec n s
  · rw [e]
  · rw [e]; rfl

theorem tickInstant_halted (s : State) (h : s.port.meas = .halted) : tickInstant s = tickBegun s := by
  simp [tickInstant, tickBegun, h]

theorem not_measuring_of_halted (s : State) (h : s.port.meas = .halted) : measuring s = false := by simp [measuring, h]

theorem not_canAccess_iff (s : State) : canAccess s = false ↔ s.port.exchange = .faulted ∨ s.port.exbase = 0 := by
  cases h : s.port.exchange <;> simp [canAccess, h]

theorem exec_freeTick_halted (s w : State) (h : atRest s) (hm : s.port.meas = .halted)
    (hw : w = elapse (s.tb.freeTickAt - s.tick) s)
    (hd : s.spectral.decomposing ≠ none → w.tick ≤
      s.tb.runStart + (s.tb.winStart + windowLen s.tb.nom60 * nominalPace s.tb.nom60 + 255) / 256) :
    exec .freeTick s = .next (advance (tickBegun w)) := by
  rw [exec_freeTick_onTime s w h (not_measuring_of_halted s hm) hw hd, tickInstant_halted w (by rw [hw, elapse_port, hm])]

/-- R47: an overdue decomposition completes before the tick. -/
theorem exec_freeTick_overdue (s w : State) (h : atRest s) (hm : measuring s = false)
    (hw : w = elapse (s.tb.freeTickAt - s.tick) s) (hs : s.spectral.decomposing ≠ none)
    (hd : s.tb.runStart + (s.tb.winStart + windowLen s.tb.nom60 * nominalPace s.tb.nom60 + 255) / 256 < w.tick) :
    exec .freeTick s = .next (advance (tickInstant (settle { w with due := [.decompose] }))) := by
  have overdue : overdueDecomposition w = true := by
    rw [overdueDecomposition_iff w (by rw [hw, measuring_elapse, hm])]
    subst hw
    rw [haltedDeadline_elapse, elapse_spectral]
    exact ⟨hs, hd⟩
  have due : pushDue [.decompose] w = { w with due := [.decompose] } := by
    rw [pushDue, hw, elapse_due, h.1.2]
    rfl
  rw [exec_freeTick s h hm, ← hw, reachTick, overdue, if_pos rfl, due]

/-- A free tick that reaches the exchange area comes to its scan. -/
theorem freeTick_reached (w : State) (hd : w.due = []) (hm : monitorsSettled w) (hc : canAccess w = true) :
    advance (tickBegun w) = { w with
      event := some { newEvent .tick false w with todo := eventTail.drop 1 }
      ic := { w.ic with pendingEnd := false, pendingStep := false }
      tb := { w.tb with freeTickAt := w.tick + 2000000 }
      port := { w.port with scan := some { base := w.port.exbase, issuedAt := w.tick } } } := by
  rw [advance_tickDue_reached (tickBegun w) rfl hm hc, hd]
  rfl

/-- A free tick with nothing pending that does not reach the exchange area evaluates the tariff. -/
theorem freeTick_unreached (w : State) (hd : w.due = []) (he : w.event = none) (hi : w.ic.pendingEnd = false)
    (ht : w.ic.pendingStep = false) (hh : measuring w = false) (hm : monitorsSettled w)
    (hr : ∀ c ∈ w.channels, c.request = none) (hc : canAccess w = false) (v : TariffView)
    (hv : v = evaluateTariff w.store { w.ic with pendingEnd := false, pendingStep := false } w.tb.dowOffset
      w.tb.timeValue false) :
    advance (tickBegun w) = { w with
      ic := { w.ic with lastTime := none, activeSlot := v.slot, forced := v.forced, governing := v.governing }
      tb := { w.tb with freeTickAt := w.tick + 2000000 } } := by
  rw [advance_tickDue_unreached (tickBegun w) (newEvent .tick false w) rfl rfl rfl hi ht rfl rfl hh hm hr hc,
    hd, he, hv]
  simp [commitTariff, tariffView, tickBegun, beginEvent, newEvent, hi, ht]

/-- Settles O13: the tick is an event whose parts have nothing to do up to its scan, or, where the exchange area cannot be
reached, but for its tariff evaluation. -/
theorem freeTickScansWhileHalted : Obligations.FreeTickScansWhileHalted := by
  refine ⟨⟨?_, fun s w h hm hs hw hd => exec_freeTick_overdue s w h hm hw hs hd⟩, ?_, ?_, ?_⟩
  · intro s h hm hx hb hs hd
    obtain ⟨w, hw⟩ : ∃ w, w = elapse (s.tb.freeTickAt - s.tick) s := ⟨_, rfl⟩
    have reached : canAccess w = true := by
      rw [canAccess_iff, hw, elapse_port]
      exact ⟨hx, hb⟩
    refine ⟨w, { newEvent .tick false w with todo := eventTail.drop 1 }, hw, ?_, ?_⟩
    · rw [exec_freeTick_halted s w h hm hw (by rwa [hw, tick_of_free_tick]), freeTick_reached w (by simp [hw, h.1.2])
        (by rwa [hw, monitorsSettled, elapse_stats]) reached]
      simp [hw]
    · simp [hw, newEvent]
  · intro s w h hm hw hd
    rw [exec_freeTick_halted s w h hm hw hd]
    simp [hw, tickBegun, beginEvent, newEvent, tickDue, eventTail]
  · intro v
    refine ⟨rfl, fun hu => ?_, fun hx hb => ?_⟩
    · simp [beginScan, (not_canAccess_iff v).mpr hu]
    · exact beginScan_reached v ((canAccess_iff v).mpr ⟨hx, hb⟩)
  · intro s h hm hu hi ht hs hr hd
    obtain ⟨w, hw⟩ : ∃ w, w = elapse (s.tb.freeTickAt - s.tick) s := ⟨_, rfl⟩
    have unreached : canAccess w = false := by
      rw [not_canAccess_iff, hw, elapse_port]
      exact hu
    refine ⟨w, _, hw, rfl, ?_⟩
    rw [exec_freeTick_halted s w h hm hw (by rwa [hw, tick_of_free_tick]), freeTick_unreached w (by simp [hw, h.1.2])
      (by simp [hw, h.2]) (by simp [hw, hi]) (by simp [hw, ht]) (by simp [hw, not_measuring_of_halted s hm])
      (by rwa [hw, monitorsSettled, elapse_stats]) (by simpa [hw] using hr) unreached _ rfl]
    simp [hw]

end Sys2Proof.Machine
end

section
/-! PROOF. The first boundary of a run (O14): the start of the run, its scan, and the start of its first window. -/

namespace Sys2Proof.Machine

/-! ## The start of a run (R10, R34, R199) -/

@[simp] theorem winNo_elapse (n : Nat) (s : State) : (elapse n s).tb.winNo = s.tb.winNo := by
  obtain ⟨tb, e, rfl | rfl⟩ := elapse_spec n s
  · rw [e]
  · rw [e]; rfl

@[simp] theorem startLinks_length (mask : Nat) (links : List Link) : (startLinks mask links).length = links.length := by
  simp [startLinks]

/-- R10: the links of enabled points go to SEEKING, the others keep their state. -/
theorem startLinks_getD (mask : Nat) (links : List Link) (l : Nat) (h : l < links.length) :
    (startLinks mask links).getD l {} =
      if mask.testBit l then linkStart (links.getD l {}) else links.getD l {} := by
  simp [startLinks, h]

theorem links_startRun (s : State) (c : Cfg) (ha : s.store.active = some c) :
    (startRun s).links = startLinks c.enabledMask s.links := by
  simp [startRun, ha]

theorem link_startRun_enabled (s : State) (c : Cfg) (l : Fin 4) (ha : s.store.active = some c)
    (h : l.val < s.links.length) (hb : c.enabledMask.testBit l.val = true) :
    (startRun s).link l = linkStart (s.link l) := by
  rw [State.link, links_startRun s c ha, startLinks_getD _ _ _ h, if_pos hb, State.link]

theorem link_startRun_disabled (s : State) (c : Cfg) (l : Fin 4) (ha : s.store.active = some c)
    (hb : c.enabledMask.testBit l.val = false) : (startRun s).link l = s.link l := by
  rw [State.link, State.link, links_startRun s c ha]
  rcases Nat.lt_or_ge l.val s.links.length with lt | ge
  · rw [startLinks_getD _ _ _ lt, hb]
    rfl
  · rw [List.getD_eq_default _ _ ge, List.getD_eq_default _ _ (by simpa using ge)]

/-- R34: a free tick instant found while STARTING is the first boundary of a run. -/
theorem tickInstant_starting (s : State) (h : s.port.meas = .starting) :
    tickInstant s = beginEvent .first false tickDue (startRun s) := by
  simp [tickInstant, h]

/-- R34, R199: what the first boundary of a run has done when its event is in hand. -/
theorem firstBoundary_begun (w : State) : beginEvent .first false tickDue (startRun w) = { w with
    event := some (newEvent .first false w)
    ic := { w.ic with pendingEnd := false, pendingStep := false }
    tb := (startRun w).tb, links := (startRun w).links
    port := { w.port with meas := .running, intcause := w.port.intcause ||| (1#9 <<< 8) }
    due := tickDue } := rfl

theorem exec_freeTick_starting (s w : State) (h : atRest s) (hm : s.port.meas = .starting)
    (hw : w = elapse (s.tb.freeTickAt - s.tick) s)
    (hd : s.spectral.decomposing ≠ none → w.tick ≤
      s.tb.runStart + (s.tb.winStart + windowLen s.tb.nom60 * nominalPace s.tb.nom60 + 255) / 256) :
    exec .freeTick s = .next (advance (beginEvent .first false tickDue (startRun w))) := by
  rw [exec_freeTick_onTime s w h (by simp [measuring, hm]) hw hd, tickInstant_starting w (by rw [hw, elapse_port, hm])]

/-- A first boundary that reaches the exchange area comes to its scan. -/
theorem firstBoundary_reached (w : State) (hm : monitorsSettled w) (hc : canAccess w = true) :
    advance (beginEvent .first false tickDue (startRun w)) = { w with
      event := some { newEvent .first false w with todo := eventTail.drop 1 }
      ic := { w.ic with pendingEnd := false, pendingStep := false }
      tb := (startRun w).tb, links := (startRun w).links
      port := { w.port with
        meas := .running, intcause := w.port.intcause ||| (1#9 <<< 8)
        scan := some { base := w.port.exbase, issuedAt := w.tick } }
      due := [] } := by
  rw [advance_tickDue_reached (beginEvent .first false tickDue (startRun w)) rfl hm hc]
  rfl

/-! ## The start of a window (R20, R31, R48) -/

/-- The end of an event while measuring begins a window. -/
theorem endEvent_measuring (s : State) (ev : Event) (he : s.event = some ev) (hm : measuring s = true) :
    endEvent s = { startWindow ev { s with channels := s.channels.map (settleRequest true) } with
      event := none, due := replay ev.deferred ++ s.due } := by
  have goes : measuring { s with channels := s.channels.map (settleRequest (measuring s)) } = true := hm
  unfold endEvent
  split
  · next none => simp [he] at none
  · next ev' he' =>
    obtain rfl : ev' = ev := by simpa [he] using he'.symm
    simp only [goes, if_true]
    rw [hm]
    rfl

/-- An offset requested before a window begins waits for the window's end. -/
theorem settleRequest_measuring (c : Channel) :
    settleRequest true c = { c with request := c.request.map (fun r => { r with late := false }) } := by
  cases c with
  | mk => unfold settleRequest; split <;> simp_all

/-- Settles O14: the event is begun by `startRun` and comes to its scan, or to what follows it, as a free tick does; its
end begins a window. -/
theorem firstBoundaryStartsTheRun : Obligations.FirstBoundaryStartsTheRun := by
  refine ⟨?_, ?_, ?_⟩
  · intro s c h hm hx hb ha hs hd
    obtain ⟨w, hw⟩ : ∃ w, w = elapse (s.tb.freeTickAt - s.tick) s := ⟨_, rfl⟩
    have instant : w.tick = max s.tick s.tb.freeTickAt := by rw [hw, tick_of_free_tick]
    have reached : canAccess w = true := by
      rw [canAccess_iff, hw, elapse_port]
      exact ⟨hx, hb⟩
    have active : w.store.active = some c := by simpa [hw] using ha
    refine ⟨_, { newEvent .first false w with todo := eventTail.drop 1 },
      (exec_freeTick_starting s w h hm hw (by rwa [instant])).trans
        (congrArg _ (firstBoundary_reached w (by rwa [hw, monitorsSettled, elapse_stats]) reached)), ?_⟩
    have seeking (l : Fin 4) (hl : l.val < s.links.length) (hb : c.enabledMask.testBit l.val = true) :
        (startRun w).link l = linkStart (s.link l) := by
      have := link_startRun_enabled w c l active (by simpa [hw] using hl) hb
      simpa [hw] using this
    have kept (l : Fin 4) (hb : c.enabledMask.testBit l.val = false) : (startRun w).link l = s.link l := by
      have := link_startRun_disabled w c l active hb
      simpa [hw] using this
    have pace : (startRun w).tb.pace = nominalPace s.tb.nom60 := by simp [startRun, lockReset, hw]
    have length : (startRun w).links.length = s.links.length := by simp [startRun, hw]
    have requested : (w.port.intcause ||| 1#9 <<< 8).getLsbD 8 = true := by simp
    refine ⟨instant, rfl, rfl, rfl, rfl, rfl, rfl, rfl, by simp [hw, newEvent], by simp [hw, newEvent],
      by simp [hw, newEvent], by simp [hw, newEvent], by simp [hw, newEvent], rfl, requested, rfl, rfl, rfl, pace, rfl,
      rfl, rfl, rfl, rfl, rfl, by simp [hw], length, fun l hl hb => ?_, kept, by simp [hw], by simp [hw], by simp [hw],
      by simp [hw], by simp [hw]⟩
    have started := seeking l hl hb
    simp only [State.link] at started ⊢
    rw [started]
    exact ⟨rfl, rfl, rfl, rfl, rfl, rfl, rfl⟩
  · intro s w c h hm ha hw hd
    refine ⟨(startRun w).links, (startRun w).tb, ?_, ?_, ?_, fun l hl => ?_⟩
    · rw [exec_freeTick_starting s w h hm hw hd, firstBoundary_begun]
      simp [hw, newEvent, tickDue, eventTail]
    · simp [hw, startRun, lockReset]
    · simp [hw, startRun]
    · rw [links_startRun w c (by simpa [hw] using ha), hw, elapse_links, startLinks_getD _ _ _ hl]
      rfl
  · intro s ev he hm
    refine ⟨_, ?_, rfl⟩
    rw [microStep_endEvent, endEvent_measuring s ev he hm]
    simp [startWindow, replay, settleRequest_measuring]

end Sys2Proof.Machine
end

section
/-! PROOF. The phasors of a window (O29): the two cosines of a part of a turn, and the transform they sum to. -/

namespace Sys2Proof.Machine

/-! ## Parts of a turn -/

/-- Eighths of a turn added to an angle. -/
theorem cos_add_eighths (nom60 : Bool) (m r : Nat) :
    Real.cos (2 * Real.pi * (m + r * windowLen nom60 / 8 : Nat) / windowLen nom60) =
      Real.cos (2 * Real.pi * m / windowLen nom60 + r * (Real.pi / 4)) := by
  obtain ⟨q, hq, h⟩ : ∃ q, 0 < q ∧ windowLen nom60 = 8 * q :=
    ⟨32 * cycles nom60, by cases nom60 <;> decide, by unfold windowLen; ring⟩
  have hq' : (q : ℝ) ≠ 0 := by positivity
  have eighths : m + r * (8 * q) / 8 = m + r * q := by
    rw [show r * (8 * q) = r * q * 8 by ring, Nat.mul_div_cancel _ (by norm_num)]
  rw [h, eighths]
  push_cast
  congr 1
  field_simp
  ring

/-- R51: √2 cos θ as two cosines. -/
theorem cos_pair (nom60 : Bool) (m : Nat) :
    Real.cos (2 * Real.pi * (m + windowLen nom60 / 8 : Nat) / windowLen nom60) +
        Real.cos (2 * Real.pi * (m + 7 * windowLen nom60 / 8 : Nat) / windowLen nom60) =
      √2 * Real.cos (2 * Real.pi * m / windowLen nom60) := by
  have one := cos_add_eighths nom60 m 1
  rw [Nat.one_mul, Nat.cast_one, one_mul] at one
  rw [one, cos_add_eighths nom60 m 7]
  generalize 2 * Real.pi * (m : ℝ) / windowLen nom60 = θ
  rw [show θ + (7 : Nat) * (Real.pi / 4) = θ - Real.pi / 4 + 2 * Real.pi by push_cast; ring, Real.cos_add_two_pi,
    Real.cos_add, Real.cos_sub, Real.cos_pi_div_four]
  ring

/-- R51: √2 sin θ as two cosines. -/
theorem sin_pair (nom60 : Bool) (m : Nat) :
    Real.cos (2 * Real.pi * (m + 7 * windowLen nom60 / 8 : Nat) / windowLen nom60) +
        Real.cos (2 * Real.pi * (m + 5 * windowLen nom60 / 8 : Nat) / windowLen nom60) =
      √2 * Real.sin (2 * Real.pi * m / windowLen nom60) := by
  rw [cos_add_eighths nom60 m 7, cos_add_eighths nom60 m 5]
  generalize 2 * Real.pi * (m : ℝ) / windowLen nom60 = θ
  rw [show θ + (7 : Nat) * (Real.pi / 4) = θ - Real.pi / 4 + 2 * Real.pi by push_cast; ring, Real.cos_add_two_pi,
    show θ + (5 : Nat) * (Real.pi / 4) = θ + Real.pi / 4 + Real.pi by push_cast; ring, Real.cos_add_pi,
    Real.cos_add, Real.cos_sub, Real.sin_pi_div_four]
  ring

/-! ## The transform -/

/-- The sum of a part is √2 times the sum of the samples by the one angle its two cosines come to. -/
theorem exactSum_eq (n k a b : Nat) (f : ℕ → ℝ) (hf : ∀ j, Real.cos (2 * Real.pi * (k * j + a : Nat) / n) +
    Real.cos (2 * Real.pi * (k * j + b : Nat) / n) = √2 * f j) : ∀ (l : List Int) (j : Nat),
    exactSum n k a b j l = √2 * ∑ i ∈ Finset.range l.length, (l.getD i 0 : ℝ) * f (j + i)
  | [], _ => by simp [exactSum]
  | x :: l, j => by
    rw [exactSum, hf, exactSum_eq n k a b f hf l (j + 1), List.length_cons, Finset.sum_range_succ']
    simp only [List.getD_cons_zero, List.getD_cons_succ, add_zero, add_assoc, add_comm 1]
    ring

/-- A sixteenth of the window's samples under the sum is sixteen times the factor √2 / N. -/
theorem div_sixteenth (nom60 : Bool) (x : ℝ) :
    √2 * x / (windowLen nom60 / 16 : Nat) = 16 * (√2 / windowLen nom60) * x := by
  have h : ((windowLen nom60 / 16 : Nat) : ℝ) = windowLen nom60 / 16 :=
    Nat.cast_div (by cases nom60 <;> decide) (by norm_num)
  rw [h]
  ring

theorem saturatePart_eq (v : Int) : saturatePart v = max (-524287) (min 524287 v) :=
  clampInt_eq _ _ _ (by norm_num)

theorem saturatePart_neg (v : Int) : -saturatePart v = saturatePart (-v) := by
  simp only [saturatePart_eq]
  omega

/-- R51: a phasor is the transform of the samples at its bin, each part rounded and saturated. -/
theorem phasor_eq (nom60 : Bool) (samples : List Int) (k : Nat) (hl : samples.length = windowLen nom60)
    (hx : ∀ x ∈ samples, |x| ≤ 32767) :
    phasor nom60 (cosTable nom60 coarseBits) (cosTable nom60 fineBits) samples k =
      (saturatePart (roundAway (16 * (√2 / windowLen nom60) * ∑ j ∈ Finset.range (windowLen nom60),
        (samples.getD j 0 : ℝ) * Real.cos (2 * Real.pi * (k * j : Nat) / windowLen nom60))),
       saturatePart (roundAway (-(16 * (√2 / windowLen nom60) * ∑ j ∈ Finset.range (windowLen nom60),
        (samples.getD j 0 : ℝ) * Real.sin (2 * Real.pi * (k * j : Nat) / windowLen nom60))))) := by
  simp only [phasor, phasorPart_exact nom60 k _ _ samples hl hx, exactSum_eq _ k _ _ _ (fun j => cos_pair nom60 (k * j)),
    exactSum_eq _ k _ _ _ (fun j => sin_pair nom60 (k * j)), div_sixteenth, saturatePart_neg, roundAway_neg, hl, zero_add]

theorem phasors_length (nom60 : Bool) (samples : List Int) :
    (phasors nom60 samples).length = windowLen nom60 / 2 + 1 := by
  rw [phasors, List.length_map, List.length_range]

theorem phasors_getD (nom60 : Bool) (samples : List Int) (k : Nat) (h : k ≤ windowLen nom60 / 2) :
    (phasors nom60 samples).getD k (0, 0) =
      phasor nom60 (cosTable nom60 coarseBits) (cosTable nom60 fineBits) samples k := by
  rw [List.getD_eq_getElem _ _ (by rw [phasors_length]; omega)]
  simp only [phasors, List.getElem_map, List.getElem_range]

/-- R51: the square of a phasor's magnitude, as it stands. -/
theorem squared_cast (x : Int × Int) : (squared x : Int) = x.1 ^ 2 + x.2 ^ 2 := by
  rw [squared, Int.toNat_of_nonneg (by linarith [mul_self_nonneg x.1, mul_self_nonneg x.2])]
  ring

theorem squared_saturated_le (a b : Int) : squared (saturatePart a, saturatePart b) ≤ 549753716738 := by
  have bounded (v : Int) : saturatePart v ^ 2 ≤ 524287 ^ 2 := by
    rw [saturatePart_eq]
    exact sq_le_sq' (by omega) (by omega)
  zify
  rw [squared_cast]
  linarith [bounded a, bounded b]

/-- Settles O29: each part is its sum of two cosines (`phasorPart_exact`), which is the transform at the bin. -/
theorem phasorsAreTheRoundedTransform : Obligations.PhasorsAreTheRoundedTransform := by
  refine ⟨?_, ?_⟩
  · rintro nom60 samples _ k _ _ away _ rfl hl hx hk haway rfl rfl rfl
    have rounds : away = roundAway := funext haway
    have parts := phasor_eq nom60 samples k hl fun v hv => abs_le.mpr (hx v hv)
    have angle (j : Nat) : 2 * Real.pi * k * j = 2 * Real.pi * (k * j : Nat) := by push_cast; ring
    rw [phasors_getD nom60 samples k hk, phasors_length, rounds]
    refine ⟨rfl, ?_, squared_cast _, ?_⟩
    · simp only [parts, saturatePart_eq, angle, neg_mul]
    · rw [parts]
      exact squared_saturated_le _ _
  · intro nom60 w pos hp
    have length : (pointSpectra nom60 w).length = 7 := by simp [pointSpectra]
    refine ⟨length, ?_⟩
    rw [List.getD_eq_getElem _ _ (by omega)]
    simp [pointSpectra, samplesOf]

end Sys2Proof.Machine
end

section
/-! PROOF. The figures of a window result (O57): roots, band and group sums, ratios, powers, band values, and the result of
the aggregate point. -/

namespace Sys2Proof.Machine

/-! ## Roots and band sums (R52 to R54) -/

theorem isqrt_eq_sqrt (n : Nat) : isqrt n = Nat.sqrt n := Nat.eq_sqrt.mpr (isqrt_bounds n)

theorem sum_take_squared : ∀ (n : Nat) (l : List (Int × Int)),
    ((l.take n).map squared).sum = ((List.range n).map (fun j => squared (l.getD j (0, 0)))).sum
  | 0, _ => rfl
  | n + 1, [] => by simp [squared]
  | n + 1, x :: l => by
    rw [List.take_succ_cons, List.map_cons, List.sum_cons, sum_take_squared n l, List.range_succ_eq_map]
    simp [Function.comp_def]

theorem bandSum_eq (spec : List (Int × Int)) (lo hi : Nat) :
    bandSum spec lo hi = ((List.range (hi + 1 - lo)).map (fun j => squared (spec.getD (lo + j) (0, 0)))).sum := by
  rw [bandSum, sum_take_squared]
  simp only [List.getD_eq_getElem?_getD, List.getElem?_drop]

/-- R52: a band sum by the parts of its phasors. -/
theorem bandSum_cast (spec : List (Int × Int)) (sq : Nat → Int)
    (h : ∀ k, sq k = (spec.getD k (0, 0)).1 ^ 2 + (spec.getD k (0, 0)).2 ^ 2) (lo hi : Nat) :
    (bandSum spec lo hi : Int) = ((List.range (hi + 1 - lo)).map (fun j => sq (lo + j))).sum := by
  rw [bandSum_eq, Nat.cast_list_sum, List.map_map]
  simp only [Function.comp_def, squared_cast, h]

/-- R53: the interior bins of a group twice, its edge bins once. -/
theorem groupSum_cast (nom60 : Bool) (spec : List (Int × Int)) (sq : Nat → Int)
    (hs : ∀ k, sq k = (spec.getD k (0, 0)).1 ^ 2 + (spec.getD k (0, 0)).2 ^ 2) (h : Nat) (hh : 1 ≤ h) :
    (groupSum nom60 spec h : Int) =
      2 * ((List.range (cycles nom60 - 1)).map (fun j => sq (h * cycles nom60 - cycles nom60 / 2 + 1 + j))).sum
        + sq (h * cycles nom60 - cycles nom60 / 2) + sq (h * cycles nom60 + cycles nom60 / 2) := by
  have interior : h * cycles nom60 + cycles nom60 / 2 - 1 + 1 - (h * cycles nom60 - cycles nom60 / 2 + 1) =
      cycles nom60 - 1 := by
    cases nom60 <;> simp only [cycles, Bool.false_eq_true, if_true, if_false] <;> omega
  simp only [groupSum, Nat.cast_add, Nat.cast_mul, Nat.cast_ofNat, bandSum_cast spec sq hs, interior, squared_cast, hs]

theorem totalRms_bounds (nom60 : Bool) (spec : List (Int × Int)) :
    totalRms nom60 spec ^ 2 ≤ bandSum spec 1 (windowLen nom60 / 2) ∧
      bandSum spec 1 (windowLen nom60 / 2) < (totalRms nom60 spec + 1) ^ 2 := by
  simp only [pow_two]
  exact isqrt_bounds _

theorem groupRms_bounds (nom60 : Bool) (spec : List (Int × Int)) (h : Nat) :
    2 * groupRms nom60 spec h ^ 2 ≤ groupSum nom60 spec h ∧
      groupSum nom60 spec h < 2 * (groupRms nom60 spec h + 1) ^ 2 := by
  obtain ⟨below, above⟩ := isqrt_bounds (groupSum nom60 spec h / 2)
  simp only [pow_two, groupRms]
  omega

theorem groupList_eq (nom60 : Bool) (spec : List (Int × Int)) :
    groupList nom60 spec = (List.range 50).map (fun j => groupRms nom60 spec (j + 1)) := by
  simp only [groupList, orderNumbers, List.map_map, Function.comp_def]

theorem groupList_getD (nom60 : Bool) (spec : List (Int × Int)) (j : Nat) (h : j < 50) :
    (groupList nom60 spec).getD j 0 = groupRms nom60 spec (j + 1) := by
  rw [groupList_eq, List.getD_eq_getElem _ _ (by simpa using h)]
  simp

/-! ## Order values and ratios (R60 to R62) -/

/-- R60: an order value is the largest of the three currents' group RMS. -/
theorem orderValues_groups (nom60 : Bool) (x y z : List (Int × Int)) :
    orderValues [groupList nom60 x, groupList nom60 y, groupList nom60 z] = (List.range 50).map (fun j =>
      max (groupRms nom60 x (j + 1)) (max (groupRms nom60 y (j + 1)) (groupRms nom60 z (j + 1)))) := by
  refine List.map_congr_left fun j hj => ?_
  have h := List.mem_range.mp hj
  simp only [List.map_cons, List.map_nil, List.foldl_cons, List.foldl_nil, groupList_getD _ _ j h, Nat.zero_max,
    max_assoc]

theorem harmonicSquares_cons (g1 : Nat) (rest : List Nat) :
    harmonicSquares (g1 :: rest) = (rest.map (fun x => x * x)).sum := rfl

/-- R61, R62: a limited ratio of a root to a figure, rounded down, in units of 0.1 %. -/
theorem ratio_bounds (sq d t : Nat) (hd : 0 < d) (ht : t = min 65534 (isqrt (1000000 * sq) / d)) :
    t ≤ 65534 ∧ (t * d) ^ 2 ≤ 1000000 * sq ∧ (t < 65534 → 1000000 * sq < ((t + 1) * d) ^ 2) := by
  obtain ⟨below, above⟩ := isqrt_bounds (1000000 * sq)
  refine ⟨by omega, ?_, fun hlt => ?_⟩
  · have below' : t * d ≤ isqrt (1000000 * sq) :=
      (Nat.le_div_iff_mul_le hd).mp (by omega)
    calc (t * d) ^ 2 ≤ isqrt (1000000 * sq) ^ 2 := Nat.pow_le_pow_left below' 2
      _ ≤ 1000000 * sq := by rw [pow_two]; exact below
  · have above' : isqrt (1000000 * sq) + 1 ≤ (t + 1) * d :=
      (Nat.div_lt_iff_lt_mul hd).mp (by omega)
    calc 1000000 * sq < (isqrt (1000000 * sq) + 1) ^ 2 := by rw [pow_two]; exact above
      _ ≤ ((t + 1) * d) ^ 2 := Nat.pow_le_pow_left above' 2

theorem phaseThd_low (g1 : Nat) (rest : List Nat) (h : g1 < 16) : phaseThd (g1 :: rest) = 65535 := by
  simp [phaseThd, h]

theorem phaseThd_ratio (g1 : Nat) (rest : List Nat) (h : 16 ≤ g1) :
    phaseThd (g1 :: rest) = min 65534 (isqrt (1000000 * (rest.map (fun x => x * x)).sum) / g1) := by
  simp only [phaseThd, List.getD_cons_zero, not_lt.mpr h, if_false, harmonicSquares_cons]

theorem foldl_max_greatest (l : List Nat) (h : l ≠ []) : l.foldl max 0 ∈ l ∧ ∀ x ∈ l, x ≤ l.foldl max 0 := by
  obtain ⟨a, t, rfl⟩ := List.exists_cons_of_ne_nil h
  rw [List.foldl_cons, Nat.zero_max]
  exact List.max?_eq_some_iff.mp List.max?_cons'

/-- R61: no phase has a THD. -/
theorem windowThd_undefined (groups : List (List Nat)) (h : ∀ g ∈ groups, phaseThd g = 65535) :
    windowThd groups = 65535 := by
  have none_defined : (groups.map phaseThd).filter (fun t => t < 65535) = [] := by
    rw [List.filter_eq_nil_iff]
    intro t ht
    obtain ⟨g, hg, rfl⟩ := List.mem_map.mp ht
    simp [h g hg]
  simp [windowThd, none_defined]

/-- R61: the window THD is the greatest of the phase THDs that there are. -/
theorem windowThd_greatest (groups : List (List Nat)) (h : ∃ g ∈ groups, phaseThd g < 65535) :
    (∃ g ∈ groups, phaseThd g < 65535 ∧ windowThd groups = phaseThd g) ∧
      ∀ g ∈ groups, phaseThd g < 65535 → phaseThd g ≤ windowThd groups := by
  have mem (t : Nat) : t ∈ (groups.map phaseThd).filter (fun t => t < 65535) ↔
      (∃ g ∈ groups, phaseThd g = t) ∧ t < 65535 := by
    simp only [List.mem_filter, List.mem_map, decide_eq_true_eq]
  obtain ⟨g, hg, hlt⟩ := h
  have some_defined := List.ne_nil_of_mem ((mem (phaseThd g)).mpr ⟨⟨g, hg, rfl⟩, hlt⟩)
  obtain ⟨isOne, isGreatest⟩ := foldl_max_greatest _ some_defined
  simp only [windowThd, some_defined, if_false]
  refine ⟨?_, fun g hg hlt => isGreatest _ ((mem _).mpr ⟨⟨g, hg, rfl⟩, hlt⟩)⟩
  obtain ⟨⟨g, hg, eq⟩, hlt⟩ := (mem _).mp isOne
  exact ⟨g, hg, eq ▸ hlt, eq.symm⟩

/-- The window THD of three phases, by their number. -/
theorem windowThd_three (T : Nat → Nat) (g : Nat → List Nat) (hT : ∀ p, T p = phaseThd (g p)) :
    ((∀ p < 3, T p = 65535) → windowThd ((List.range 3).map g) = 65535) ∧
      ((∃ p < 3, T p < 65535) → (∃ p < 3, T p < 65535 ∧ windowThd ((List.range 3).map g) = T p) ∧
        ∀ p < 3, T p < 65535 → T p ≤ windowThd ((List.range 3).map g)) := by
  have undefined := windowThd_undefined ((List.range 3).map g)
  have greatest := windowThd_greatest ((List.range 3).map g)
  simp only [List.forall_mem_map] at undefined greatest
  simp only [List.mem_map, exists_exists_and_eq_and, List.mem_range, ← hT] at undefined greatest
  exact ⟨undefined, greatest⟩

/-! ## Band values (R54) -/

theorem bandRms_eq (spec : List (Int × Int)) (lo hi : Nat) : bandRms spec lo hi = Nat.sqrt (bandSum spec lo hi) :=
  isqrt_eq_sqrt _

theorem inForce_iff (m : MonSettings) : m.inForce = true ↔ m.enable = 1 ∧ m.lo ≤ m.hi := by
  simp [MonSettings.inForce]

/-! ## The aggregate point (R58, R59) -/

theorem aggregateClass_clean (cs : List WinClass) (h : ∀ c ∈ cs, c = .clean) : aggregateClass cs = .clean := by
  have all : cs.all (· = .clean) = true := by simpa using h
  rw [aggregateClass, if_pos all]

theorem aggregateClass_missing (cs : List WinClass) (hc : ∃ c ∈ cs, c ≠ .clean) (h : ∀ c ∈ cs, c = .missing) :
    aggregateClass cs = .missing := by
  have clean : ¬ cs.all (· = .clean) = true := by simpa using hc
  have missing : cs.all (· = .missing) = true := by simpa using h
  rw [aggregateClass, if_neg clean, if_pos missing]

theorem aggregateClass_flagged (cs : List WinClass) (hc : ∃ c ∈ cs, c ≠ .clean) (hm : ∃ c ∈ cs, c ≠ .missing) :
    aggregateClass cs = .flagged := by
  have clean : ¬ cs.all (· = .clean) = true := by simpa using hc
  have missing : ¬ cs.all (· = .missing) = true := by simpa using hm
  rw [aggregateClass, if_neg clean, if_neg missing]

theorem aggregatePartial_iff (cs : List WinClass) :
    aggregatePartial cs = true ↔ (∃ c ∈ cs, c = .missing) ∧ ∃ c ∈ cs, c ≠ .missing := by
  simp [aggregatePartial]

theorem aggregatePartial_of_none_missing (cs : List WinClass) (h : ∀ c ∈ cs, c ≠ .missing) :
    aggregatePartial cs = false := by
  rw [Bool.eq_false_iff, Ne, aggregatePartial_iff]
  rintro ⟨⟨c, hc, eq⟩, -⟩
  exact h c hc eq

theorem aggregatePartial_of_all_missing (cs : List WinClass) (h : ∀ c ∈ cs, c = .missing) :
    aggregatePartial cs = false := by
  rw [Bool.eq_false_iff, Ne, aggregatePartial_iff]
  rintro ⟨-, c, hc, ne⟩
  exact ne (h c hc)

/-- R58: the table of the aggregate window's class and partial mark. -/
theorem aggregate_table (cs : List WinClass) (hne : cs ≠ []) :
    ((∀ c ∈ cs, c = .clean) → aggregateClass cs = .clean ∧ aggregatePartial cs = false) ∧
    ((∀ c ∈ cs, c = .missing) → aggregateClass cs = .missing ∧ aggregatePartial cs = false) ∧
    ((∃ c ∈ cs, c = .missing) → (∃ c ∈ cs, c ≠ .missing) →
      aggregateClass cs = .flagged ∧ aggregatePartial cs = true) ∧
    ((∀ c ∈ cs, c ≠ .missing) → (∃ c ∈ cs, c = .flagged) →
      aggregateClass cs = .flagged ∧ aggregatePartial cs = false) := by
  refine ⟨fun h => ⟨aggregateClass_clean cs h, aggregatePartial_of_none_missing cs fun c hc => ?_⟩,
    fun h => ⟨aggregateClass_missing cs ?_ h, aggregatePartial_of_all_missing cs h⟩, ?_, ?_⟩
  · rw [h c hc]; decide
  · obtain ⟨c, hc⟩ := List.exists_mem_of_ne_nil cs hne
    exact ⟨c, hc, by rw [h c hc]; decide⟩
  · rintro ⟨c, hc, missing⟩ present
    exact ⟨aggregateClass_flagged cs ⟨c, hc, by rw [missing]; decide⟩ present,
      (aggregatePartial_iff cs).mpr ⟨⟨c, hc, missing⟩, present⟩⟩
  · rintro none_missing ⟨c, hc, flagged⟩
    exact ⟨aggregateClass_flagged cs ⟨c, hc, by rw [flagged]; decide⟩ ⟨c, hc, none_missing c hc⟩,
      aggregatePartial_of_none_missing cs none_missing⟩

theorem aggregateResult_nil (d : DecompWindow) (results : List WinResult)
    (h : results.filter (fun r => d.cap.cfg.memberMask.testBit r.point) = []) : aggregateResult d results = none := by
  simp only [aggregateResult, h, if_true]

theorem aggregateResult_members (d : DecompWindow) (results members : List WinResult)
    (h : members = results.filter (fun r => d.cap.cfg.memberMask.testBit r.point)) (hne : members ≠ []) :
    aggregateResult d results = some {
      point := 4, record := d.record, generation := d.cap.cfg.generation
      cls := aggregateClass (members.map (fun m => m.cls))
      partialFlag := aggregatePartial (members.map (fun m => m.cls))
      p3 := sumOrders ((members.filter (fun m => m.cls ≠ .missing)).map (fun m => m.p3))
      q3 := sumOrders ((members.filter (fun m => m.cls ≠ .missing)).map (fun m => m.q3)) } := by
  simp only [aggregateResult, ← h, hne, if_false]

/-- R59: the sums, order by order, of one power of the results. -/
theorem sumOrders_map (members : List WinResult) (f : WinResult → List Int) : sumOrders (members.map f) =
    (List.range 50).map (fun j => (members.map (fun m => (f m).getD j 0)).sum) := by
  simp only [sumOrders, List.map_map, Function.comp_def]

/-! ## The statement -/

/-- R54: the band value of a monitor by its kind and phase selection, from a figure for each channel. -/
theorem bandValue_eq (specs : List (List (Int × Int))) (m : MonSettings) (B : Nat → Nat → Nat → Nat)
    (hB : ∀ pos lo hi, B pos lo hi = Nat.sqrt (bandSum (specs.getD pos []) lo hi)) :
    bandValue specs m =
      if m.phase = 4 then (if m.kind = 1 then 0 else B 6 m.lo m.hi)
      else if m.phase = 5 then max (B (if m.kind = 1 then 0 else 3) m.lo m.hi)
        (max (B ((if m.kind = 1 then 0 else 3) + 1) m.lo m.hi) (B ((if m.kind = 1 then 0 else 3) + 2) m.lo m.hi))
      else B ((if m.kind = 1 then 0 else 3) + m.phase - 1) m.lo m.hi := by
  simp only [bandValue, bandRms_eq, hB]

/-- Settles O57: the figures of R52 to R64, each by its own lemma. -/
theorem rmsAndRatiosAreExactFloors : Obligations.RmsAndRatiosAreExactFloors := by
  refine ⟨isqrt_eq_sqrt, fun nom60 spec => ?_, fun g1 rest sq hsq => ?_, fun spec sq hs => ?_, fun _ _ => rfl, ?_, ?_⟩
  · obtain ⟨below, above⟩ := totalRms_bounds nom60 spec
    exact ⟨below, above, groupRms_bounds nom60 spec⟩
  · subst hsq
    exact ⟨phaseThd_low g1 rest, fun h => ratio_bounds _ g1 _ (by omega) (phaseThd_ratio g1 rest h),
      fun ic hic => ratio_bounds _ ic _ hic (by rw [tddOf, harmonicSquares_cons])⟩
  · refine ⟨bandSum_cast spec sq hs, ?_⟩
    rintro nom60 _ h rfl hh
    exact groupSum_cast nom60 spec sq hs h hh
  · rintro nom60 d w specs _ _ V I P Q G B rfl rfl hV hI hP hQ hG hB
    have power3 (k : Nat) : threePhase activePower specs k = P k := by
      simp only [threePhase, activePower, hP, hV, hI]
    have reactive3 (k : Nat) : threePhase reactivePower specs k = Q k := by
      simp only [threePhase, reactivePower, hQ, hV, hI]
    have voltages (p : Nat) : groupList nom60 (specs.getD p []) = (List.range 50).map (fun j => G 0 p (j + 1)) := by
      simp only [groupList_eq, hG, Nat.zero_add]
    have currents (p : Nat) : groupList nom60 (specs.getD (p + 3) []) = (List.range 50).map (fun j => G 3 p (j + 1)) := by
      simp only [groupList_eq, hG, Nat.add_comm]
    refine ⟨rfl, rfl, rfl, rfl, rfl, rfl, rfl, rfl, ?_, ?_, ?_, ?_, ?_, ?_, rfl, ?_⟩
    · simp only [pointResult, weightedPowers, orderNumbers, List.map_map, Function.comp_def, power3, cycles]
    · simp only [pointResult, weightedPowers, orderNumbers, List.map_map, Function.comp_def, reactive3, cycles]
    · simp only [pointResult, voltages]
    · simp only [pointResult, currents]
    · simp only [hG]
      exact orderValues_groups nom60 _ _ _
    · simp only [List.forall_mem_cons, List.not_mem_nil, false_implies, implies_true, and_true]
      refine ⟨fun T hT => windowThd_three T _ fun p => ?_, fun T hT => windowThd_three T _ fun p => ?_⟩
      · rw [hT, voltages]
      · rw [hT, currents]
    · refine List.filterMap_congr fun m _ => ?_
      simp only [MonSettings.inForce, Bool.and_eq_true, decide_eq_true_eq, and_assoc, bandValue_eq specs _ B hB,
        bandPower, power3]
  · intro d results members hm
    refine ⟨fun h => aggregateResult_nil d results (hm ▸ h),
      fun h => ⟨_, aggregateResult_members d results members hm h, rfl, ?_⟩⟩
    have table := aggregate_table (members.map (fun m => m.cls)) (by simpa using h)
    simp only [List.forall_mem_map] at table
    simp only [List.mem_map, exists_exists_and_eq_and] at table
    obtain ⟨clean, missing, partially, flagged⟩ := table
    exact ⟨clean, missing, partially, flagged, sumOrders_map _ _, sumOrders_map _ _⟩

end Sys2Proof.Machine
end

section
/-! SUPPORT. What a decomposition's consumers do with one result or one channel: rounding, calibrations, the accumulators,
and a fold that visits each channel once. -/

namespace Sys2Proof.Machine

/-! ## Rounding and the amplitude test -/

theorem roundHalfAway_eq (n : Int) (k : Nat) : roundHalfAway n k =
    if 0 ≤ n then (2 * n + k) / (2 * k) else -((2 * -n + k) / (2 * k)) := by
  unfold roundHalfAway
  by_cases h : 0 ≤ n
  · have size : (n.natAbs : Int) = n := Int.natAbs_of_nonneg h
    rw [if_neg (by omega), if_pos h]
    push_cast [size]
    rfl
  · have size : (n.natAbs : Int) = -n := Int.ofNat_natAbs_of_nonpos (by omega)
    rw [if_pos (by omega), if_neg h]
    push_cast [size]
    rfl

theorem amplitudeVerdict_eq (m : Measured) (g1 : Nat) : amplitudeVerdict m g1 = { m with
    verdict := if m.verdict = .valid ∧ g1 < 52428 then .weak else m.verdict } := by
  unfold amplitudeVerdict weakLimit
  by_cases h : m.verdict = .valid ∧ g1 < 52428
  · simp [h]
  · rw [if_neg h, if_neg (by simpa using h)]

/-! ## Calibrations (R23) -/

theorem calibrationStep_none (ch number n rms floor : Nat) (sum : Int) (s : State)
    (h : (s.channel ch).calibration = none) : calibrationStep ch number n rms floor sum s = s := by
  simp [calibrationStep, h]

section Calibrating

variable {ch number n rms floor : Nat} {sum : Int} {s : State} {c : Calibration}

theorem calibrationStep_unmeasured (h : (s.channel ch).calibration = some c) (hn : c.measures number = false) :
    calibrationStep ch number n rms floor sum s = s := by
  simp [calibrationStep, h, hn]

theorem calibrationStep_loadPresent (h : (s.channel ch).calibration = some c) (hn : c.measures number = true)
    (hl : floor ≤ rms) : calibrationStep ch number n rms floor sum s =
      completeFail c.entry .loadPresent (eventTime s) (s.setChannel ch { s.channel ch with calibration := none }) := by
  simp [calibrationStep, h, hn, hl, failCalibration_some _ _ _ c h]

theorem calibrationStep_adds (h : (s.channel ch).calibration = some c) (hn : c.measures number = true)
    (hl : rms < floor) (h5 : number ≠ c.firstWindow + 4) : calibrationStep ch number n rms floor sum s =
      s.setChannel ch { s.channel ch with calibration := some { c with sum := c.sum + sum } } := by
  simp [calibrationStep, h, hn, not_le.mpr hl, h5]

theorem calibrationStep_completes (h : (s.channel ch).calibration = some c) (hl : rms < floor)
    (h5 : number = c.firstWindow + 4) : calibrationStep ch number n rms floor sum s =
      requestOffset ch (clampInt (-2047) 2047 (roundHalfAway (c.sum + sum) (5 * n))) false false
        (completeOk c.entry (BitVec.ofInt 64 (clampInt (-2047) 2047 (roundHalfAway (c.sum + sum) (5 * n)))) (eventTime s)
          (s.setChannel ch { s.channel ch with calibration := none })) := by
  subst h5
  have measured : c.measures (c.firstWindow + 4) = true := (measures_iff c _).mpr (by omega)
  simp [calibrationStep, h, measured, not_le.mpr hl]

end Calibrating

/-! ## Reading a channel -/

theorem channel_setChannel_self (s : State) (ch : Nat) (c : Channel) (h : ch < s.channels.length) :
    (s.setChannel ch c).channel ch = c := by
  simp [State.channel, State.setChannel, h]

theorem channel_setChannel_of_ne (s : State) (ch ch' : Nat) (c : Channel) (h : ch' ≠ ch) :
    (s.setChannel ch c).channel ch' = s.channel ch' := by
  simp [State.channel, State.setChannel, h.symm]

theorem setChannel_length (s : State) (ch : Nat) (c : Channel) :
    (s.setChannel ch c).channels.length = s.channels.length := by simp [State.setChannel]

@[simp] theorem channel_complete (e : Fin 16) (failed : Bool) (code : ResultCode) (value : Word64) (time : Nat)
    (s : State) (ch : Nat) : (complete e failed code value time s).channel ch = s.channel ch := by
  simp [State.channel]

/-- An offset requested outside PARAM_WRITE: the channel by whether measurement runs. -/
theorem channel_requestOffset (ch : Nat) (v : Int) (s : State) (h : ch < s.channels.length) :
    (requestOffset ch v false false s).channel ch =
      if measuring s then { s.channel ch with request := some { value := v, idle := false, late := false } }
      else { s.channel ch with offset := v, idleCount := 0, request := none, mark := false } := by
  by_cases hm : measuring s = true
  · rw [requestOffset_measuring _ _ _ _ _ hm, channel_setChannel_self _ _ _ h, if_pos hm]
  · rw [requestOffset_halted _ _ _ _ _ (by simpa using hm) (by simp), takeOffset, channel_setChannel_self _ _ _ h,
      if_neg hm]

theorem channel_calibrationStep_of_ne (ch ch' number n rms floor : Nat) (sum : Int) (s : State) (h : ch' ≠ ch) :
    (calibrationStep ch number n rms floor sum s).channel ch' = s.channel ch' := by
  obtain ⟨c, o, eq, -⟩ := calibrationStep_spec ch number n rms floor sum s
  rw [eq]
  exact channel_setChannel_of_ne s ch ch' c h

/-- R23 reads nothing of a channel's last window RMS: two states whose channel differs in it alone come to channels that
differ in it alone. -/
theorem channel_calibrationStep_lastRms (ch number n rms floor r : Nat) (sum : Int) (s t : State)
    (hs : ch < s.channels.length) (ht : ch < t.channels.length) (hm : measuring t = measuring s)
    (hc : t.channel ch = { s.channel ch with lastRms := r }) :
    (calibrationStep ch number n rms floor sum t).channel ch =
      { (calibrationStep ch number n rms floor sum s).channel ch with lastRms := r } := by
  have same : (t.channel ch).calibration = (s.channel ch).calibration := by rw [hc]
  rcases hk : (s.channel ch).calibration with _ | c
  · rw [calibrationStep_none _ _ _ _ _ _ _ (same.trans hk), calibrationStep_none _ _ _ _ _ _ _ hk, hc]
  · have hk' := same.trans hk
    by_cases hn : c.measures number = true
    · by_cases hl : floor ≤ rms
      · rw [calibrationStep_loadPresent hk' hn hl, calibrationStep_loadPresent hk hn hl]
        simp only [completeFail, channel_complete, channel_setChannel_self _ _ _ hs, channel_setChannel_self _ _ _ ht, hc]
      · have below : rms < floor := by omega
        by_cases h5 : number = c.firstWindow + 4
        · have measuring' (u : State) (k : Channel) (time : Nat) (v : Word64) :
              measuring (completeOk c.entry v time (u.setChannel ch k)) = measuring u := by simp [measuring, completeOk]
          rw [calibrationStep_completes hk' below h5, calibrationStep_completes hk below h5,
            channel_requestOffset _ _ _ (by simpa [completeOk, setChannel_length] using ht),
            channel_requestOffset _ _ _ (by simpa [completeOk, setChannel_length] using hs), measuring', measuring', hm]
          simp only [completeOk, channel_complete, channel_setChannel_self _ _ _ hs, channel_setChannel_self _ _ _ ht, hc]
          split <;> rfl
        · rw [calibrationStep_adds hk' hn below h5, calibrationStep_adds hk hn below h5, channel_setChannel_self _ _ _ hs,
            channel_setChannel_self _ _ _ ht, hc]
    · rw [calibrationStep_unmeasured hk' (by simpa using hn), calibrationStep_unmeasured hk (by simpa using hn), hc]

/-! ## A fold that visits each channel once -/

/-- A channel that no visit is to stays. -/
theorem channel_foldl_unvisited {α : Type} (f : State → α → State) (num : α → Nat)
    (other : ∀ t a c, c ≠ num a → (f t a).channel c = t.channel c) (c : Nat) : ∀ (l : List α) (s : State),
    c ∉ l.map num → (l.foldl f s).channel c = s.channel c
  | [], _, _ => rfl
  | a :: l, s, h => by
    simp only [List.map_cons, List.mem_cons, not_or] at h
    rw [List.foldl_cons, channel_foldl_unvisited f num other c l _ h.2, other s a c h.1]

/-- A channel that one visit is to has what this visit makes of it; the invariant stands for all else that the visit
reads. -/
theorem channel_foldl_visited {α : Type} (f : State → α → State) (num : α → Nat) (inv : State → Prop)
    (kept : ∀ t a, inv t → inv (f t a)) (other : ∀ t a c, c ≠ num a → (f t a).channel c = t.channel c) (a : α)
    (c₀ c₁ : Channel) (visit : ∀ t, inv t → t.channel (num a) = c₀ → (f t a).channel (num a) = c₁) (l : List α)
    (hmem : a ∈ l) (hnodup : (l.map num).Nodup) (s : State) (hinv : inv s) (hs : s.channel (num a) = c₀) :
    (l.foldl f s).channel (num a) = c₁ := by
  induction l generalizing s with
  | nil => simp at hmem
  | cons b l ih =>
    rw [List.map_cons, List.nodup_cons] at hnodup
    obtain ⟨fresh, hnodup⟩ := hnodup
    rw [List.foldl_cons]
    rcases List.mem_cons.mp hmem with rfl | later
    · rw [channel_foldl_unvisited f num other _ l _ fresh]
      exact visit s hinv hs
    · have ne : num a ≠ num b := fun e => fresh (e ▸ List.mem_map_of_mem later)
      exact ih later hnodup _ (kept s b hinv) ((other s b _ ne).trans hs)

/-! ## Accumulators (R113 to R116) -/

theorem orBools_length (a b : List Bool) (h : a.length = b.length) : (orBools a b).length = a.length := by
  simp [orBools, h]

theorem orBools_getD (a b : List Bool) (h : a.length = b.length) (i : Nat) :
    (orBools a b).getD i false = (a.getD i false || b.getD i false) := by
  rcases Nat.lt_or_ge i a.length with lt | ge
  · simp [orBools, lt, h ▸ lt]
  · simp [orBools, ge, h ▸ ge]

theorem included_iff (r : WinResult) : included r = true ↔ r.cls = .clean ∧ r.record.locked = true := by
  simp [included]

theorem takeResult_excluded (limits : List Nat) (cfg : Cfg) (r : WinResult) (a : Acc)
    (h : r.cls ≠ .clean ∨ r.record.locked = false) : takeResult limits cfg r a = countWindow r a := by
  have out : included r = false := by
    rw [Bool.eq_false_iff, Ne, included_iff]
    rintro ⟨clean, locked⟩
    rcases h with h | h
    · exact h clean
    · simp [h] at locked
  simp [takeResult, out]

theorem takeResult_metering (limits : List Nat) (cfg : Cfg) (r : WinResult) (a : Acc) (hc : r.cls = .clean)
    (hl : r.record.locked = true) (hp : r.point ≠ 4) : takeResult limits cfg r a =
      includeWindow limits (cfg.point r.point).contracted r (countWindow r a) := by
  simp [takeResult, (included_iff r).mpr ⟨hc, hl⟩, hp]

theorem takeResult_aggregate (limits : List Nat) (cfg : Cfg) (r : WinResult) (a : Acc) (hc : r.cls = .clean)
    (hl : r.record.locked = true) (hp : r.point = 4) :
    takeResult limits cfg r a = includeAggregate r (countWindow r a) := by
  simp [takeResult, (included_iff r).mpr ⟨hc, hl⟩, hp]

/-- R113: the counts of a result are the same whether or not it is included. -/
theorem takeResult_counts (limits : List Nat) (cfg : Cfg) (r : WinResult) (a : Acc) :
    ∃ included orders fundSum thdISum thdICount thdVSum thdVCount tddSum, takeResult limits cfg r a = {
      countWindow r a with
      included := included, orders := orders, fundSum := fundSum, thdISum := thdISum, thdICount := thdICount
      thdVSum := thdVSum, thdVCount := thdVCount, tddSum := tddSum } := by
  unfold takeResult
  simp only
  split_ifs
  · exact ⟨_, _, _, _, _, _, _, _, rfl⟩
  · exact ⟨_, _, _, _, _, _, _, _, rfl⟩
  · exact ⟨_, _, _, _, _, _, _, _, rfl⟩

theorem takeResult_point (limits : List Nat) (cfg : Cfg) (r : WinResult) (a : Acc) :
    (takeResult limits cfg r a).point = a.point := by
  obtain ⟨_, _, _, _, _, _, _, _, eq⟩ := takeResult_counts limits cfg r a
  rw [eq]
  rfl

theorem getD_mapIdx (f : Nat → OrderAcc → OrderAcc) (l : List OrderAcc) (j : Nat) (h : j < l.length) :
    (l.mapIdx f).getD j {} = f j (l.getD j {}) := by
  simp [h]

/-- R114, R115: an order of an included window of a metering point. -/
theorem includeWindow_order (limits : List Nat) (contracted : Nat) (r : WinResult) (a : Acc) (j : Nat)
    (h : j < a.orders.length) : (includeWindow limits contracted r a).orders.getD j {} = {
      sum := (a.orders.getD j {}).sum + r.orderVals.getD (j + 1) 0
      max := max (a.orders.getD j {}).max (r.orderVals.getD (j + 1) 0)
      exceed := (a.orders.getD j {}).exceed + (if 0 < limits.getD j 0 ∧
        limits.getD j 0 * contracted < r.orderVals.getD (j + 1) 0 * 10000 then 1 else 0)
      emission := (a.orders.getD j {}).emission + (if r.p3.getD (j + 1) 0 < 0 then 1 else 0) } := by
  refine (getD_mapIdx _ a.orders j h).trans ?_
  simp only [addOrder, limitFails, Bool.and_eq_true, decide_eq_true_eq]

/-- R116: an order of an included window of the aggregate point. -/
theorem includeAggregate_order (r : WinResult) (a : Acc) (j : Nat) (h : j < a.orders.length) :
    (includeAggregate r a).orders.getD j {} = { a.orders.getD j {} with
      emission := (a.orders.getD j {}).emission + (if r.p3.getD (j + 1) 0 < 0 then 1 else 0) } :=
  getD_mapIdx _ a.orders j h

/-- R114: a ratio is counted where it is one, and left out where it is 65,535. -/
theorem includeWindow_ratios (limits : List Nat) (contracted : Nat) (r : WinResult) (a b : Acc)
    (hb : b = includeWindow limits contracted r a) :
    (r.thdI < 65535 → b.thdISum = a.thdISum + r.thdI ∧ b.thdICount = a.thdICount + 1) ∧
    (65535 ≤ r.thdI → b.thdISum = a.thdISum ∧ b.thdICount = a.thdICount) ∧
    (r.thdV < 65535 → b.thdVSum = a.thdVSum + r.thdV ∧ b.thdVCount = a.thdVCount + 1) ∧
    (65535 ≤ r.thdV → b.thdVSum = a.thdVSum ∧ b.thdVCount = a.thdVCount) := by
  subst hb
  exact ⟨fun h => ⟨if_pos h, if_pos h⟩, fun h => ⟨if_neg h.not_gt, if_neg h.not_gt⟩, fun h => ⟨if_pos h, if_pos h⟩,
    fun h => ⟨if_neg h.not_gt, if_neg h.not_gt⟩⟩

/-- R113: the accumulators once each has taken the results of its point, in their order. -/
def accsAfter (cfg : Cfg) (results : List WinResult) (st : Statistics) : List Acc :=
  st.accs.map (fun a => (results.filter (fun r => r.point = a.point)).foldl (fun a r => takeResult st.limits cfg r a) a)

theorem statTakeWindow_eq (cfg : Cfg) : ∀ (results : List WinResult) (s : State),
    statTakeWindow cfg results s = { s with stats := { s.stats with accs := accsAfter cfg results s.stats } }
  | [], s => by simp [statTakeWindow, accsAfter]
  | r :: results, s => by
    have rest := statTakeWindow_eq cfg results (modAcc r.point (takeResult s.stats.limits cfg r) s)
    refine rest.trans ?_
    simp only [modAcc, accsAfter, List.map_map]
    congr 2
    refine List.map_congr_left fun a _ => ?_
    by_cases hp : a.point = r.point
    · simp [hp, takeResult_point]
    · simp [hp, Ne.symm hp]

end Sys2Proof.Machine
end

section
/-! PROOF. A completed decomposition hands its results on (O40): its visits to the channels, the state that it leaves, and
its command. -/

namespace Sys2Proof.Machine

/-! ## The visits to the channels -/

/-- The positions of a window's points, in the order in which they are visited. -/
def visits (specs : List PointSpectra) : List (PointSpectra × Nat) :=
  specs.flatMap (fun p => (List.range 7).map (fun pos => (p, pos)))

/-- The channel of a visit. -/
def visited (x : PointSpectra × Nat) : Nat := channelOf x.1.1.point x.2

theorem forPositions_eq_foldl (specs : List PointSpectra) (f : PointSpectra → Nat → State → State) (s : State) :
    forPositions specs (List.range 7) f s = (visits specs).foldl (fun s x => f x.1 x.2 s) s := by
  simp only [forPositions, visits, List.foldl_flatMap, List.foldl_map]

theorem mem_visits (specs : List PointSpectra) (p : PointSpectra) (pos : Nat) :
    (p, pos) ∈ visits specs ↔ p ∈ specs ∧ pos < 7 := by
  simp [visits]

theorem visited_div (x : PointSpectra × Nat) (specs : List PointSpectra) (h : x ∈ visits specs) :
    visited x / 7 = x.1.1.point := by
  have hpos := ((mem_visits specs x.1 x.2).mp h).2
  simp only [visited, channelOf]
  omega

/-- R1: windows of different points have different channels. -/
theorem visited_nodup (specs : List PointSpectra) (h : (specs.map (fun p => p.1.point)).Nodup) :
    ((visits specs).map visited).Nodup := by
  rw [visits, List.map_flatMap, List.nodup_flatMap]
  refine ⟨fun p _ => ?_, ?_⟩
  · rw [List.map_map]
    exact List.nodup_range.map fun i j e => by simpa [visited, channelOf] using e
  · refine (List.pairwise_map.mp h).imp fun {p q} hne => ?_
    simp only [Function.onFun, List.disjoint_left, List.map_map, List.mem_map, List.mem_range, Function.comp_apply,
      visited, channelOf]
    rintro _ ⟨i, hi, rfl⟩ ⟨j, hj, e⟩
    omega

/-- The states differ in their channels and their order unit alone, and have as many channels. -/
def sameButChannels (s t : State) : Prop :=
  ∃ cs o, t = { s with channels := cs, orders := o } ∧ cs.length = s.channels.length

theorem sameButChannels.refl (s : State) : sameButChannels s s := ⟨s.channels, s.orders, rfl, rfl⟩

theorem sameButChannels.trans {s t u : State} (h : sameButChannels s t) (h' : sameButChannels t u) :
    sameButChannels s u := by
  obtain ⟨cs, o, rfl, hl⟩ := h
  obtain ⟨cs', o', rfl, hl'⟩ := h'
  exact ⟨cs', o', rfl, hl'.trans hl⟩

theorem sameButChannels_takeRms (p : PointSpectra) (pos : Nat) (s : State) : sameButChannels s (takeRms p pos s) :=
  ⟨_, s.orders, rfl, List.length_set⟩

theorem sameButChannels_takeCalibration (d : DecompWindow) (p : PointSpectra) (pos : Nat) (s : State) :
    sameButChannels s (takeCalibration d p pos s) := by
  obtain ⟨c, o, eq, -⟩ := calibrationStep_spec (channelOf p.1.point pos) d.number (windowLen s.tb.nom60)
    (positionRms s.tb.nom60 p pos) d.cap.cfg.idleFloor (rawSum p.1 pos) s
  exact ⟨_, o, eq, List.length_set⟩

theorem sameButChannels_forPositions (specs : List PointSpectra) (f : PointSpectra → Nat → State → State)
    (h : ∀ p pos t, sameButChannels t (f p pos t)) (s : State) :
    sameButChannels s (forPositions specs (List.range 7) f s) := by
  rw [forPositions_eq_foldl]
  exact foldl_keeps (sameButChannels s) _ (fun t x ht => ht.trans (h x.1 x.2 t)) _ s (.refl s)

/-- R47: the RMS of a position goes to its own channel alone. -/
theorem channel_takeRms_of_ne (p : PointSpectra) (pos c : Nat) (t : State) (h : c ≠ channelOf p.1.point pos) :
    (takeRms p pos t).channel c = t.channel c := channel_setChannel_of_ne t _ c _ h

/-- R23: the calibration step of a position is its own channel's alone. -/
theorem channel_takeCalibration_of_ne (d : DecompWindow) (p : PointSpectra) (pos c : Nat) (t : State)
    (h : c ≠ channelOf p.1.point pos) : (takeCalibration d p pos t).channel c = t.channel c :=
  channel_calibrationStep_of_ne _ c _ _ _ _ _ t h

/-! ## The channels after the visits -/

/-- A channel of none of the window's points stays. -/
theorem channel_forPositions_unvisited (specs : List PointSpectra) (f : PointSpectra → Nat → State → State)
    (other : ∀ p pos c t, c ≠ channelOf p.1.point pos → (f p pos t).channel c = t.channel c) (c : Nat)
    (h : ∀ p ∈ specs, c / 7 ≠ p.1.point) (s : State) :
    (forPositions specs (List.range 7) f s).channel c = s.channel c := by
  rw [forPositions_eq_foldl]
  refine channel_foldl_unvisited _ visited (fun t x c => other x.1 x.2 c t) c _ s fun hmem => ?_
  obtain ⟨x, hx, rfl⟩ := List.mem_map.mp hmem
  exact h x.1 ((mem_visits specs x.1 x.2).mp hx).1 (visited_div x specs hx)

/-- A channel of one of the window's points has what its visit makes of it. -/
theorem channel_forPositions_visited (specs : List PointSpectra) (f : PointSpectra → Nat → State → State)
    (same : ∀ p pos t, sameButChannels t (f p pos t))
    (other : ∀ p pos c t, c ≠ channelOf p.1.point pos → (f p pos t).channel c = t.channel c)
    (hnodup : (specs.map (fun p => p.1.point)).Nodup) (p : PointSpectra) (hp : p ∈ specs) (pos : Nat) (hpos : pos < 7)
    (s : State) (c₁ : Channel)
    (visit : ∀ t, sameButChannels s t → t.channel (channelOf p.1.point pos) = s.channel (channelOf p.1.point pos) →
      (f p pos t).channel (channelOf p.1.point pos) = c₁) :
    (forPositions specs (List.range 7) f s).channel (channelOf p.1.point pos) = c₁ := by
  rw [forPositions_eq_foldl]
  exact channel_foldl_visited _ visited (sameButChannels s) (fun t x ht => ht.trans (same x.1 x.2 t))
    (fun t x c => other x.1 x.2 c t) (p, pos) _ c₁ visit _ ((mem_visits specs p pos).mpr ⟨hp, hpos⟩)
    (visited_nodup specs hnodup) s (.refl s) rfl

/-- R47: the last window RMS of a channel of the window. -/
theorem channel_takeRms (specs : List PointSpectra) (hnodup : (specs.map (fun p => p.1.point)).Nodup)
    (p : PointSpectra) (hp : p ∈ specs) (pos : Nat) (hpos : pos < 7) (s : State)
    (hlt : channelOf p.1.point pos < s.channels.length) :
    (forPositions specs (List.range 7) takeRms s).channel (channelOf p.1.point pos) =
      { s.channel (channelOf p.1.point pos) with lastRms := positionRms s.tb.nom60 p pos } := by
  refine channel_forPositions_visited specs takeRms sameButChannels_takeRms channel_takeRms_of_ne hnodup p hp pos hpos s _ ?_
  rintro _ ⟨cs, o, rfl, hl⟩ hc
  rw [takeRms, channel_setChannel_self _ _ _ (by rw [← hl] at hlt; exact hlt), hc]

/-- R23: the calibration step of a channel of the window, from a state that differs from `s` in the channel's last window
RMS and in nothing else that a step reads. -/
theorem channel_takeCalibration (d : DecompWindow) (specs : List PointSpectra)
    (hnodup : (specs.map (fun p => p.1.point)).Nodup) (p : PointSpectra) (hp : p ∈ specs) (pos : Nat) (hpos : pos < 7)
    (s u : State) (r : Nat) (hs : channelOf p.1.point pos < s.channels.length)
    (hu : channelOf p.1.point pos < u.channels.length) (hnom : u.tb.nom60 = s.tb.nom60) (hm : measuring u = measuring s)
    (hc : u.channel (channelOf p.1.point pos) = { s.channel (channelOf p.1.point pos) with lastRms := r }) :
    (forPositions specs (List.range 7) (takeCalibration d) u).channel (channelOf p.1.point pos) =
      { (takeCalibration d p pos s).channel (channelOf p.1.point pos) with lastRms := r } := by
  refine channel_forPositions_visited specs (takeCalibration d) (sameButChannels_takeCalibration d)
    (channel_takeCalibration_of_ne d) hnodup p hp pos hpos u _ ?_
  rintro _ ⟨cs, o, rfl, hl⟩ ht
  simp only [takeCalibration, hnom]
  exact channel_calibrationStep_lastRms _ _ _ _ _ r _ s _ hs (by rw [← hl] at hu; exact hu) hm (ht.trans hc)

/-! ## The state after a decomposition -/

/-- The windows of the decomposing half with their spectra. -/
def decompSpecs (nom60 : Bool) (d : DecompWindow) : List PointSpectra := d.points.map (fun w => (w, pointSpectra nom60 w))

/-- R63, R64: the results of the window in the decomposing half, the aggregate point's last. -/
def decompResults (nom60 : Bool) (d : DecompWindow) : List WinResult :=
  let metering := (decompSpecs nom60 d).map (fun p => pointResult nom60 d p.1 p.2)
  metering ++ (aggregateResult d metering).toList

theorem decompResults_eq (nom60 : Bool) (d : DecompWindow) :
    decompResults nom60 d = d.points.map (fun w => pointResult nom60 d w (pointSpectra nom60 w)) ++
      (aggregateResult d (d.points.map (fun w => pointResult nom60 d w (pointSpectra nom60 w)))).toList := by
  simp only [decompResults, decompSpecs, List.map_map, Function.comp_def]

/-- The state once the results are taken, before the calibrations. -/
def resultsTaken (d : DecompWindow) (s : State) : State :=
  statTakeWindow d.cap.cfg (decompResults s.tb.nom60 d) (acctTakeWindow d (decompResults s.tb.nom60 d)
    (takeVerdict d (decompResults s.tb.nom60 d) (forPositions (decompSpecs s.tb.nom60 d) (List.range 7) takeRms
      { s with spectral := { s.spectral with decomposing := none } })))

theorem decompose_eq (s : State) (d : DecompWindow) (hd : s.spectral.decomposing = some d) :
    decompose s = pushDue (dueAfterResults d (decompSpecs s.tb.nom60 d) (monitorSteps d (decompResults s.tb.nom60 d) s)
        (forPositions (decompSpecs s.tb.nom60 d) (List.range 7) (takeCalibration d) (resultsTaken d s)))
      (forPositions (decompSpecs s.tb.nom60 d) (List.range 7) (takeCalibration d) (resultsTaken d s)) := by
  unfold decompose
  rw [hd]
  rfl

theorem takeVerdict_none (d : DecompWindow) (results : List WinResult) (s : State) (h : d.verdict = none) :
    takeVerdict d results s = s := by
  simp [takeVerdict, h]

/-- R37: what the amplitude test looks at: the fundamental of the first voltage of the reference point. -/
def referenceAmplitude (d : DecompWindow) (results : List WinResult) : Nat :=
  match results.find? (fun r => r.point = d.cap.cfg.refPoint) with
  | some r => (r.groupV.getD 0 []).getD 0 0
  | none => 0

theorem takeVerdict_some (d : DecompWindow) (results : List WinResult) (s : State) (m : Measured)
    (h : d.verdict = some m) : takeVerdict d results s = { s with tb := { s.tb with
      pendingVerdict := some (amplitudeVerdict m (referenceAmplitude d results))
      lastVerdict := (amplitudeVerdict m (referenceAmplitude d results)).verdict
      lastMeasured := m.pace.getD 0 } } := by
  have pace : (amplitudeVerdict m (referenceAmplitude d results)).pace = m.pace := by rw [amplitudeVerdict_eq]
  rw [← pace]
  simp only [takeVerdict, h]
  rfl

/-- R37: a verdict reaches the timebase alone, and asks nothing of the rest of the state. -/
theorem takeVerdict_tb (d : DecompWindow) (results : List WinResult) (s t : State) (h : t.tb = s.tb) :
    takeVerdict d results t = { t with tb := (takeVerdict d results s).tb } := by
  rcases hv : d.verdict with _ | m
  · rw [takeVerdict_none _ _ _ hv, takeVerdict_none _ _ _ hv, ← h]
  · rw [takeVerdict_some d results _ m hv, takeVerdict_some d results _ m hv, h]

theorem takeVerdict_nom60 (d : DecompWindow) (results : List WinResult) (s : State) :
    (takeVerdict d results s).tb.nom60 = s.tb.nom60 := by
  rcases hv : d.verdict with _ | m
  · rw [takeVerdict_none _ _ _ hv]
  · rw [takeVerdict_some d results _ m hv]

/-- R47: what the results leave before the calibrations. -/
theorem resultsTaken_spec (d : DecompWindow) (s : State) : ∃ cs o, cs.length = s.channels.length ∧
    (∀ c, (∀ p ∈ decompSpecs s.tb.nom60 d, c / 7 ≠ p.1.point) → cs.getD c {} = s.channel c) ∧
    (((decompSpecs s.tb.nom60 d).map (fun p => p.1.point)).Nodup → ∀ p ∈ decompSpecs s.tb.nom60 d, ∀ pos < 7,
      channelOf p.1.point pos < s.channels.length → cs.getD (channelOf p.1.point pos) {} =
        { s.channel (channelOf p.1.point pos) with lastRms := positionRms s.tb.nom60 p pos }) ∧
    resultsTaken d s = { s with
      channels := cs, orders := o
      spectral := { s.spectral with decomposing := none }
      tb := (takeVerdict d (decompResults s.tb.nom60 d) s).tb
      acct := (acctTakeWindow d (decompResults s.tb.nom60 d) s).acct
      stats := { s.stats with accs := accsAfter d.cap.cfg (decompResults s.tb.nom60 d) s.stats } } := by
  obtain ⟨s0, hs0⟩ : ∃ s0 : State, s0 = { s with spectral := { s.spectral with decomposing := none } } := ⟨_, rfl⟩
  obtain ⟨cs, o, eq, hl⟩ := sameButChannels_forPositions (decompSpecs s.tb.nom60 d) takeRms sameButChannels_takeRms s0
  have channel (c : Nat) : cs.getD c {} =
      (forPositions (decompSpecs s.tb.nom60 d) (List.range 7) takeRms s0).channel c := by rw [eq]; rfl
  refine ⟨cs, o, by rw [hl, hs0], fun c hc => ?_, fun hnodup p hp pos hpos hlt => ?_, ?_⟩
  · rw [channel, channel_forPositions_unvisited _ takeRms channel_takeRms_of_ne c hc, hs0]
    rfl
  · rw [channel, channel_takeRms _ hnodup p hp pos hpos s0 (by rw [hs0]; exact hlt), hs0]
    rfl
  · rw [resultsTaken, ← hs0, eq, takeVerdict_tb d _ s _ (by rw [hs0]), statTakeWindow_eq, hs0]
    rfl

/-- What the completion of a decomposition leaves, every field of the state: the channels of the window have their RMS and
their calibration step. -/
theorem decompose_spec (s : State) (d : DecompWindow) (hd : s.spectral.decomposing = some d) : ∃ cs o,
    (∀ c, (∀ p ∈ decompSpecs s.tb.nom60 d, c / 7 ≠ p.1.point) → cs.getD c {} = s.channel c) ∧
    (((decompSpecs s.tb.nom60 d).map (fun p => p.1.point)).Nodup → ∀ p ∈ decompSpecs s.tb.nom60 d, ∀ pos < 7,
      channelOf p.1.point pos < s.channels.length → cs.getD (channelOf p.1.point pos) {} =
        { (takeCalibration d p pos s).channel (channelOf p.1.point pos) with
          lastRms := positionRms s.tb.nom60 p pos }) ∧
    decompose s = { s with
      channels := cs, orders := o
      spectral := { s.spectral with decomposing := none }
      tb := (takeVerdict d (decompResults s.tb.nom60 d) s).tb
      acct := (acctTakeWindow d (decompResults s.tb.nom60 d) s).acct
      stats := { s.stats with accs := accsAfter d.cap.cfg (decompResults s.tb.nom60 d) s.stats }
      due := dueAfterResults d (decompSpecs s.tb.nom60 d) (monitorSteps d (decompResults s.tb.nom60 d) s) s ++ s.due } := by
  obtain ⟨cs₁, o₁, hl₁, unvisited₁, visited₁, taken⟩ := resultsTaken_spec d s
  obtain ⟨u, hu⟩ : ∃ u, u = resultsTaken d s := ⟨_, rfl⟩
  obtain ⟨cs, o, eq, hl⟩ := sameButChannels_forPositions (decompSpecs s.tb.nom60 d) (takeCalibration d)
    (sameButChannels_takeCalibration d) u
  have channel (c : Nat) : cs.getD c {} =
      (forPositions (decompSpecs s.tb.nom60 d) (List.range 7) (takeCalibration d) u).channel c := by rw [eq]; rfl
  have channel₁ (c : Nat) : u.channel c = cs₁.getD c {} := by rw [hu, taken]; rfl
  have nom60 : u.tb.nom60 = s.tb.nom60 := by
    rw [hu, taken]
    exact takeVerdict_nom60 d _ s
  refine ⟨cs, o, fun c hc => ?_, fun hnodup p hp pos hpos hlt => ?_, ?_⟩
  · rw [channel, channel_forPositions_unvisited _ _ (channel_takeCalibration_of_ne d) c hc, channel₁, unvisited₁ c hc]
  · rw [channel]
    refine channel_takeCalibration d _ hnodup p hp pos hpos s u _ hlt ?_ nom60 ?_ ?_
    · rw [hu, taken]
      exact hl₁ ▸ hlt
    · rw [hu, taken]
      rfl
    · rw [channel₁, visited₁ hnodup p hp pos hpos hlt]
  · rw [decompose_eq s d hd, ← hu, eq, pushDue, dueAfterResults, dueAfterResults]
    simp only [nom60]
    rw [hu, taken]
    rfl

/-! ## What follows (R21, R84, R123, R125) -/

theorem rawSum_eq (w : PointWindow) (pos : Nat) : rawSum w pos = (w.slots.map (fun sl => (sl.ch.getD pos {}).raw)).sum := by
  rw [List.sum_eq_foldl, List.foldl_map]
  rfl

/-- R21: no sample of the position was substituted. -/
theorem not_anySubstituted (w : PointWindow) (pos : Nat) :
    (!anySubstituted w pos) = w.slots.all (fun sl => (sl.ch.getD pos {}).good) := by
  simp [anySubstituted, List.not_any_eq_all_not]

theorem idleSteps_eq (nom60 : Bool) (d : DecompWindow) : idleSteps nom60 d (decompSpecs nom60 d) =
    d.points.flatMap (fun w => [3, 4, 5, 6].map (fun pos =>
      Due.idle (Fin.ofNat 28 (7 * w.point + pos))
        (decide (totalRms nom60 ((pointSpectra nom60 w).getD pos []) < d.cap.cfg.idleFloor) &&
          w.slots.all (fun sl => (sl.ch.getD pos {}).good) && !(w.stuck.getD pos false))
        (roundHalfAway (w.slots.map (fun sl => (sl.ch.getD pos {}).raw)).sum (windowLen nom60)))) := by
  simp only [idleSteps, decompSpecs, List.flatMap_map, windowIdle, not_anySubstituted, rawSum_eq, positionRms, channelOf]
  rfl

theorem waitingCaptures_eq (s : State) : waitingCaptures s =
    (s.port.snapshots.filter (fun p => p.image = none)).map (fun p => Due.snapCapture p.entry) := by
  have waits (p : Snapshot) : p.image.isNone = decide (p.image = none) := by cases p.image <;> simp
  simp only [waitingCaptures, waits]

/-! ## The command -/

theorem exec_decompositionComplete (dt : Nat) (s : State) (h : quiet s) :
    exec (.decompositionComplete dt) s = .next (advance (completeDecomposition (elapse dt s))) := by
  obtain ⟨running, due⟩ := h
  exact congrArg Host.Outcome.next (fromOutside_quiet dt completeDecomposition s running due)

/-- log 3: with no decomposition in progress only time passes. -/
theorem exec_decompositionComplete_none (dt : Nat) (s : State) (h : quiet s) (hd : s.spectral.decomposing = none) :
    exec (.decompositionComplete dt) s = .next (elapse dt s) := by
  have idle : completeDecomposition (elapse dt s) = elapse dt s := by simp [completeDecomposition, hd]
  rw [exec_decompositionComplete dt s h, idle, advance_nil _ (by simpa using h.2)]

theorem exec_decompositionComplete_now (dt : Nat) (s : State) (h : quiet s) (d : DecompWindow)
    (hd : s.spectral.decomposing = some d) (he : s.event = none) :
    exec (.decompositionComplete dt) s = .next (advance { elapse dt s with due := [.decompose] }) := by
  have due : s.due = [] := h.2
  have now : completeDecomposition (elapse dt s) = { elapse dt s with due := [.decompose] } := by
    simp [completeDecomposition, hd, orDefer, he, pushDue, due]
  rw [exec_decompositionComplete dt s h, now]

/-- log 9: with an event in hand it follows when the event ends. -/
theorem exec_decompositionComplete_deferred (dt : Nat) (s : State) (h : quiet s) (d : DecompWindow) (ev : Event)
    (hd : s.spectral.decomposing = some d) (he : s.event = some ev) :
    exec (.decompositionComplete dt) s = .next { elapse dt s with
      event := some { ev with deferred := ev.deferred ++ [.asOf (some (s.tick + dt)), .decompose] } } := by
  have later : completeDecomposition (elapse dt s) = { elapse dt s with
      event := some { ev with deferred := ev.deferred ++ [.asOf (some (s.tick + dt)), .decompose] } } := by
    simp [completeDecomposition, hd, orDefer, he, modEvent]
  rw [exec_decompositionComplete dt s h, later, advance_nil _ (by simpa using h.2)]

/-! ## The statement -/

theorem takeCalibration_points (s : State) (d : DecompWindow) (w : PointWindow) (pos : Nat) :
    takeCalibration d (w, pointSpectra s.tb.nom60 w) pos s =
      calibrationStep (7 * w.point + pos) d.number (windowLen s.tb.nom60)
        (totalRms s.tb.nom60 ((pointSpectra s.tb.nom60 w).getD pos [])) d.cap.cfg.idleFloor
        (w.slots.map (fun sl => (sl.ch.getD pos {}).raw)).sum s := by
  simp only [takeCalibration, positionRms, rawSum_eq, channelOf]

/-- Settles O40: the command by what is in hand, the state that `decompose_spec` gives, and the figures of one verdict, one
mean, one calibration and one accumulator. -/
theorem decompositionHandsItsResultsOn : Obligations.DecompositionHandsItsResultsOn := by
  refine ⟨fun s dt h => ⟨exec_decompositionComplete_none dt s h, exec_decompositionComplete_now dt s h,
    exec_decompositionComplete_deferred dt s h⟩, fun s d hd => ?_, amplitudeVerdict_eq, fun n k _ => roundHalfAway_eq n k,
    fun s ch number n rms floor sum hlt => ?_, ?_⟩
  · obtain ⟨cs, o, unvisited, visited, eq⟩ := decompose_spec s d hd
    have point_of {p : PointSpectra} (hp : p ∈ decompSpecs s.tb.nom60 d) : ∃ w ∈ d.points, w.point = p.1.point := by
      obtain ⟨w, hw, rfl⟩ := List.mem_map.mp hp
      exact ⟨w, hw, rfl⟩
    refine ⟨_, _, _, rfl, rfl, rfl, ?_⟩
    rw [microStep_decompose, eq, ← decompResults_eq]
    refine ⟨rfl, rfl, rfl, rfl, rfl, rfl, rfl, fun hv => ?_, fun m hv => ?_, rfl, rfl, rfl, rfl, rfl, rfl, rfl, rfl,
      ?_, ?_, ?_⟩
    · exact (congrArg State.tb (takeVerdict_none d _ s hv) :)
    · exact (congrArg State.tb (takeVerdict_some d _ s m hv) :)
    · rintro hl hnodup hpoints w hw pos hpos _ _ rfl rfl
      have small := hpoints w hw
      have stepped := visited (by simpa [decompSpecs, Function.comp_def] using hnodup) (w, pointSpectra s.tb.nom60 w)
        (List.mem_map_of_mem hw) pos hpos (by simp only [channelOf, hl]; omega)
      rwa [takeCalibration_points] at stepped
    · intro ch hch
      refine unvisited ch fun p hp => ?_
      obtain ⟨w, hw, hwp⟩ := point_of hp
      exact hwp ▸ hch w hw
    · simp only [dueAfterResults, idleSteps_eq, waitingCaptures_eq]
      rfl
  · refine ⟨calibrationStep_none ch number n rms floor sum s, fun c hc => ⟨fun hn => ?_, fun h0 h5 hl => ?_,
      fun h0 h4 hl => ?_, fun h4 hl o ho => ?_⟩⟩
    · refine calibrationStep_unmeasured hc ?_
      rw [Bool.eq_false_iff, Ne, measures_iff]
      omega
    · exact calibrationStep_loadPresent hc ((measures_iff c number).mpr ⟨h0, h5⟩) hl
    · exact calibrationStep_adds hc ((measures_iff c number).mpr ⟨h0, by omega⟩) hl (by omega)
    · rw [ho, ← clampInt_eq _ _ _ (by norm_num)]
      exact calibrationStep_completes hc hl h4
  · rintro limits cfg r a _ rfl
    refine ⟨?_, fun h => ?_, fun hc hl hp => ?_, fun hc hl hp => ?_⟩
    · obtain ⟨_, _, _, _, _, _, _, _, eq⟩ := takeResult_counts limits cfg r a
      rw [eq]
      refine ⟨rfl, rfl, rfl, rfl, rfl, rfl, rfl, rfl, rfl, rfl, rfl, rfl, fun ha hr => ?_, rfl,
        fun h0 => ?_, fun h0 => ?_⟩
      · exact ⟨(orBools_length _ _ (ha.trans hr.symm)).trans ha, orBools_getD _ _ (ha.trans hr.symm)⟩
      · simp [countWindow, h0]
      · simp [countWindow, h0]
    · rw [takeResult_excluded limits cfg r a h]
      exact ⟨rfl, rfl, rfl, rfl, rfl, rfl, rfl, rfl⟩
    · rw [takeResult_metering limits cfg r a hc hl hp]
      obtain ⟨current, noCurrent, voltage, noVoltage⟩ := includeWindow_ratios limits (cfg.point r.point).contracted r
        (countWindow r a) _ rfl
      refine ⟨rfl, List.length_mapIdx, ?_, rfl, current, noCurrent, voltage, noVoltage, rfl⟩
      rintro j hj _ rfl
      exact includeWindow_order limits _ r (countWindow r a) j hj
    · rw [takeResult_aggregate limits cfg r a hc hl hp]
      exact ⟨rfl, List.length_mapIdx, includeAggregate_order r (countWindow r a), rfl, rfl, rfl, rfl, rfl, rfl⟩

end Sys2Proof.Machine
end

section
/-! PROOF. The energy registers: the quantities that a result feeds, and how a register takes a contribution (O54). -/

namespace Sys2Proof.Machine

/-! ## The quantities (R70, R71) -/

/-- R70: the active quantity by the sign of P1, the reactive one by both signs, each with its magnitude. -/
theorem fundamentalFeeds_table (p q : Int) :
    (0 ≤ p → 0 < q → fundamentalFeeds p q = [(0, p.natAbs), (2, q.natAbs)]) ∧
    (p < 0 → 0 < q → fundamentalFeeds p q = [(1, p.natAbs), (3, q.natAbs)]) ∧
    (p < 0 → q < 0 → fundamentalFeeds p q = [(1, p.natAbs), (4, q.natAbs)]) ∧
    (0 ≤ p → q < 0 → fundamentalFeeds p q = [(0, p.natAbs), (5, q.natAbs)]) ∧
    (0 ≤ p → q = 0 → fundamentalFeeds p q = [(0, p.natAbs)]) ∧
    (p < 0 → q = 0 → fundamentalFeeds p q = [(1, p.natAbs)]) := by
  have kept : ∀ v : Int, 0 ≤ v → v.toNat = v.natAbs := by omega
  have turned : ∀ v : Int, v < 0 → (-v).toNat = v.natAbs := by omega
  refine ⟨fun hp hq => ?_, fun hp hq => ?_, fun hp hq => ?_, fun hp hq => ?_, fun hp hq => ?_, fun hp hq => ?_⟩
  · simp [fundamentalFeeds, hp, hq, kept p hp, kept q hq.le]
  · simp [fundamentalFeeds, hp, hq, turned p hp, kept q hq.le]
  · simp [fundamentalFeeds, hq, hp.not_ge, hq.not_gt, turned p hp, turned q hq]
  · simp [fundamentalFeeds, hp, hq, hq.not_gt, kept p hp, turned q hq]
  · simp [fundamentalFeeds, hp, hq, kept p hp]
  · simp [fundamentalFeeds, hp, hq, turned p hp]

theorem sum_toNat (l : List Int) : ((l.map Int.toNat).sum : Nat) = ((l.filter (fun v => 0 < v)).sum : Int) := by
  induction l with
  | nil => rfl
  | cons v l ih =>
    by_cases h : 0 < v
    · simp [h, ih, h.le]
    · simp [h, ih, Int.not_lt.mp h]

theorem sum_neg_toNat (l : List Int) :
    ((l.map (fun v => (-v).toNat)).sum : Nat) = -((l.filter (fun v => v < 0)).sum : Int) := by
  induction l with
  | nil => rfl
  | cons v l ih =>
    rw [List.map_cons, List.sum_cons, Nat.cast_add, ih]
    by_cases h : v < 0
    · simp [h, h.le]; ring
    · simp [h, Int.not_lt.mp h]

/-! ## The register update (R72 to R74) -/

theorem takeEnergy_missing (d : Nat) (regs : List Reg) (r : WinResult) (h : r.cls = .missing) :
    takeEnergy d regs r = regs := by
  simp [takeEnergy, contributes, h]

theorem takeEnergy_contributes (d : Nat) (regs : List Reg) (r : WinResult) (h : r.cls ≠ .missing) :
    takeEnergy d regs r = (feeds r).foldl (feedRegister d r.point r.record.slot r.record.duration) regs := by
  simp [takeEnergy, contributes, h]

/-- R69, R73: a quantity goes to its own register alone. -/
theorem feedRegister_getD_of_ne (d point slot duration i : Nat) (regs : List Reg) (f : Nat × Nat)
    (h : i ≠ regIndex point slot f.1) : (feedRegister d point slot duration regs f).getD i {} = regs.getD i {} := by
  simp [feedRegister, h.symm]

theorem feedRegister_getD_self (d point slot duration : Nat) (regs : List Reg) (f : Nat × Nat)
    (h : regIndex point slot f.1 < regs.length) :
    (feedRegister d point slot duration regs f).getD (regIndex point slot f.1) {} =
      Reg.add d (f.2 * duration) (regs.getD (regIndex point slot f.1) {}) := by
  simp [feedRegister, h]

theorem foldl_feedRegister_getD_of_ne (d point slot duration i : Nat) (fs : List (Nat × Nat)) (regs : List Reg)
    (h : ∀ f ∈ fs, i ≠ regIndex point slot f.1) :
    (fs.foldl (feedRegister d point slot duration) regs).getD i {} = regs.getD i {} := by
  induction fs generalizing regs with
  | nil => rfl
  | cons f fs ih =>
    obtain ⟨first, others⟩ := List.forall_mem_cons.mp h
    rw [List.foldl_cons, ih _ others, feedRegister_getD_of_ne d point slot duration i regs f first]

/-- R72: the registers that no quantity of a result names stay. -/
theorem takeEnergy_getD_of_ne (d i : Nat) (regs : List Reg) (r : WinResult)
    (h : ∀ f ∈ feeds r, i ≠ regIndex r.point r.record.slot f.1) : (takeEnergy d regs r).getD i {} = regs.getD i {} := by
  by_cases hc : r.cls = .missing
  · rw [takeEnergy_missing d regs r hc]
  · rw [takeEnergy_contributes d regs r hc, foldl_feedRegister_getD_of_ne d _ _ _ i _ regs h]

theorem Reg.add_count (d e : Nat) (r : Reg) :
    (Reg.add d e r).count.toNat = (r.count.toNat + (r.residue + e) / d) % 2 ^ 64 := by
  simp [Reg.add]

/-- What a register stands for in reu (R74). -/
def Reg.energy (d : Nat) (r : Reg) : Nat := r.count.toNat * d + r.residue

/-- R74: no part of a contribution is lost, but for the wrap of the count. -/
theorem Reg.energy_add (d e : Nat) (r : Reg) : Reg.energy d (Reg.add d e r) ≡ Reg.energy d r + e [MOD 2 ^ 64 * d] := by
  have wraps : (r.count.toNat + (r.residue + e) / d) % 2 ^ 64 * d ≡ (r.count.toNat + (r.residue + e) / d) * d
      [MOD 2 ^ 64 * d] := (Nat.mod_modEq _ _).mul_right' d
  calc Reg.energy d (Reg.add d e r)
      = (r.count.toNat + (r.residue + e) / d) % 2 ^ 64 * d + (r.residue + e) % d := by rw [Reg.energy, Reg.add_count]; rfl
    _ ≡ (r.count.toNat + (r.residue + e) / d) * d + (r.residue + e) % d [MOD 2 ^ 64 * d] := wraps.add_right _
    _ = r.count.toNat * d + (d * ((r.residue + e) / d) + (r.residue + e) % d) := by ring
    _ = Reg.energy d r + e := by rw [Nat.div_add_mod, Reg.energy, Nat.add_assoc]

/-- R74 over any list of contributions. -/
theorem foldl_add_exact (d : Nat) (hd : 0 < d) (es : List Nat) (r : Reg) (hr : r.residue < d) :
    (es.foldl (fun r e => Reg.add d e r) r).residue < d ∧
      Reg.energy d (es.foldl (fun r e => Reg.add d e r) r) ≡ Reg.energy d r + es.sum [MOD 2 ^ 64 * d] := by
  induction es generalizing r with
  | nil => exact ⟨hr, Nat.ModEq.refl _⟩
  | cons e es ih =>
    obtain ⟨residue, energy⟩ := ih (Reg.add d e r) (Nat.mod_lt _ hd)
    refine ⟨residue, energy.trans ?_⟩
    rw [List.sum_cons, ← Nat.add_assoc]
    exact (Reg.energy_add d e r).add_right _

/-! ## The statement -/

/-- Settles O54: the table of R70 by the signs, the harmonic sums by induction, and the register update by its exactness
over a list of contributions. -/
theorem registersTakeTheirContributions : Obligations.RegistersTakeTheirContributions := by
  refine ⟨⟨fundamentalFeeds_table, fun r => ?_, fun d regs r => ⟨takeEnergy_missing d regs r, takeEnergy_contributes d regs r⟩,
    takeEnergy_getD_of_ne⟩, fun d e r => ⟨Reg.add_count d e r, rfl⟩, fun d es r hd hr => foldl_add_exact d hd es r hr,
    fun d e x hd hx he => ?_, fun d point slot duration i regs f hi => ?_⟩
  · exact ⟨_, _, _, rfl, sum_toNat _, sum_neg_toNat _, rfl⟩
  · have total : x + e < 2 ^ 96 := by omega
    refine ⟨total, Nat.div_lt_of_lt_mul (total.trans_le ?_)⟩
    calc 2 ^ 96 = 2 ^ 32 * 2 ^ 64 := by norm_num
      _ ≤ d * 2 ^ 64 := Nat.mul_le_mul_right _ hd
  · split
    · next h =>
      subst h
      exact feedRegister_getD_self d point slot duration regs f hi
    · next h => exact feedRegister_getD_of_ne d point slot duration i regs f h

end Sys2Proof.Machine
end

section
/-! PROOF. What the accounting unit makes of a close, and interval demand (O55). -/

namespace Sys2Proof.Machine

/-! ## A finished close (R78 to R83) -/

theorem mem_filePoints_le (enabled members p : Nat) (h : p ∈ filePoints enabled members) : p ≤ 4 := by
  have point : p ∈ [0, 1, 2, 3] ∨ p = 4 := by
    rcases List.mem_append.mp h with low | aggregate
    · exact .inl (List.mem_filter.mp low).1
    · split at aggregate
      · cases aggregate
      · exact .inr (List.mem_singleton.mp aggregate)
  simp only [List.mem_cons, List.not_mem_nil, or_false] at point
  omega

/-- R82: the demand table once the parts of a close have entered it, and before any demand reset. -/
def demandEntered (a : Accounting) (c : Close) : List DemandEntry :=
  (c.points.map (acctPart a c)).foldl (raiseDemand c) a.demand

theorem acctFinish_parts (a : Accounting) (c : Close) : (acctFinish a c).1.1 = c.points.map (acctPart a c) := rfl

theorem acctFinish_demandParts (a : Accounting) (c : Close) : (acctFinish a c).1.2 =
    if c.causes.getLsbD 6 then c.points.map (demandPart (demandEntered a c)) else [] := rfl

theorem acctFinish_demand (a : Accounting) (c : Close) : (acctFinish a c).2.demand =
    if c.causes.getLsbD 6 then List.replicate 40 ({} : DemandEntry) else demandEntered a c := by
  simp only [acctFinish]
  split <;> rfl

theorem mem_acctFinish_parts (a : Accounting) (c : Close) (p : AcctPart) :
    p ∈ (acctFinish a c).1.1 ↔ ∃ n ∈ c.points, acctPart a c n = p := by
  rw [acctFinish_parts, List.mem_map]

/-! ## The demand table (R82) -/

/-- R82: an entry stays, or is replaced by a strictly greater demand of the close. -/
theorem DemandEntry.raise_cases (demand : Nat) (seq : Word64) (e : DemandEntry) :
    demand ≤ e.max ∧ DemandEntry.raise demand seq e = e ∨
      e.max < demand ∧ DemandEntry.raise demand seq e = { max := demand, seq := seq } := by
  unfold DemandEntry.raise
  split
  · next h => exact .inr ⟨h, rfl⟩
  · next h => exact .inl ⟨Nat.not_lt.mp h, rfl⟩

/-- The demand of a part by its number in the table (QI 0, A+ 1). -/
def AcctPart.demandOf (p : AcctPart) (d : Nat) : Nat := if d = 0 then p.demandQI else p.demandA

/-- The entry at an index holds a demand of a part of the close, with the close's number. -/
def holdsDemand (c : Close) (p : AcctPart) (i : Nat) (e : DemandEntry) : Prop :=
  p.excluded = false ∧ e.seq = c.seq ∧ ∃ d < 2, i = demandIndex p.point c.slot d ∧ e.max = p.demandOf d

theorem raiseDemand_getD (c : Close) (t : List DemandEntry) (p : AcctPart) (d : Nat) (hd : d < 2)
    (hp : p.excluded = false) (h : demandIndex p.point c.slot d < t.length) :
    (raiseDemand c t p).getD (demandIndex p.point c.slot d) {} =
      DemandEntry.raise (p.demandOf d) c.seq (t.getD (demandIndex p.point c.slot d) {}) := by
  unfold demandIndex at h ⊢
  interval_cases d
  · simp only [Nat.add_zero] at h ⊢
    simp [raiseDemand, hp, demandIndex, AcctPart.demandOf, h]
  · simp [raiseDemand, hp, demandIndex, AcctPart.demandOf, h]

theorem raiseDemand_getD_of_ne (c : Close) (t : List DemandEntry) (p : AcctPart) (i : Nat)
    (h : ∀ d < 2, i ≠ demandIndex p.point c.slot d) : (raiseDemand c t p).getD i {} = t.getD i {} := by
  unfold raiseDemand
  split
  · rfl
  · simp [(h 0 (by decide)).symm, (h 1 (by decide)).symm]

/-- One part leaves an entry as it was, or raises it to a demand of its own. -/
theorem raiseDemand_step (c : Close) (t : List DemandEntry) (p : AcctPart) (i : Nat) (hi : i < t.length) :
    (raiseDemand c t p).getD i {} = t.getD i {} ∨
      (t.getD i {}).max < ((raiseDemand c t p).getD i {}).max ∧ holdsDemand c p i ((raiseDemand c t p).getD i {}) := by
  by_cases hp : p.excluded = true
  · exact .inl (by simp [raiseDemand, hp])
  by_cases own : ∃ d < 2, i = demandIndex p.point c.slot d
  · obtain ⟨d, hd, rfl⟩ := own
    rw [Bool.not_eq_true] at hp
    rw [raiseDemand_getD c t p d hd hp hi]
    rcases DemandEntry.raise_cases (p.demandOf d) c.seq (t.getD _ {}) with ⟨-, e⟩ | ⟨lt, e⟩
    · exact .inl e
    · exact .inr (by rw [e]; exact ⟨lt, hp, rfl, d, hd, rfl, rfl⟩)
  · exact .inl (raiseDemand_getD_of_ne c t p i fun d hd e => own ⟨d, hd, e⟩)

/-- R82: an entry that the parts of a close change is raised to a demand of one of them. -/
theorem foldl_raiseDemand_changed (c : Close) (ps : List AcctPart) (t : List DemandEntry) (i : Nat) (hi : i < t.length) :
    (ps.foldl (raiseDemand c) t).getD i {} = t.getD i {} ∨
      ∃ p ∈ ps, (t.getD i {}).max < ((ps.foldl (raiseDemand c) t).getD i {}).max ∧
        holdsDemand c p i ((ps.foldl (raiseDemand c) t).getD i {}) := by
  induction ps generalizing t with
  | nil => exact .inl rfl
  | cons p ps ih =>
    rw [List.foldl_cons]
    rcases ih (raiseDemand c t p) (by rwa [raiseDemand_length]) with same | ⟨q, hq, lt, holds⟩
    · rw [same]
      exact (raiseDemand_step c t p i hi).imp id fun raised => ⟨p, List.mem_cons_self, raised⟩
    · refine .inr ⟨q, List.mem_cons_of_mem p hq, ?_, holds⟩
      rcases raiseDemand_step c t p i hi with e | ⟨lt', -⟩
      · rwa [e] at lt
      · exact lt'.trans lt

/-- R82: no maximum falls. -/
theorem foldl_raiseDemand_le (c : Close) (ps : List AcctPart) (t : List DemandEntry) (i : Nat) (hi : i < t.length) :
    (t.getD i {}).max ≤ ((ps.foldl (raiseDemand c) t).getD i {}).max := by
  rcases foldl_raiseDemand_changed c ps t i hi with e | ⟨_, _, lt, _⟩
  · rw [e]
  · exact lt.le

/-- R82: the entries of a part that is not excluded reach its demands. -/
theorem le_raiseDemand (c : Close) (t : List DemandEntry) (p : AcctPart) (d : Nat) (hd : d < 2)
    (hp : p.excluded = false) (h : demandIndex p.point c.slot d < t.length) :
    p.demandOf d ≤ ((raiseDemand c t p).getD (demandIndex p.point c.slot d) {}).max := by
  rw [raiseDemand_getD c t p d hd hp h]
  rcases DemandEntry.raise_cases (p.demandOf d) c.seq (t.getD _ {}) with ⟨le, e⟩ | ⟨-, e⟩
  · rwa [e]
  · rw [e]

theorem le_foldl_raiseDemand (c : Close) (ps : List AcctPart) (t : List DemandEntry) (p : AcctPart) (hm : p ∈ ps)
    (d : Nat) (hd : d < 2) (hp : p.excluded = false) (h : demandIndex p.point c.slot d < t.length) :
    p.demandOf d ≤ ((ps.foldl (raiseDemand c) t).getD (demandIndex p.point c.slot d) {}).max := by
  induction ps generalizing t with
  | nil => cases hm
  | cons q ps ih =>
    have h' : demandIndex p.point c.slot d < (raiseDemand c t q).length := by rwa [raiseDemand_length]
    rcases List.mem_cons.mp hm with rfl | hm
    · exact (le_raiseDemand c t p d hd hp h).trans (foldl_raiseDemand_le c ps _ _ h')
    · exact ih _ hm h'

theorem demandEntered_length (a : Accounting) (c : Close) : (demandEntered a c).length = a.demand.length :=
  foldl_keeps (fun l : List DemandEntry => l.length = a.demand.length) _
    (fun l p hl => (raiseDemand_length c l p).trans hl) _ _ rfl

/-! ## The statement -/

/-- R81. -/
theorem demandExcluded_iff (ms lengthMs : Nat) : demandExcluded ms lengthMs = true ↔ ms = 0 ∨ ms * 2 < lengthMs := by
  simp [demandExcluded]

/-- Settles O55: the figures of a part as they are defined, and the table entry by entry over the parts of the close. -/
theorem intervalDemandsRaiseTheTable : Obligations.IntervalDemandsRaiseTheTable := by
  rintro a c _ _ hlen hslot rfl rfl
  have part : ∀ p ∈ (acctFinish a c).1.1, p.point ≤ 4 ∧ p = acctPart a c p.point := fun p hp => by
    obtain ⟨n, hn, rfl⟩ := (mem_acctFinish_parts a c p).mp hp
    exact ⟨mem_filePoints_le _ _ n hn, rfl⟩
  have table := acctFinish_demand a c
  refine ⟨fun r => rfl, fun p hp => ?_, ?_, fun h => ?_, fun h => ⟨?_, ?_⟩⟩
  · obtain ⟨-, e⟩ := part p hp
    rw [e]
    exact ⟨rfl, rfl, demandExcluded_iff _ _⟩
  · rw [table]
    split
    · rfl
    · rw [demandEntered_length, hlen]
  · rw [h, if_neg Bool.false_ne_true] at table
    rw [acctFinish_demandParts, h, table]
    refine ⟨rfl, fun i hi => foldl_raiseDemand_le c _ _ i (hlen ▸ hi), fun p hp hx => ?_, fun i hi => ?_⟩
    · obtain ⟨low, -⟩ := part p hp
      have reaches : ∀ d < 2, p.demandOf d ≤ _ := fun d hd =>
        le_foldl_raiseDemand c _ a.demand p hp d hd hx (by rw [hlen, demandIndex]; omega)
      exact ⟨reaches 0 (by decide), reaches 1 (by decide)⟩
    · refine (foldl_raiseDemand_changed c _ _ i (hlen ▸ hi)).imp id ?_
      rintro ⟨p, hp, lt, hx, hseq, d, hd, at_d, held⟩
      refine ⟨p, hp, hx, lt, hseq, ?_⟩
      interval_cases d
      · exact .inl ⟨at_d, held⟩
      · exact .inr ⟨at_d, held⟩
  · rw [table, if_pos h]
  · rintro u rfl
    have kept : (c.causes &&& ~~~(1#10 <<< 6)).getLsbD 6 = false := by simp
    rw [acctFinish_demandParts, if_pos h, acctFinish_demand, if_neg (by rw [kept]; exact Bool.false_ne_true)]
    rfl

end Sys2Proof.Machine
end

section
/-! PROOF. Closes finish at the accounting and at the statistics unit (O41). -/

namespace Sys2Proof.Machine

/-! ## The accounting unit (R76, R78, R79, R87) -/

theorem endsRun_eq_true (c : Close) : endsRun c = true ↔ c.causes.getLsbD 8 = true ∨ c.causes.getLsbD 9 = true :=
  Bool.or_eq_true_iff

theorem endsRun_eq_false (c : Close) : endsRun c = false ↔ c.causes.getLsbD 8 = false ∧ c.causes.getLsbD 9 = false :=
  Bool.or_eq_false_iff

theorem acctFinish_closes (a : Accounting) (c : Close) : (acctFinish a c).2.closes = a.closes.drop 1 := by
  simp only [acctFinish]
  split <;> rfl

theorem acctFinish_regs (a : Accounting) (c : Close) : (acctFinish a c).2.regs = a.regs := by
  simp only [acctFinish]
  split <;> rfl

/-- R76: the next interval opens as the close finishes. -/
theorem acctFinish_opens (a : Accounting) (c : Close) (h : endsRun c = false) :
    (acctFinish a c).2.opening = a.regs.map (fun r => r.count) ∧ (acctFinish a c).2.measured = 0 := by
  simp [acctFinish, h, acctOpen]

/-- R87: after the close that ends its run nothing opens. -/
theorem acctFinish_stays (a : Accounting) (c : Close) (h : endsRun c = true) (hd : a.openDue = false) :
    (acctFinish a c).2.opening = a.opening ∧ (acctFinish a c).2.measured = a.measured := by
  simp [acctFinish, h, hd]

/-- R76, R79: the figures of a close part. -/
theorem acctPart_deltas (a : Accounting) (c : Close) (p : Nat) : (acctPart a c p).deltas.length = 36 ∧
    ∀ i < 36, (acctPart a c p).deltas.getD i 0 = (a.regs.getD (p * 36 + i) {}).count - a.opening.getD (p * 36 + i) 0 :=
  ⟨by simp [acctPart], fun i hi => by simp [acctPart, delta, hi]⟩

/-! ## The statistics unit (R112, R117, R118) -/

theorem statOpen_active (s : State) (cfg : Cfg) (h : s.store.active = some cfg) : statOpen s = { s with
    stats := { s.stats with
      accs := (filePoints cfg.enabledMask cfg.memberMask).map (emptyAcc cfg.reportFloor)
      limits := cfg.limits, openDue := false } } := by
  simp only [statOpen, h]

theorem statOpen_inactive (s : State) (h : s.store.active = none) : statOpen s = s := by
  simp only [statOpen, h]

/-- R118: a finished close leaves the unit, and the accumulators of the next interval open unless its run has ended. -/
theorem statAfterClose_spec (c : Close) (s : State) : ∃ st, statAfterClose c s = { s with stats := st } ∧
    st.closes = s.stats.closes.drop 1 ∧ st.monitors = s.stats.monitors ∧
    (endsRun c = false → ∀ cfg, s.store.active = some cfg →
      st.accs = (filePoints cfg.enabledMask cfg.memberMask).map (emptyAcc cfg.reportFloor) ∧ st.limits = cfg.limits) ∧
    (endsRun c = true → s.stats.openDue = false → st.accs = []) := by
  simp only [statAfterClose]
  split
  · next ends => exact ⟨_, rfl, rfl, rfl, fun h => by simp [h] at ends, fun _ _ => rfl⟩
  · next stays =>
    have opens : endsRun c = true → s.stats.openDue = false → False := fun he hd => stays (by simp [he, hd])
    cases hs : s.store.active with
    | none =>
      exact ⟨_, statOpen_inactive _ hs, rfl, rfl, fun _ cfg h => (Option.some_ne_none cfg h.symm).elim,
        fun he hd => (opens he hd).elim⟩
    | some cfg =>
      exact ⟨_, statOpen_active _ cfg hs, rfl, rfl, fun _ cfg' h => by cases h; exact ⟨rfl, rfl⟩,
        fun he hd => (opens he hd).elim⟩

/-! ## The command of a close that can finish -/

theorem windowAwaited_eq_false (s : State) (seq : Word64)
    (h : ∀ w, s.spectral.decomposing = some w → w.record.seq ≠ seq) : windowAwaited s seq = false := by
  unfold windowAwaited
  split
  · next w hw => exact decide_eq_false (h w hw)
  · rfl

theorem exec_accountingCloseFinish (s : State) (ds : List Due) (c : Close) (rest : List Close)
    (hd : s.due = .acctFinish :: ds) (hc : s.acct.closes = c :: rest)
    (h : ∀ w, s.spectral.decomposing = some w → w.record.seq ≠ c.seq) :
    exec .accountingCloseFinish s = .next (advance (acctFinishStep { s with due := ds })) := by
  have can : acctCanFinish { s with due := ds } = true := by
    simp only [acctCanFinish, hc, windowAwaited_eq_false { s with due := ds } c.seq h, Bool.not_false]
  show Host.Outcome.next (perform _ s) = _
  rw [perform_front _ s _ ds hd can rfl, microStep_acctFinish, onlyIf, if_pos can]

theorem exec_statisticsCloseFinish (s : State) (ds : List Due) (c : Close) (rest : List Close)
    (hd : s.due = .statFinish :: ds) (hc : s.stats.closes = c :: rest)
    (h : ∀ w, s.spectral.decomposing = some w → w.record.seq ≠ c.seq) :
    exec .statisticsCloseFinish s = .next (advance (statFinishStep { s with due := ds })) := by
  have can : statCanFinish { s with due := ds } = true := by
    simp only [statCanFinish, hc, windowAwaited_eq_false { s with due := ds } c.seq h, Bool.not_false]
  show Host.Outcome.next (perform _ s) = _
  rw [perform_front _ s _ ds hd can rfl, microStep_statFinish, onlyIf, if_pos can]

theorem acctFinishStep_eq (s : State) (c : Close) (rest : List Close) (h : s.acct.closes = c :: rest) :
    acctFinishStep s = fileReady c.seq
      (addParts c.seq (fun a => { a with acct := some (acctFinish s.acct c).1 })
        { s with acct := (acctFinish s.acct c).2 }) := by
  simp only [acctFinishStep, h]

theorem statFinishStep_eq (s : State) (c : Close) (rest : List Close) (h : s.stats.closes = c :: rest) :
    statFinishStep s =
      fileReady c.seq (addParts c.seq (fun a => { a with stat := some s.stats.accs }) (statAfterClose c s)) := by
  simp only [statFinishStep, h]

theorem filePoints_eq (enabled members : Nat) : filePoints enabled members =
    [0, 1, 2, 3].filter (fun p => enabled.testBit p) ++
      (if members.testBit 0 || members.testBit 1 || members.testBit 2 || members.testBit 3 then [4] else []) := by
  have members_nil : maskPoints members = [] ↔
      ¬(members.testBit 0 || members.testBit 1 || members.testBit 2 || members.testBit 3) = true := by
    simp [maskPoints, List.filter_eq_nil_iff, and_assoc]
  simp only [filePoints, members_nil, ite_not]
  rfl

/-! ## The statement -/

/-- Settles O41: both commands finish the oldest close, and the figures of each unit by the lemmas above. -/
theorem closesFinishAtBothUnits : Obligations.ClosesFinishAtBothUnits := by
  refine ⟨fun s ds c rest hd hc hw => ?_, fun a c rest hc => ?_, fun s ds c rest hd hc hw => ?_, fun s seq => rfl,
    filePoints_eq⟩
  · rw [exec_accountingCloseFinish s ds c rest hd hc hw, acctFinishStep_eq { s with due := ds } c rest hc]
  · refine ⟨by rw [acctFinish_closes, hc]; rfl, acctFinish_regs a c, ?_, fun p hp => ?_, fun p hp => ?_,
      fun h8 h9 => acctFinish_opens a c ((endsRun_eq_false c).mpr ⟨h8, h9⟩),
      fun h hd => acctFinish_stays a c ((endsRun_eq_true c).mpr h) hd⟩
    · simp [acctFinish_parts, acctPart, Function.comp_def]
    · obtain ⟨n, -, rfl⟩ := (mem_acctFinish_parts a c p).mp hp
      exact (acctPart_deltas a c n).2
    · obtain ⟨n, -, rfl⟩ := (mem_acctFinish_parts a c p).mp hp
      exact ⟨(acctPart_deltas a c n).1, rfl⟩
  · obtain ⟨st, after, closes, monitors, opens, empty⟩ := statAfterClose_spec c { s with due := ds }
    refine ⟨addParts c.seq (fun a => { a with stat := some s.stats.accs }) { s with due := ds, stats := st },
      ?_, rfl, by rw [hc] at closes; exact closes, rfl, monitors,
      fun h8 h9 => opens ((endsRun_eq_false c).mpr ⟨h8, h9⟩), fun h => empty ((endsRun_eq_true c).mpr h),
      rfl, rfl, rfl, rfl, rfl⟩
    rw [exec_statisticsCloseFinish s ds c rest hd hc hw, statFinishStep_eq { s with due := ds } c rest hc, after]

end Sys2Proof.Machine
end

section
/-! PROOF. SNAPSHOT orders, their captures and the bytes of an image (O51). -/

namespace Sys2Proof.Machine

/-! ## The order at its event (R84, R171) -/

theorem carryOut_snapshot (f : InFlight) (s : State) (h : f.kind = 5) : carryOut f s = orderSnapshot f s := by
  simp [carryOut, h]

theorem orderSnapshot_short (f : InFlight) (s : State) (h : param32 f.params 24 < 3584) :
    orderSnapshot f s = completeFail f.entry .shortBuffer (eventTime s) s := by
  simp [orderSnapshot, h]

theorem orderSnapshot_unaligned (f : InFlight) (s : State) (h : 3584 ≤ param32 f.params 24)
    (ha : param64 f.params 16 % 64 ≠ 0) : orderSnapshot f s = completeFail f.entry .badParam (eventTime s) s := by
  simp [orderSnapshot, Nat.not_lt.mpr h, ha]

theorem orderSnapshot_waits (f : InFlight) (s : State) (ev : Event) (he : s.event = some ev)
    (h : 3584 ≤ param32 f.params 24) (ha : param64 f.params 16 % 64 = 0) : orderSnapshot f s = { s with
      event := some { ev with finishing := ev.finishing ++ [.image f.entry] }
      port := { s.port with snapshots := s.port.snapshots ++ [{
        entry := f.entry, addr := BitVec.ofNat 64 (param64 f.params 16), head := [], image := none, issuedAt := s.tick
        seq := 0 }] } } := by
  simp [orderSnapshot, Nat.not_lt.mpr h, ha, finishLater, modEvent, he]

theorem exec_snapshot (s : State) (e : Fin 16) (ds : List Due) (f : InFlight) (hd : s.due = .handOver e :: ds)
    (hf : s.inFlight e = some f) (hk : f.kind = 5) :
    exec (.snapshot e) s = .next (advance (orderSnapshot f { s with due := ds })) := by
  rw [← carryOut_snapshot f _ hk, ← perform_handsOver 5 s e ds f hd hf hk (by decide) (by decide)]
  rfl

/-! ## Captures (R84, R86) -/

theorem capturePending_iff (e : Fin 16) (s : State) :
    capturePending e s = true ↔ ∃ p ∈ s.port.snapshots, p.entry = e ∧ p.image = none := by
  simp [capturePending]

theorem captureSnapshot_pending (e : Fin 16) (s : State) (h : ∃ p ∈ s.port.snapshots, p.entry = e ∧ p.image = none) :
    captureSnapshot e s =
      if s.port.exchange = .online then
        { s with port := { s.port with snapshots := s.port.snapshots.map (fun p =>
          if p.entry = e then { p with
            image := some (snapshotImage s.acct p.head), issuedAt := s.tick, seq := s.acct.lastSeq } else p) } }
      else completeFail e .busFault (eventTime s)
        { s with port := { s.port with snapshots := s.port.snapshots.filter (fun p => p.entry ≠ e) } } := by
  obtain ⟨p, found⟩ : ∃ p, s.port.snapshots.find? (fun p => p.entry = e && p.image.isNone) = some p := by
    rw [← Option.isSome_iff_exists, List.find?_isSome]
    simpa using h
  simp only [captureSnapshot, found]

theorem captureSnapshot_online (e : Fin 16) (s : State) (h : ∃ p ∈ s.port.snapshots, p.entry = e ∧ p.image = none)
    (hx : s.port.exchange = .online) : captureSnapshot e s = { s with
      port := { s.port with snapshots := s.port.snapshots.map (fun p =>
        if p.entry = e then { p with
          image := some (snapshotImage s.acct p.head), issuedAt := s.tick, seq := s.acct.lastSeq } else p) } } := by
  rw [captureSnapshot_pending e s h, if_pos hx]

theorem captureSnapshot_faulted (e : Fin 16) (s : State) (h : ∃ p ∈ s.port.snapshots, p.entry = e ∧ p.image = none)
    (hx : s.port.exchange = .faulted) : captureSnapshot e s = complete e true .busFault 0 (eventTime s)
      { s with port := { s.port with snapshots := s.port.snapshots.filter (fun p => p.entry ≠ e) } } := by
  rw [captureSnapshot_pending e s h, if_neg (by rw [hx]; decide)]
  rfl

theorem exec_snapshotCapture (s : State) (e : Fin 16) (ds : List Due) (hd : s.due = .snapCapture e :: ds)
    (h : ∃ p ∈ s.port.snapshots, p.entry = e ∧ p.image = none) :
    exec (.snapshotCapture e) s = .next (advance (captureSnapshot e { s with due := ds })) := by
  show Host.Outcome.next (perform _ s) = _
  rw [perform_front _ s _ ds hd ((capturePending_iff e { s with due := ds }).mpr h) (decide_eq_true rfl)]
  rfl

/-- R86: the writes of an image are answered in time. -/
theorem imageWritten_some (e : Fin 16) (s : State) (p : Snapshot)
    (h : s.port.snapshots.find? (fun p => p.entry = e && p.image.isSome && decide (s.tick < p.issuedAt + 20000)) = some p) :
    imageWritten e s = complete e false .ok p.seq s.tb.timeValue
      { s with port := { s.port with snapshots := s.port.snapshots.filter (fun q => q.entry ≠ e) } } := by
  simp only [imageWritten, h]
  rfl

theorem exec_snapshotWritten (s : State) (dt : Nat) (e : Fin 16) (p : Snapshot) (h : quiet s)
    (found : s.port.snapshots.find? (fun q => q.entry = e && q.image.isSome && decide (s.tick + dt < q.issuedAt + 20000)) =
      some p) :
    exec (.snapshotWritten dt e) s = .next (complete e false .ok p.seq (elapse dt s).tb.timeValue { elapse dt s with
      port := { s.port with snapshots := s.port.snapshots.filter (fun q => q.entry ≠ e) } }) := by
  obtain ⟨phase, due⟩ := h
  have written := imageWritten_some e (elapse dt s) p (by rwa [elapse_port, elapse_tick])
  have plain : (imageWritten e (elapse dt s)).due = [] := by
    rw [written, complete_due]
    exact (elapse_due dt s).trans due
  show Host.Outcome.next (fromOutside dt (imageWritten e) s) = _
  rw [fromOutside_plain dt _ s phase due plain, written, elapse_port]

/-! ## The end of the event (R84, R85, log 11) -/

/-- R85: the header of the one image of an entry that has none yet. -/
theorem fixHead_eq (e : Fin 16) (s : State) (ev : Event) (he : s.event = some ev)
    (h : ∀ p ∈ s.port.snapshots, p.entry = e → p.image = none) : fixHead e s = { s with
      port := { s.port with snapshots := s.port.snapshots.map (fun p =>
        if p.entry = e then { p with head := snapshotHead s ev.tNew } else p) } } := by
  have heads : s.port.snapshots.map (fun p =>
      if p.entry = e && p.image.isNone then { p with head := snapshotHead s (standingTime s) } else p) =
      s.port.snapshots.map (fun p => if p.entry = e then { p with head := snapshotHead s ev.tNew } else p) :=
    List.map_congr_left fun p hp => by
      by_cases own : p.entry = e
      · simp [own, h p hp own, standingTime, he]
      · simp [own]
  simp only [fixHead, heads]

/-- The state whose event has taken up its one SNAPSHOT order and fixed the header of its image. -/
def imageHeaded (e : Fin 16) (ev : Event) (s : State) : State :=
  { s with
    event := some { ev with finishing := [] }
    port := { s.port with snapshots := s.port.snapshots.map (fun p =>
      if p.entry = e then { p with head := snapshotHead s ev.tNew } else p) } }

theorem finishOrders_image (e : Fin 16) (s : State) (ev : Event)
    (he : s.event = some { ev with finishing := [.image e] })
    (hn : ∀ p ∈ s.port.snapshots, p.entry = e → p.image = none) :
    finishOrders s = if captureWaits (imageHeaded e ev s) then imageHeaded e ev s
      else captureSnapshot e (imageHeaded e ev s) := by
  have fixed : fixHead e { s with event := some { ev with finishing := [] } } = imageHeaded e ev s :=
    fixHead_eq e _ { ev with finishing := [] } rfl hn
  rw [← fixed]
  simp only [finishOrders, he, modEvent]
  rfl

theorem captureWaits_imageHeaded (e : Fin 16) (ev : Event) (s : State) :
    captureWaits (imageHeaded e ev s) = true ↔ s.spectral.decomposing ≠ none ∧ ev.kind ≠ .boundary := by
  simp [captureWaits, imageHeaded, Option.isSome_iff_ne_none]

theorem imageHeaded_pending (e : Fin 16) (ev : Event) (s : State) (hp : ∃ p ∈ s.port.snapshots, p.entry = e)
    (hn : ∀ p ∈ s.port.snapshots, p.entry = e → p.image = none) :
    ∃ p ∈ (imageHeaded e ev s).port.snapshots, p.entry = e ∧ p.image = none := by
  obtain ⟨p, hp, own⟩ := hp
  exact ⟨_, List.mem_map_of_mem hp, by simp [own], by simp [own, hn p hp own]⟩

theorem imageHeaded_captured (e : Fin 16) (ev : Event) (s : State) (hp : ∃ p ∈ s.port.snapshots, p.entry = e)
    (hn : ∀ p ∈ s.port.snapshots, p.entry = e → p.image = none) (hx : s.port.exchange = .online) :
    captureSnapshot e (imageHeaded e ev s) = { s with
      event := some { ev with finishing := [] }
      port := { s.port with snapshots := s.port.snapshots.map (fun p =>
        if p.entry = e then { p with
          head := snapshotHead s ev.tNew, image := some (snapshotImage s.acct (snapshotHead s ev.tNew))
          issuedAt := s.tick, seq := s.acct.lastSeq } else p) } } := by
  rw [captureSnapshot_online e _ (imageHeaded_pending e ev s hp hn) hx]
  simp only [imageHeaded, List.map_map]
  congr 3
  funext p
  by_cases own : p.entry = e <;> simp [own]

/-- A change of the image of one entry leaves those of the others. -/
theorem filter_entry_map (e : Fin 16) (g : Snapshot → Snapshot) (hg : ∀ p, (g p).entry = p.entry) (l : List Snapshot) :
    (l.map (fun p => if p.entry = e then g p else p)).filter (fun p => p.entry ≠ e) =
      l.filter (fun p => p.entry ≠ e) := by
  induction l with
  | nil => rfl
  | cons p l ih =>
    rw [List.map_cons, List.filter_cons, List.filter_cons, ih]
    by_cases own : p.entry = e
    · simp [own, hg]
    · simp [own]

theorem imageHeaded_failed (e : Fin 16) (ev : Event) (s : State) (hp : ∃ p ∈ s.port.snapshots, p.entry = e)
    (hn : ∀ p ∈ s.port.snapshots, p.entry = e → p.image = none) (hx : s.port.exchange = .faulted) :
    captureSnapshot e (imageHeaded e ev s) = complete e true .busFault 0 ev.tOld { s with
      event := some { ev with finishing := [] }
      port := { s.port with snapshots := s.port.snapshots.filter (fun p => p.entry ≠ e) } } := by
  have others : (imageHeaded e ev s).port.snapshots.filter (fun p => p.entry ≠ e) =
      s.port.snapshots.filter (fun p => p.entry ≠ e) :=
    filter_entry_map e (fun p => { p with head := snapshotHead s ev.tNew }) (fun _ => rfl) s.port.snapshots
  rw [captureSnapshot_faulted e _ (imageHeaded_pending e ev s hp hn) hx, others,
    eventTime_of_event (imageHeaded e ev s) _ rfl]
  rfl

/-! ## The bytes of an image (R85, 11.7) -/

theorem take_drop_middle (before middle after : List Byte) (n w : Nat) (hn : before.length = n)
    (hw : middle.length = w) : ((before ++ (middle ++ after)).drop n).take w = middle := by
  rw [List.drop_left' hn, List.take_left' hw]

/-- Two fields of 8 bytes for each member of a list. -/
def pairBytes {α : Type} (u v : α → Nat) (l : List α) : List Byte :=
  (l.map (fun a => leBytes 8 (u a) ++ leBytes 8 (v a))).flatten

theorem pairBytes_length {α : Type} (u v : α → Nat) (l : List α) : (pairBytes u v l).length = 16 * l.length :=
  flatten_length l _ 16 fun a => by simp

theorem pairBytes_split {α : Type} (u v : α → Nat) (l : List α) (i : Nat) (hi : i < l.length) :
    pairBytes u v l = pairBytes u v (l.take i) ++
      (leBytes 8 (u l[i]) ++ (leBytes 8 (v l[i]) ++ pairBytes u v (l.drop (i + 1)))) := by
  conv_lhs => rw [← List.take_append_drop i l, List.drop_eq_getElem_cons hi]
  simp only [pairBytes, List.map_append, List.map_cons, List.flatten_append, List.flatten_cons, List.append_assoc]

/-- The fields of one member, behind the bytes that precede the list. -/
theorem pairBytes_fields {α : Type} (u v : α → Nat) (before after : List Byte) (l : List α) (i n : Nat)
    (d : α) (hn : before.length = n) (hi : i < l.length) :
    ((before ++ pairBytes u v l ++ after).drop (n + 16 * i)).take 8 = leBytes 8 (u (l.getD i d)) ∧
      ((before ++ pairBytes u v l ++ after).drop (n + 8 + 16 * i)).take 8 = leBytes 8 (v (l.getD i d)) := by
  have preceding : (before ++ pairBytes u v (l.take i)).length = n + 16 * i := by
    rw [List.length_append, pairBytes_length, List.length_take, hn, Nat.min_eq_left hi.le]
  rw [List.getD_eq_getElem _ _ hi, pairBytes_split u v l i hi]
  constructor
  · have := take_drop_middle (before ++ pairBytes u v (l.take i)) (leBytes 8 (u l[i]))
      (leBytes 8 (v l[i]) ++ pairBytes u v (l.drop (i + 1)) ++ after) _ 8 preceding (leBytes_length 8 _)
    simpa only [List.append_assoc] using this
  · have := take_drop_middle (before ++ pairBytes u v (l.take i) ++ leBytes 8 (u l[i])) (leBytes 8 (v l[i]))
      (pairBytes u v (l.drop (i + 1)) ++ after) (n + 8 + 16 * i) 8
      (by rw [List.length_append, preceding, leBytes_length]; omega) (leBytes_length 8 _)
    simpa only [List.append_assoc] using this

/-- Fields one after the other, each a width and a value. -/
def fieldBytes (fs : List (Nat × Nat)) : List Byte := (fs.map (fun f => leBytes f.1 f.2)).flatten

/-- Such fields with the offset of each, the first at `o`. -/
def fieldsFrom (o : Nat) : List (Nat × Nat) → List (Nat × Nat × Nat)
  | [] => []
  | f :: fs => (o, f.1, f.2) :: fieldsFrom (o + f.1) fs

theorem fieldBytes_fields (fs : List (Nat × Nat)) (before after : List Byte) (o : Nat) (hb : before.length = o) :
    ∀ x ∈ fieldsFrom o fs, ((before ++ (fieldBytes fs ++ after)).drop x.1).take x.2.1 = leBytes x.2.1 x.2.2 := by
  induction fs generalizing before o with
  | nil => simp [fieldsFrom]
  | cons f fs ih =>
    have opened : fieldBytes (f :: fs) ++ after = leBytes f.1 f.2 ++ (fieldBytes fs ++ after) := by simp [fieldBytes]
    rw [fieldsFrom, List.forall_mem_cons, opened]
    refine ⟨take_drop_middle before _ _ o f.1 hb (leBytes_length _ _), ?_⟩
    rw [← List.append_assoc before]
    exact ih _ _ (by rw [List.length_append, leBytes_length, hb])

/-- The active generation in a header, and 0 while no configuration is active (log 34). -/
def generationField (s : State) : Nat := match s.store.active with | some c => c.generation.toNat | none => 0

theorem snapshotHead_eq (s : State) (t : Nat) : snapshotHead s t =
    leBytes 4 s.store.factory.epoch.toNat ++ leBytes 4 (generationField s) ++ leBytes 8 t ++
      leBytes 8 (s.store.divisor.getD 0) ++ leBytes 8 s.ic.seq.toNat := rfl

/-- 11.7: the fields of the image header. -/
def imageFields (s : State) (t : Nat) : List (Nat × Nat) :=
  [(4, s.store.factory.epoch.toNat), (4, generationField s), (8, t), (8, s.store.divisor.getD 0),
    (8, s.ic.seq.toNat), (8, s.acct.lastSeq.toNat), (8, s.acct.lastEnd), (8, 0), (8, 0)]

theorem imageFields_length (s : State) (t : Nat) : (fieldBytes (imageFields s t)).length = 64 := by
  simp [fieldBytes, imageFields]

/-- 11.7: the header, the registers and the demand entries. -/
theorem snapshotImage_eq (s : State) (t : Nat) : snapshotImage s.acct (snapshotHead s t) =
    fieldBytes (imageFields s t) ++ pairBytes (fun r : Reg => r.count.toNat) (fun r => r.residue) s.acct.regs ++
      pairBytes (fun e : DemandEntry => e.max) (fun e => e.seq.toNat) s.acct.demand := by
  have reserved : zeros 16 = leBytes 8 0 ++ leBytes 8 0 := rfl
  simp only [snapshotImage, snapshotHead_eq, reserved, fieldBytes, imageFields, pairBytes, List.map_cons, List.map_nil,
    List.flatten_cons, List.flatten_nil, List.append_nil, List.append_assoc]

theorem snapshotImage_length (s : State) (t : Nat) (h : shaped s) :
    (snapshotImage s.acct (snapshotHead s t)).length = 3584 := by
  obtain ⟨-, -, regs, -, demand, -⟩ := h
  rw [snapshotImage_eq, List.length_append, List.length_append, imageFields_length, pairBytes_length, pairBytes_length,
    regs, demand]

/-- R85, 11.7: the nine fields of the header, each at its offset. -/
theorem snapshotImage_header (s : State) (t : Nat) : ∀ x ∈ ([(0, 4, s.store.factory.epoch.toNat),
      (4, 4, match s.store.active with | some c => c.generation.toNat | none => 0), (8, 8, t),
      (16, 8, s.store.divisor.getD 0), (24, 8, s.ic.seq.toNat), (32, 8, s.acct.lastSeq.toNat),
      (40, 8, s.acct.lastEnd), (48, 8, 0), (56, 8, 0)] : List (Nat × Nat × Nat)),
    ((snapshotImage s.acct (snapshotHead s t)).drop x.1).take x.2.1 = leBytes x.2.1 x.2.2 := by
  rw [snapshotImage_eq, List.append_assoc]
  exact fieldBytes_fields (imageFields s t) [] _ 0 rfl

/-- 11.7: the registers, from byte 64. -/
theorem snapshotImage_register (s : State) (t r : Nat) (h : shaped s) (hr : r < 180) :
    ((snapshotImage s.acct (snapshotHead s t)).drop (64 + 16 * r)).take 8 =
        leBytes 8 (s.acct.regs.getD r {}).count.toNat ∧
      ((snapshotImage s.acct (snapshotHead s t)).drop (72 + 16 * r)).take 8 =
        leBytes 8 (s.acct.regs.getD r {}).residue := by
  obtain ⟨-, -, regs, -⟩ := h
  rw [snapshotImage_eq]
  exact pairBytes_fields _ _ _ _ s.acct.regs r 64 {} (imageFields_length s t) (regs ▸ hr)

/-- 11.7: the demand entries, from byte 2,944. -/
theorem snapshotImage_demand (s : State) (t e : Nat) (h : shaped s) (he : e < 40) :
    ((snapshotImage s.acct (snapshotHead s t)).drop (2944 + 16 * e)).take 8 =
        leBytes 8 (s.acct.demand.getD e {}).max ∧
      ((snapshotImage s.acct (snapshotHead s t)).drop (2952 + 16 * e)).take 8 =
        leBytes 8 (s.acct.demand.getD e {}).seq.toNat := by
  obtain ⟨-, -, regs, -, demand, -⟩ := h
  rw [snapshotImage_eq, ← List.append_nil (_ ++ _ ++ pairBytes _ _ s.acct.demand)]
  refine pairBytes_fields _ _ _ [] s.acct.demand e 2944 {} ?_ (demand ▸ he)
  rw [List.length_append, imageFields_length, pairBytes_length, regs]

/-! ## The statement -/

/-- Settles O51: the order's checks, the three ends that its event can give it, the captures that waited, and the bytes of
its image. -/
theorem snapshotsCaptureAndWriteAnImage : Obligations.SnapshotsCaptureAndWriteAnImage := by
  refine ⟨?_, ?_, ?_, ?_, exec_snapshotWritten, ?_⟩
  · rintro s e ds f ev _ _ hd hf hk he rfl rfl
    have entry := inFlight_entry s e f hf
    have time := eventTime_of_event { s with due := ds } ev he
    rw [exec_snapshot s e ds f hd hf hk]
    refine ⟨fun hl => ?_, fun hl ha => ?_, fun hl ha => ?_⟩
    · rw [orderSnapshot_short f _ hl, time, entry]
      rfl
    · rw [orderSnapshot_unaligned f _ hl ha, time, entry]
      rfl
    · rw [orderSnapshot_waits f { s with due := ds } ev he hl ha, entry]
      rfl
  · rintro s _ e ev _ he rfl rfl hp hn
    have waits := captureWaits_imageHeaded e ev s
    rw [microStep_finishOrders, finishOrders_image e s ev he hn]
    refine ⟨fun now hx => ?_, fun now hx => ?_, fun later busy => ?_⟩
    · rw [if_neg (fun h => now.elim (waits.mp h).2 (waits.mp h).1), imageHeaded_captured e ev s hp hn hx]
    · rw [if_neg (fun h => now.elim (waits.mp h).2 (waits.mp h).1), imageHeaded_failed e ev s hp hn hx]
    · rw [if_pos (waits.mpr ⟨busy, later⟩)]
      rfl
  · rintro s e ds hd hp hx
    rw [exec_snapshotCapture s e ds hd hp, captureSnapshot_online e { s with due := ds } hp hx]
  · rintro s e ds time hd hp hx ht
    have now : eventTime { s with due := ds } = time := by
      rw [ht]
      simp only [eventTime, partTime]
      cases s.event with
      | some ev => rfl
      | none => cases s.asOf <;> rfl
    rw [exec_snapshotCapture s e ds hd hp, captureSnapshot_faulted e { s with due := ds } hp hx, now]
  · rintro s t _ h rfl
    refine ⟨snapshotImage_length s t h, fun x hx => ?_⟩
    rcases List.mem_append.mp hx with hx | hx
    · rcases List.mem_append.mp hx with hx | hx
      · exact snapshotImage_header s t x hx
      · obtain ⟨r, hr, hx⟩ := List.mem_flatMap.mp hx
        obtain ⟨count, residue⟩ := snapshotImage_register s t r h (List.mem_range.mp hr)
        rcases List.mem_pair.mp hx with rfl | rfl
        · exact count
        · exact residue
    · obtain ⟨i, hi, hx⟩ := List.mem_flatMap.mp hx
      obtain ⟨demand, seq⟩ := snapshotImage_demand s t i h (List.mem_range.mp hi)
      rcases List.mem_pair.mp hx with rfl | rfl
      · exact demand
      · exact seq

end Sys2Proof.Machine
end

section
/-! SUPPORT. The interval controller at an event: what the event can close, the commands of its parts, and how a cause
joins a close. -/

namespace Sys2Proof.Machine

/-! ## What the event in hand can close (R91) -/

theorem closable_boundary (s : State) (ev : Event) (o : OpenInterval) (he : s.event = some ev)
    (hk : ev.kind = .boundary) (ho : s.ic.current = some o) : closable s = some (ev, o) := by simp [closable, he, ho, hk]

theorem closable_none (s : State) (ev : Event) (he : s.event = some ev)
    (h : ev.kind ≠ .boundary ∨ s.ic.current = none) : closable s = none := by
  unfold closable
  split
  · next ev' o he' ho =>
    cases he.symm.trans he'
    exact if_neg (h.resolve_right (by simp [ho]))
  · rfl

theorem addCause_of_event (c : Cause) (s : State) (ev : Event) (he : s.event = some ev) :
    addCause c s = { s with event := some { ev with causes := ev.causes ||| c.set } } := by
  rw [addCause, modEvent, he]
  rfl

/-! ## The commands of the parts that wait for a condition -/

/-- The command of a part that waits for a condition, at the front of what is due, once the condition holds. -/
theorem perform_onlyIf (wanted : Due → State → Bool) (s : State) (d : Due) (ds : List Due) (b : State → Bool)
    (f : State → State) (hd : s.due = d :: ds) (hw : ∀ u, wanted d u = true) (hn : ∀ u, named d u = b u)
    (hm : ∀ u, microStep d u = onlyIf b f u) (h : b { s with due := ds } = true) :
    perform wanted s = advance (f { s with due := ds }) := by
  rw [perform_front wanted s d ds hd ((hn _).trans h) (hw _), hm, onlyIf, if_pos h]

section Commands

variable (s : State) (ds : List Due)

theorem exec_clockClose (hd : s.due = .clockCheck :: ds) (h : clockArises { s with due := ds } = true) :
    exec .clockClose s = .next (advance (addCause .clock { s with due := ds })) :=
  congrArg _ (perform_onlyIf _ s _ ds _ _ hd (fun _ => rfl) named_clockCheck microStep_clockCheck h)

theorem exec_syncTimeout (hd : s.due = .timeoutCheck :: ds) (h : timeoutArises { s with due := ds } = true) :
    exec .syncTimeout s = .next (advance (takeTimeout { s with due := ds })) :=
  congrArg _ (perform_onlyIf _ s _ ds _ _ hd (fun _ => rfl) named_timeoutCheck microStep_timeoutCheck h)

theorem exec_intervalEndTaken (hd : s.due = .intervalEnd :: ds) (h : intervalEndDue { s with due := ds } = true) :
    exec .intervalEndTaken s = .next (advance (takeIntervalEnd { s with due := ds })) :=
  congrArg _ (perform_onlyIf _ s _ ds _ _ hd (fun _ => rfl) named_intervalEnd microStep_intervalEnd h)

theorem exec_tariffStepTaken (hd : s.due = .tariffStep :: ds) (h : tariffStepDue { s with due := ds } = true) :
    exec .tariffStepTaken s = .next (advance (takeTariffStep { s with due := ds })) :=
  congrArg _ (perform_onlyIf _ s _ ds _ _ hd (fun _ => rfl) named_tariffStep microStep_tariffStep h)

theorem exec_demandResetApply (hd : s.due = .demandApply :: ds) (h : demandApplies { s with due := ds } = true) :
    exec .demandResetApply s = .next (advance (applyDemandReset { s with due := ds })) :=
  congrArg _ (perform_onlyIf _ s _ ds _ _ hd (fun _ => rfl) named_demandApply microStep_demandApply h)

end Commands

end Sys2Proof.Machine
end

section
/-! PROOF. The causes of a boundary decide its close, and the close opens the next interval (O30). -/

namespace Sys2Proof.Machine

/-! ## The causes (R92, R95, R96, R99) -/

section Causes

variable {s : State} {ev : Event} {o : OpenInterval} (hc : closable s = some (ev, o))
include hc

theorem clockArises_iff : clockArises s = true ↔ o.closeSync = false ∧ o.nextAligned ≤ ev.tOld := by
  simp [clockArises, hc]

theorem timeoutArises_iff : timeoutArises s = true ↔
    o.closeSync = true ∧ ev.intervalEnd = false ∧ o.lengthMs * 11 / 10 ≤ (ev.tick - o.openTick) / 10000 := by
  simp only [timeoutArises, hc, Bool.and_eq_true, Bool.not_eq_true', decide_eq_true_eq, and_assoc]
  rfl

theorem timeStepArises_iff : timeStepArises s = true ↔ ev.tNew < ev.tOld ∨
    ev.tNew / o.lengthMs ≠ ev.tOld / o.lengthMs ∨ ∃ t, s.ic.lastTime = some t ∧ ev.tOld < t := by
  cases h : s.ic.lastTime <;> simp [timeStepArises, hc, h, or_assoc]

/-- R96, R97, R99: TIME_STEP and HALT join the causes that have arisen; TARIFF comes by itself where there is none. -/
theorem decidedCauses_eq (joined : CauseSet) (hj : joined = ev.causes |||
    (if timeStepArises s then 1#10 <<< 5 else 0) ||| (if ev.halting then 1#10 <<< 8 else 0)) :
    decidedCauses s = if joined = 0 ∧ (tariffView s).slot ≠ o.slot then 1#10 <<< 4 else joined := by
  have decided : decidedCauses s =
      if joined ≠ 0 then joined else if (tariffView s).slot ≠ o.slot then 1#10 <<< 4 else 0 := by
    rw [hj, decidedCauses, hc]
    rfl
  rw [decided]
  by_cases nothing : joined = 0
  · simp only [nothing, ne_eq, not_true, if_false, true_and]
  · simp only [nothing, ne_eq, not_false_eq_true, if_true, false_and, if_false]

end Causes

theorem takeTimeout_eq (s : State) (ev : Event) (o : OpenInterval) (he : s.event = some ev)
    (ho : s.ic.current = some o) : takeTimeout s = request .sync { s with
      event := some { ev with causes := ev.causes ||| (1#10 <<< 2) }
      ic := { s.ic with timeouts := s.ic.timeouts + 1, current := some { o with timeout := true } } } := by
  simp only [takeTimeout, addCause, modEvent, he, ho, Option.map_some]
  rfl

/-! ## The decision (R90, R96) -/

theorem decideClose_stays (s : State) (h : decidedCauses s = 0) :
    decideClose s = { s with due := .settleTariff :: s.due } := by simp [decideClose, h, pushDue]

theorem decideClose_closes (s : State) (ev : Event) (he : s.event = some ev) (h : decidedCauses s ≠ 0)
    (hp : s.store.pend = none) : decideClose s = { s with
      due := .close :: s.due, event := some { ev with causes := decidedCauses s } } := by
  simp only [decideClose, h, hp, pushDue, modEvent, he, if_false]
  rfl

theorem decideClose_activates (s : State) (ev : Event) (cfg : Cfg) (e : Fin 16) (he : s.event = some ev)
    (h : decidedCauses s ≠ 0) (hp : s.store.pend = some (cfg, e)) : decideClose s = { s with
      due := .activate cfg e :: .close :: s.due
      event := some { ev with causes := decidedCauses s ||| (1#10 <<< 7) } } := by
  simp only [decideClose, h, hp, pushDue, modEvent, he, if_false]
  rfl

/-! ## The close and the opening of an interval (R89, R90, R93, R97) -/

/-- The interval that opens at an event under a configuration. -/
def openedInterval (afterStep : Bool) (cfg : Cfg) (ev : Event) (slot : Nat) : OpenInterval :=
  { startTime := ev.tNew, slot
    partialMark := opensPartial afterStep (cfg.closeSource = 1) cfg.lengthMs ev.tNew
    nextAligned := nextAlignedAfter cfg.lengthMs ev.tNew
    openTick := ev.tick, generation := cfg.generation, lengthMs := cfg.lengthMs
    closeSync := cfg.closeSource = 1, enabledMask := cfg.enabledMask, memberMask := cfg.memberMask }

theorem openInterval_eq (afterStep : Bool) (s : State) (ev : Event) (cfg : Cfg) (he : s.event = some ev)
    (ha : s.store.active = some cfg) : openInterval afterStep s = { s with ic := { s.ic with
      seq := s.ic.seq + 1, current := some (openedInterval afterStep cfg ev s.ic.activeSlot) } } := by
  simp only [openInterval, he, ha]
  rfl

/-- R100: of the state, an evaluation that stands changes the slot, the force and the governing switch point alone. -/
theorem commitTariff_eq (s : State) : commitTariff s = { s with ic := { s.ic with
    activeSlot := (tariffView s).slot, forced := (tariffView s).forced, governing := (tariffView s).governing } } := rfl

/-- The causes of a close as it takes place: TARIFF joins where the slot of the next window differs (R100). -/
def closingCauses (ev : Event) (o : OpenInterval) (slot : Nat) : CauseSet :=
  if ev.halting = false ∧ slot ≠ o.slot then ev.causes ||| (1#10 <<< 4) else ev.causes

theorem closeEvent_eq (s : State) (ev : Event) (o : OpenInterval) (cs : CauseSet) (he : s.event = some ev)
    (ho : s.ic.current = some o) (hcs : cs = closingCauses ev o (tariffView s).slot) : closeEvent s =
      let closed := passClose cs ev.tOld (commitTariff s)
      if ev.halting then closed else openInterval (cs.getLsbD 5) closed := by
  subst hcs
  have joined : (if !ev.halting && decide ((tariffView s).slot ≠ o.slot) then ev.causes ||| Cause.tariff.set
      else ev.causes) = closingCauses ev o (tariffView s).slot := by
    simp only [closingCauses, Bool.and_eq_true, Bool.not_eq_true', decide_eq_true_eq]
    rfl
  simp only [closeEvent, he, ho, ← joined]
  rfl

/-- R90: a close goes to the three units, and no interval is open after it. -/
theorem passClose_commitTariff (cs : CauseSet) (t : Nat) (s : State) (o : OpenInterval) (ho : s.ic.current = some o) :
    passClose cs t (commitTariff s) = { s with
      ic := { s.ic with
        activeSlot := (tariffView s).slot, forced := (tariffView s).forced, governing := (tariffView s).governing
        current := none }
      acct := { s.acct with closes := s.acct.closes ++ [closeOf s.ic.seq o cs t] }
      stats := { s.stats with closes := s.stats.closes ++ [closeOf s.ic.seq o cs t] }
      filing := { s.filing with assemblies := s.filing.assemblies ++ [{ close := closeOf s.ic.seq o cs t }] } } :=
  (passClose_spec cs t (commitTariff s)).2 o ho

/-! ## An event without a close (R91, R100) -/

theorem settleInterval_other (s : State) (ev : Event) (he : s.event = some ev) (hk : ev.kind ≠ .first) :
    settleInterval s = commitTariff s := by
  have event : (commitTariff s).event = some ev := he
  have settled : settleTariff s = commitTariff s := by simp [settleTariff, event, hk]
  simp [settleInterval, settled, event, hk]

@[simp] theorem statOpen_ic (s : State) : (statOpen s).ic = s.ic := by
  cases h : s.store.active with
  | none => rw [statOpen_inactive s h]
  | some cfg => rw [statOpen_active s cfg h]

@[simp] theorem statStart_ic (s : State) : (statStart s).ic = s.ic := by
  unfold statStart
  split
  · exact statOpen_ic s
  · rfl

theorem settleInterval_first (s : State) (ev : Event) (cfg : Cfg) (he : s.event = some ev) (hk : ev.kind = .first)
    (ha : s.store.active = some cfg) : (settleInterval s).ic = { (commitTariff s).ic with
      seq := s.ic.seq + 1, current := some (openedInterval true cfg ev (tariffView s).slot) } := by
  have event : (commitTariff s).event = some ev := he
  have settled : settleTariff s = { s with ic := { (commitTariff s).ic with
      seq := s.ic.seq + 1, current := some (openedInterval true cfg ev (tariffView s).slot) } } := by
    simp only [settleTariff, event, hk, if_true]
    exact openInterval_eq true (commitTariff s) ev cfg he ha
  simp only [settleInterval, settled, he, hk, if_true, statStart_ic]

/-! ## The statement -/

/-- Settles O30: the two causes arise, and the decision, the close and the event without a close are as the lemmas above
say. -/
theorem clockAndTimeoutCausesArise : Obligations.ClockAndTimeoutCausesArise := by
  refine ⟨fun s ds ev o he hk ho => ⟨fun hd hs ht => ?_, fun hd hs hi ht => ?_⟩, ?_, fun s ev he hn => ?_, ?_, ?_,
    fun s => rfl⟩
  · have closes := closable_boundary { s with due := ds } ev o he hk ho
    rw [exec_clockClose s ds hd ((clockArises_iff closes).mpr ⟨hs, ht⟩), addCause_of_event _ { s with due := ds } ev he]
    rfl
  · have closes := closable_boundary { s with due := ds } ev o he hk ho
    rw [exec_syncTimeout s ds hd ((timeoutArises_iff closes).mpr ⟨hs, hi, ht⟩),
      takeTimeout_eq { s with due := ds } ev o he ho]
  · intro s ev o cs joined step he hk ho hstep hj hcs
    have closes := closable_boundary s ev o he hk ho
    have stepped : timeStepArises s = step := Bool.eq_iff_iff.mpr ((timeStepArises_iff closes).trans hstep.symm)
    have decided : decidedCauses s = cs := (decidedCauses_eq closes joined (by rw [stepped, hj])).trans hcs.symm
    rw [← decided]
    exact ⟨decideClose_stays s, decideClose_closes s ev he, fun hn cfg e => decideClose_activates s ev cfg e he hn⟩
  · exact decideClose_stays s (by rw [decidedCauses, closable_none s ev he hn])
  · rintro s ev o cfg _ cs _ he ho ha rfl hcs rfl
    rw [microStep_close, closeEvent_eq s ev o cs he ho hcs, passClose_commitTariff cs ev.tOld s o ho]
    cases halts : ev.halting with
    | true => rfl
    | false =>
      exact openInterval_eq _ _ ev cfg he ha
  · rintro s ev _ he rfl
    refine ⟨fun hk => ?_, fun cfg hk ha => ?_⟩
    · rw [microStep_settleTariff, settleInterval_other s ev he hk, commitTariff_eq]
    · rw [microStep_settleTariff, settleInterval_first s ev cfg he hk ha]
      rfl

end Sys2Proof.Machine
end

section
/-! PROOF. INTERVAL_END and TARIFF_STEP are taken, and the tariff slot is evaluated (O31). -/

namespace Sys2Proof.Machine

/-! ## What the sync line left pending (R94, R102) -/

theorem intervalEndDue_of_event (s : State) (ev : Event) (he : s.event = some ev) :
    intervalEndDue s = ev.intervalEnd := by simp [intervalEndDue, he]

theorem takeIntervalEnd_closable (s : State) (ev : Event) (o : OpenInterval) (hc : closable s = some (ev, o)) :
    takeIntervalEnd s = if o.closeSync then addCause .sync s else { s with ic := { s.ic with
      unexpectedEnds := s.ic.unexpectedEnds + 1, current := some { o with unexpected := true } } } := by
  simp only [takeIntervalEnd, hc]

theorem takeIntervalEnd_none (s : State) (hc : closable s = none) : takeIntervalEnd s = { s with
    ic := { s.ic with unexpectedEnds := s.ic.unexpectedEnds + 1 } } := by simp only [takeIntervalEnd, hc]

theorem tariffSync_active (st : ConfigStore) (c : Cfg) (h : st.active = some c) :
    tariffSync st = decide (c.tariffSource = 1) := by simp only [tariffSync, h]

theorem tariffSlots_active (st : ConfigStore) (c : Cfg) (h : st.active = some c) : tariffSlots st = c.slots := by
  simp only [tariffSlots, h]

theorem takeTariffStep_sync (s : State) (h : tariffSync s.store = true) : takeTariffStep s = { s with ic := { s.ic with
    stepped := (s.ic.forced.getD s.ic.stepped + 1) % tariffSlots s.store, forced := none } } := if_pos h

theorem takeTariffStep_calendar (s : State) (h : tariffSync s.store = false) : takeTariffStep s = { s with
    ic := { s.ic with ignoredSteps := s.ic.ignoredSteps + 1 } } := if_neg (by simp [h])

/-! ## The governing switch point (R101) -/

/-- The minute of the week of a switch point of the calendar. -/
def switchMinute (i : Nat × Nat × Nat) : Nat := weekMinute i.1 i.2.1

theorem latestInstance_concat (l : List (Nat × Nat × Nat)) (i : Nat × Nat × Nat) :
    latestInstance (l ++ [i]) = match latestInstance l with
      | none => some i
      | some b => if switchMinute b < switchMinute i then some i else some b := by
  rw [latestInstance, List.foldl_append]
  rfl

theorem latestInstance_spec (l : List (Nat × Nat × Nat)) : (l = [] ∧ latestInstance l = none) ∨
    ∃ i ∈ l, latestInstance l = some i ∧ ∀ j ∈ l, switchMinute j ≤ switchMinute i := by
  induction l using List.reverseRecOn with
  | nil => exact .inl ⟨rfl, rfl⟩
  | append_singleton l i ih =>
    refine .inr ?_
    rw [latestInstance_concat]
    rcases ih with ⟨rfl, notFound⟩ | ⟨b, hb, found, latest⟩
    · exact ⟨i, by simp, by rw [notFound], by simp⟩
    · rw [found]
      by_cases later : switchMinute b < switchMinute i
      · refine ⟨i, by simp, if_pos later, fun j hj => ?_⟩
        rcases List.mem_append.mp hj with hj | hj
        · exact (latest j hj).trans later.le
        · rw [List.mem_singleton.mp hj]
      · refine ⟨b, by simp [hb], if_neg later, fun j hj => ?_⟩
        rcases List.mem_append.mp hj with hj | hj
        · exact latest j hj
        · rw [List.mem_singleton.mp hj]
          exact Nat.not_lt.mp later

theorem governingInstance_empty (st : ConfigStore) (day minute : Nat) (h : calendarInstances st = []) :
    governingInstance st day minute = none := by
  simp [governingInstance, h, latestInstance]

/-- R101: the governing switch point is the latest at or before the day and minute, else the last of the week. -/
theorem governingInstance_spec (st : ConfigStore) (day minute : Nat) (h : calendarInstances st ≠ []) :
    ∃ i ∈ calendarInstances st, governingInstance st day minute = some i ∧
      (switchMinute i ≤ weekMinute day minute ∧ (∀ j ∈ calendarInstances st,
          switchMinute j ≤ weekMinute day minute → switchMinute j ≤ switchMinute i) ∨
        ∀ j ∈ calendarInstances st, weekMinute day minute < switchMinute j ∧ switchMinute j ≤ switchMinute i) := by
  rcases latestInstance_spec ((calendarInstances st).filter (fun i => switchMinute i ≤ weekMinute day minute)) with
    ⟨allAhead, notFound⟩ | ⟨i, hi, found, latest⟩
  · obtain ⟨i, hi, last, latest⟩ := (latestInstance_spec (calendarInstances st)).resolve_left fun e => h e.1
    have ahead (j) (hj : j ∈ calendarInstances st) : weekMinute day minute < switchMinute j := by
      simpa using List.filter_eq_nil_iff.mp allAhead j hj
    have governs : governingInstance st day minute = latestInstance (calendarInstances st) := by
      unfold switchMinute at notFound
      simp only [governingInstance, notFound]
    exact ⟨i, hi, governs.trans last, .inr fun j hj => ⟨ahead j hj, latest j hj⟩⟩
  · obtain ⟨hi, past⟩ := List.mem_filter.mp hi
    have governs : governingInstance st day minute = some i := by
      unfold switchMinute at found
      simp only [governingInstance, found]
    refine ⟨i, hi, governs, .inl ⟨of_decide_eq_true past, fun j hj hp => ?_⟩⟩
    exact latest j (List.mem_filter.mpr ⟨hj, decide_eq_true hp⟩)

theorem mem_calendarInstances (st : ConfigStore) (c : Cfg) (d m slot : Nat) (h : st.active = some c) :
    (d, m, slot) ∈ calendarInstances st ↔ ∃ k ∈ c.calendar.take c.calendarCount,
      d < 7 ∧ k.dayMask.testBit d = true ∧ m = k.minute ∧ slot = k.slot := by
  simp only [calendarInstances, h, List.mem_flatMap, List.mem_filterMap, List.mem_range, Option.ite_none_right_eq_some,
    Option.some.injEq, Prod.mk.injEq]
  constructor
  · rintro ⟨k, hk, d, hd, bit, rfl, rfl, rfl⟩
    exact ⟨k, hk, hd, bit, rfl, rfl⟩
  · rintro ⟨k, hk, hd, bit, rfl, rfl⟩
    exact ⟨k, hk, d, hd, bit, rfl, rfl, rfl⟩

/-! ## The evaluation (R100, R103, R104) -/

theorem evaluateTariff_sync (st : ConfigStore) (ic : IntervalControl) (dow t : Nat) (here : Bool)
    (h : tariffSync st = true) : evaluateTariff st ic dow t here =
      { slot := ic.forced.getD ic.stepped, forced := ic.forced, governing := none } := if_pos h

section Calendar

variable {st : ConfigStore} {ic : IntervalControl} {dow t : Nat} {here : Bool} (h : tariffSync st = false)
include h

theorem evaluateTariff_governing : (evaluateTariff st ic dow t here).governing =
    (governingInstance st (dayOfWeek dow t) (minuteOfDay t)).map (fun i => (i.1, i.2.1)) := by
  simp [evaluateTariff, h]

theorem evaluateTariff_slot : (evaluateTariff st ic dow t here).slot = (evaluateTariff st ic dow t here).forced.getD
    ((governingInstance st (dayOfWeek dow t) (minuteOfDay t)).elim 0 (fun i => i.2.2)) := by
  simp only [evaluateTariff, h]
  cases governingInstance st (dayOfWeek dow t) (minuteOfDay t) <;> rfl

theorem evaluateTariff_forced : (evaluateTariff st ic dow t here).forced =
    if here = false ∧ (evaluateTariff st ic dow t here).governing ≠ ic.governing then none else ic.forced := by
  simp [evaluateTariff, h]

end Calendar

/-! ## The statement -/

/-- Settles O31: the two commands by what the event can close and by the tariff source, and the evaluation by the
governing switch point. -/
theorem lineEventsArePutToTheNextEvent : Obligations.LineEventsArePutToTheNextEvent := by
  refine ⟨?_, ?_, ?_, fun st c d m slot ha => mem_calendarInstances st c d m slot ha, ?_⟩
  · intro s ds ev hd he hi
    rw [exec_intervalEndTaken s ds hd ((intervalEndDue_of_event { s with due := ds } ev he).trans hi)]
    refine ⟨fun o hk ho hs => ?_, fun o hk ho hs => ?_, fun hn => ?_⟩
    · rw [takeIntervalEnd_closable _ ev o (closable_boundary { s with due := ds } ev o he hk ho), if_pos hs,
        addCause_of_event _ { s with due := ds } ev he]
      rfl
    · rw [takeIntervalEnd_closable _ ev o (closable_boundary { s with due := ds } ev o he hk ho), hs,
        if_neg Bool.false_ne_true]
    · rw [takeIntervalEnd_none _ (closable_none { s with due := ds } ev he hn)]
  · intro s ds ev c hd he ht hs ha
    have due : tariffStepDue { s with due := ds } = true := by simp [tariffStepDue, he, ht, hs]
    have source := tariffSync_active s.store c ha
    rw [exec_tariffStepTaken s ds hd due]
    refine ⟨fun h1 => ?_, fun h0 => ?_⟩
    · rw [takeTariffStep_sync { s with due := ds } (source.trans (decide_eq_true h1)), tariffSlots_active s.store c ha]
    · rw [takeTariffStep_calendar { s with due := ds } (source.trans (decide_eq_false (by omega)))]
  · exact fun st c ic dow t here ha h1 =>
      evaluateTariff_sync st ic dow t here ((tariffSync_active st c ha).trans (decide_eq_true h1))
  · rintro st c ic dow t _ here _ ha hs rfl rfl
    have source : tariffSync st = false := (tariffSync_active st c ha).trans (decide_eq_false hs)
    refine ⟨evaluateTariff_forced source, fun empty => ?_, fun filled => ?_⟩
    · rw [evaluateTariff_governing source, evaluateTariff_slot source, governingInstance_empty st _ _ empty]
      exact ⟨rfl, rfl⟩
    · obtain ⟨⟨d, m, slot⟩, hi, found, place⟩ := governingInstance_spec st (dayOfWeek dow t) (minuteOfDay t) filled
      refine ⟨d, m, slot, hi, ?_, ?_, place⟩
      · rw [evaluateTariff_governing source, found]
        rfl
      · rw [evaluateTariff_slot source, found]
        rfl

end Sys2Proof.Machine
end

section
/-! PROOF. A pending demand reset is applied, and the orders that joined it complete in turn (O32). -/

namespace Sys2Proof.Machine

/-! ## One completion (R163) -/

/-- The mark that a completion sets on the order of an entry. -/
def InFlight.mark (e : Fin 16) (f : InFlight) : InFlight := if f.entry = e then { f with completed := true } else f

theorem InFlight.mark_entry (e : Fin 16) (f : InFlight) : (f.mark e).entry = f.entry := by
  unfold InFlight.mark
  split <;> rfl

theorem InFlight.mark_completed (e : Fin 16) (f : InFlight) (h : f.entry = e ∨ f.completed = true) :
    (f.mark e).completed = true := by
  unfold InFlight.mark
  split
  · rfl
  · next other => exact h.resolve_left other

section Complete

variable (e : Fin 16) (failed : Bool) (code : ResultCode) (value : Word64) (time : Nat) (s : State)

/-- The completion of an order in flight joins the queue, and the order is marked. -/
theorem complete_open (f : InFlight) (hf : s.inFlight e = some f) (hc : f.completed = false) :
    ∃ h, complete e failed code value time s = { s with orders := { s.orders with
      inFlight := s.orders.inFlight.map (InFlight.mark e)
      queue := s.orders.queue ++ [.completion e { failed, code, value, time, tag := f.tag } false], head := h } } := by
  obtain ⟨h, hp, -⟩ := pump_spec { s with orders := { s.orders with
    inFlight := s.orders.inFlight.map (InFlight.mark e)
    queue := s.orders.queue ++ [.completion e { failed, code, value, time, tag := f.tag } false] } }
  refine ⟨h, ?_⟩
  simp only [complete, hf, hc, Bool.false_eq_true, if_false]
  exact hp

/-- What joins the queue is a completion of the entry, and nothing leaves it. -/
theorem queue_complete : (∀ q ∈ s.orders.queue, q ∈ (complete e failed code value time s).orders.queue) ∧
    ∀ q ∈ (complete e failed code value time s).orders.queue,
      q ∈ s.orders.queue ∨ ∃ tag, q = .completion e { failed, code, value, time, tag } false := by
  rcases complete_spec e failed code value time s with same | ⟨f, h, -, -, made⟩
  · rw [same]
    exact ⟨fun q hq => hq, fun q hq => .inl hq⟩
  · rw [made]
    refine ⟨fun q hq => List.mem_append_left _ hq, fun q hq => ?_⟩
    exact (List.mem_append.mp hq).imp_right fun hq => ⟨f.tag, List.mem_singleton.mp hq⟩

/-- A completion leaves the orders of the other entries as they are. -/
theorem inFlight_complete_of_ne (e' : Fin 16) (h : e' ≠ e) :
    (complete e failed code value time s).inFlight e' = s.inFlight e' := by
  have other (l : List InFlight) : (l.map (InFlight.mark e)).find? (fun f => f.entry = e') =
      l.find? (fun f => f.entry = e') := by
    induction l with
    | nil => rfl
    | cons f l ih =>
      by_cases at' : f.entry = e'
      · have kept : f.mark e = f := if_neg (at' ▸ h)
        simp [kept, at']
      · simp [InFlight.mark_entry, at', ih]
  rcases complete_spec e failed code value time s with same | ⟨f, hd, hf, hc, -⟩
  · rw [same]
  · obtain ⟨hd, made⟩ := complete_open e failed code value time s f hf hc
    rw [made]
    exact other s.orders.inFlight

/-- With no index in flight twice, a completion leaves the orders in flight as they were, but for its entry's mark. -/
theorem mem_inFlight_complete (once : entriesOnce s) (f : InFlight)
    (hf : f ∈ (complete e failed code value time s).orders.inFlight) : ∃ g ∈ s.orders.inFlight, f = g.mark e := by
  rcases h : s.inFlight e with _ | g
  · have same : complete e failed code value time s = s := by simp only [complete, h]
    rw [same] at hf
    have other : f.entry ≠ e := by simpa using List.find?_eq_none.mp h f hf
    exact ⟨f, hf, (if_neg other).symm⟩
  · cases hc : g.completed with
    | true =>
      have same : complete e failed code value time s = s := by simp only [complete, h, hc, if_true]
      rw [same] at hf
      refine ⟨f, hf, ?_⟩
      unfold InFlight.mark
      split
      · next entry =>
        have only : f = g := List.inj_on_of_nodup_map once hf (List.mem_of_find?_eq_some h)
          (entry.trans (inFlight_entry s e g h).symm)
        rw [only, ← hc]
      · rfl
    | false =>
      obtain ⟨hd, made⟩ := complete_open e failed code value time s g h hc
      rw [made] at hf
      obtain ⟨g', hg, rfl⟩ := List.mem_map.mp hf
      exact ⟨g', hg, rfl⟩

end Complete

/-! ## Orders that complete in turn (log 41) -/

/-- Orders that complete DONE with OK in turn, with one result value and at one time value. -/
def doneInTurn (value : Word64) (time : Nat) (es : List (Fin 16)) (s : State) : State :=
  es.foldl (fun u e => completeOk e value time u) s

section InTurn

variable (value : Word64) (time : Nat)

theorem doneInTurn_cons (e : Fin 16) (es : List (Fin 16)) (s : State) :
    doneInTurn value time (e :: es) s = doneInTurn value time es (completeOk e value time s) := rfl

/-- Completing in turn touches the order unit alone. -/
theorem doneInTurn_orders_only (es : List (Fin 16)) (s : State) :
    ∃ o, doneInTurn value time es s = { s with orders := o } :=
  foldl_completeOk (fun e => e) (fun _ _ => value) (fun _ => time) es s

theorem mem_queue_doneInTurn : ∀ (es : List (Fin 16)) (s : State), ∀ q ∈ s.orders.queue,
    q ∈ (doneInTurn value time es s).orders.queue
  | [], _, _, hq => hq
  | e :: es, s, q, hq =>
    mem_queue_doneInTurn es _ q ((queue_complete e false .ok value time s).1 q hq)

/-- What joins the queue is a completion of one of the entries. -/
theorem queue_doneInTurn : ∀ (es : List (Fin 16)) (s : State), ∀ q ∈ (doneInTurn value time es s).orders.queue,
    q ∈ s.orders.queue ∨ ∃ e ∈ es, ∃ tag, q = .completion e { failed := false, code := .ok, value, time, tag } false
  | [], _, _, hq => .inl hq
  | e :: es, s, q, hq => by
    rcases queue_doneInTurn es _ q hq with earlier | ⟨e', he, tag, made⟩
    · exact ((queue_complete e false .ok value time s).2 q earlier).imp_right
        fun ⟨tag, made⟩ => ⟨e, List.mem_cons_self .., tag, made⟩
    · exact .inr ⟨e', List.mem_cons_of_mem _ he, tag, made⟩

/-- Every order of the entries, in flight without a completion, has one in the queue. -/
theorem completion_mem_doneInTurn : ∀ (es : List (Fin 16)) (s : State), ∀ e ∈ es, ∀ f, s.inFlight e = some f →
    f.completed = false → .completion e { failed := false, code := .ok, value, time, tag := f.tag } false ∈
      (doneInTurn value time es s).orders.queue
  | [], _, e, he, _, _, _ => absurd he (List.not_mem_nil)
  | a :: es, s, e, he, f, hf, hc => by
    rw [doneInTurn_cons]
    by_cases first : e = a
    · subst first
      obtain ⟨h, made⟩ := complete_open e false .ok value time s f hf hc
      refine mem_queue_doneInTurn value time es _ _ ?_
      rw [completeOk, made]
      exact List.mem_append_right _ (List.mem_singleton_self _)
    · exact completion_mem_doneInTurn es _ e (List.mem_of_ne_of_mem first he) f
        ((inFlight_complete_of_ne a false .ok value time s e first).trans hf) hc

/-- With no index in flight twice, the orders of the entries are completed. -/
theorem completed_doneInTurn : ∀ (es : List (Fin 16)) (s : State), entriesOnce s →
    ∀ f ∈ (doneInTurn value time es s).orders.inFlight,
      (f.entry ∈ es → f.completed = true) ∧ ∃ g ∈ s.orders.inFlight, g.entry = f.entry ∧
        (g.completed = true → f.completed = true)
  | [], _, _, f, hf => ⟨fun h => absurd h List.not_mem_nil, f, hf, rfl, id⟩
  | a :: es, s, once, f, hf => by
    have still : entriesOnce (completeOk a value time s) := by
      have same := congrArg Outline.entries (outline_completeOk a value time s)
      exact (congrArg List.Nodup same).mpr once
    obtain ⟨later, g, hg, entry, kept⟩ := completed_doneInTurn es _ still f hf
    obtain ⟨g', hg', rfl⟩ := mem_inFlight_complete a false .ok value time s once g hg
    rw [InFlight.mark_entry] at entry
    refine ⟨fun hm => ?_, g', hg', entry, fun done => kept (InFlight.mark_completed a g' (.inr done))⟩
    rcases List.mem_cons.mp hm with first | rest
    · exact kept (InFlight.mark_completed a g' (.inl (entry.trans first)))
    · exact later rest

end InTurn

/-! ## The statement -/

theorem demandApplies_iff (s : State) (ev : Event) (o : OpenInterval) (hc : closable s = some (ev, o)) :
    demandApplies s = true ↔ ev.demand = true ∧ ev.unfiled = false := by
  simp [demandApplies, hc]

/-- A completion leaves the number of the interval and the time value of the event as they are. -/
theorem foldl_completeOk_eq : ∀ (es : List (Fin 16)) (s : State),
    es.foldl (fun s e => completeOk e s.ic.seq (eventTime s) s) s = doneInTurn s.ic.seq (eventTime s) es s
  | [], _ => rfl
  | e :: es, s => by
    obtain ⟨o, made⟩ := complete_orders_only e false .ok s.ic.seq (eventTime s) s
    have seq : (completeOk e s.ic.seq (eventTime s) s).ic.seq = s.ic.seq := by rw [completeOk, made]
    have time : eventTime (completeOk e s.ic.seq (eventTime s) s) = eventTime s := by rw [completeOk, made]; rfl
    rw [List.foldl_cons, foldl_completeOk_eq es, seq, time, doneInTurn_cons]

/-- R108, R109: DEMAND_RESET joins the close, and the orders that joined the reset complete in turn. -/
theorem applyDemandReset_eq (s : State) (ev : Event) (he : s.event = some ev) : applyDemandReset s =
    doneInTurn s.ic.seq ev.tOld s.ic.demandOrders { s with
      event := some { ev with causes := ev.causes ||| (1#10 <<< 6) }
      ic := { s.ic with demandPending := ev.lateDemand, unfiled := true, demandOrders := [] } } := by
  have late : demandArrivedLate s = ev.lateDemand := by simp [demandArrivedLate, he]
  have joined : addCause .demandReset { s with ic := { s.ic with
      demandPending := demandArrivedLate s, unfiled := true, demandOrders := [] } } = { s with
        event := some { ev with causes := ev.causes ||| (1#10 <<< 6) }
        ic := { s.ic with demandPending := ev.lateDemand, unfiled := true, demandOrders := [] } } := by
    rw [late]
    exact addCause_of_event .demandReset _ ev he
  exact (foldl_completeOk_eq s.ic.demandOrders _).trans (by rw [joined]; rfl)

/-- Settles O32: what is applied is `applyDemandReset_eq`, and its completions are those of `doneInTurn`. -/
theorem demandResetIsApplied : Obligations.DemandResetIsApplied := by
  intro s ds ev o hd he hk ho hp once
  have closes := closable_boundary { s with due := ds } ev o he hk ho
  refine ⟨fun hu => ?_, fun hu => ?_⟩
  · rw [exec_demandResetApply s ds hd ((demandApplies_iff _ ev o closes).mpr ⟨hp, hu⟩),
      applyDemandReset_eq { s with due := ds } ev he]
    obtain ⟨w, hw⟩ : ∃ w : State, w = { s with
      due := ds, event := some { ev with causes := ev.causes ||| (1#10 <<< 6) }
      ic := { s.ic with demandPending := ev.lateDemand, unfiled := true, demandOrders := [] } } := ⟨_, rfl⟩
    have orders : w.orders = s.orders := by rw [hw]
    have flight (e) : w.inFlight e = s.inFlight e := by rw [State.inFlight, orders]; rfl
    obtain ⟨u, only⟩ := doneInTurn_orders_only s.ic.seq ev.tOld s.ic.demandOrders w
    refine ⟨doneInTurn s.ic.seq ev.tOld s.ic.demandOrders w, by rw [hw], by rw [only, hw], by rw [only, hw],
      by rw [only, hw], fun e he f hf entry => ?_, fun q hq => ?_, fun e he f hf hc => ?_, fun q hq => ?_,
      by rw [only, hw], by rw [only, hw], by rw [only, hw]⟩
    · exact (completed_doneInTurn _ _ _ w (by rwa [entriesOnce, orders]) f hf).1 (entry ▸ he)
    · exact mem_queue_doneInTurn _ _ _ w q (orders ▸ hq)
    · exact completion_mem_doneInTurn _ _ _ w e he f ((flight e).trans hf) hc
    · exact orders ▸ queue_doneInTurn _ _ _ w q hq
  · exact onlyIf_false _ _ _ (Bool.eq_false_iff.mpr fun h => by
      simpa [hu] using ((demandApplies_iff _ ev o closes).mp h).2)

end Sys2Proof.Machine
end

section
/-! PROOF. The sync line: its low periods (O36), and the stuck-low fault, its recovery and the ends of bursts (O37). -/

namespace Sys2Proof.Machine

/-! ## The decoder's timers (R105, R106; log 1) -/

theorem overdue_none (f : State → State) (s : State) : overdue none f s = s := rfl

theorem overdue_passed (t : Nat) (f : State → State) (s : State) (h : t ≤ s.tick) : overdue (some t) f s = f s :=
  if_pos h

theorem overdue_ahead (t : Nat) (f : State → State) (s : State) (h : s.tick < t) : overdue (some t) f s = s :=
  if_neg (Nat.not_le.mpr h)

/-- What a timer has due leaves nothing due inside the step, where the act itself does not. -/
theorem overdue_due (at? : Option Nat) (f : State → State) (s : State) (h : ∀ s, (f s).due = s.due) :
    (overdue at? f s).due = s.due := by
  cases at? with
  | none => rfl
  | some t =>
    rcases Nat.lt_or_ge s.tick t with ahead | passed
    · rw [overdue_ahead t f s ahead]
    · rw [overdue_passed t f s passed, h]

theorem burstEndAt_high (d : Decoder) (hl : d.lineLow = false) (hr : d.recovering = false) (hp : 0 < d.pulses) :
    burstEndAt d = some (d.lastPulseEnd + 4000000) := by simp [burstEndAt, hl, hr, hp, quietTicks]

theorem burstEndAt_none (d : Decoder) (hp : d.pulses = 0) : burstEndAt d = none := by simp [burstEndAt, hp]

theorem recoveryAt_high (d : Decoder) (hl : d.lineLow = false) (hr : d.recovering = true) :
    recoveryAt d = some (d.highSince + 4000000) := by simp [recoveryAt, hl, hr, quietTicks]

theorem recoveryAt_none (d : Decoder) (hr : d.recovering = false) : recoveryAt d = none := by simp [recoveryAt, hr]

theorem stuckLowAt_low (d : Decoder) (t : Nat) (hl : d.lineLow = true) (ht : d.lowSince = some t)
    (hd : d.declared = false) : stuckLowAt d = some (t + 5000001) := by
  simp [stuckLowAt, hl, ht, hd, pulseTicks]

theorem stuckLowAt_declared (d : Decoder) (hd : d.declared = true) : stuckLowAt d = none := by
  unfold stuckLowAt
  split
  · simp [hd]
  · rfl

/-- A burst that has no pulse, or whose 400 ms have not passed, does not end. -/
theorem overdue_endBurst_ahead (s : State)
    (h : s.ic.decoder.pulses = 0 ∨ s.tick < s.ic.decoder.lastPulseEnd + 4000000) :
    overdue (burstEndAt s.ic.decoder) endBurst s = s := by
  unfold burstEndAt
  split
  · next inProgress =>
    have pulses : 0 < s.ic.decoder.pulses := by simp at inProgress; omega
    exact overdue_ahead _ endBurst s (h.resolve_left (Nat.ne_of_gt pulses))
  · rfl

theorem overdue_endBurst_passed (s : State) (hl : s.ic.decoder.lineLow = false) (hr : s.ic.decoder.recovering = false)
    (hp : 0 < s.ic.decoder.pulses) (h : s.ic.decoder.lastPulseEnd + 4000000 ≤ s.tick) :
    overdue (burstEndAt s.ic.decoder) endBurst s = endBurst s := by
  rw [burstEndAt_high _ hl hr hp, overdue_passed _ _ _ h]

/-! ## Bursts (R106 to R108) -/

@[simp] theorem burstAction_due (n : Nat) (s : State) : (burstAction n s).due = s.due := by
  obtain ⟨ic, cs, event, e, -⟩ := burstAction_spec n s
  rw [e]

@[simp] theorem burstAction_tick (n : Nat) (s : State) : (burstAction n s).tick = s.tick := by
  obtain ⟨ic, cs, event, e, -⟩ := burstAction_spec n s
  rw [e]

@[simp] theorem burstAction_decoder (n : Nat) (s : State) : (burstAction n s).ic.decoder = s.ic.decoder := by
  unfold burstAction markMalformed
  split_ifs <;> rfl

@[simp] theorem endBurst_due (s : State) : (endBurst s).due = s.due := burstAction_due _ _

theorem burstAction_one (s : State) : burstAction 1 s = { s with ic := { s.ic with pendingEnd := true } } := rfl

theorem burstAction_step (n : Nat) (s : State) (h : n = 2 ∨ n = 3) :
    burstAction n s = { s with ic := { s.ic with pendingStep := true } } := by
  rcases h with rfl | rfl <;> rfl

theorem burstAction_demand (n : Nat) (s : State) (h4 : 4 ≤ n) (h6 : n ≤ 6) : burstAction n s = { s with
    event := s.event.map (fun ev => { ev with lateDemand := true }), ic := { s.ic with demandPending := true } } := by
  have notZero : n ≠ 0 := by omega
  have notOne : n ≠ 1 := by omega
  have beyondThree : ¬ n ≤ 3 := by omega
  simp only [burstAction, notZero, notOne, beyondThree, h6, if_true, if_false]
  rfl

theorem burstAction_malformed (n : Nat) (s : State) (h : 7 ≤ n) : burstAction n s = request .sync { s with
    ic := { s.ic with
      malformedBursts := s.ic.malformedBursts + 1
      current := s.ic.current.map (fun o => { o with malformed := true }) } } := by
  have notZero : n ≠ 0 := by omega
  have notOne : n ≠ 1 := by omega
  have beyondThree : ¬ n ≤ 3 := by omega
  have beyondSix : ¬ n ≤ 6 := by omega
  simp only [burstAction, notZero, notOne, beyondThree, beyondSix, if_false]
  rfl

/-! ## The line falls (R105) -/

theorem lineFall_low (s : State) (h : s.ic.decoder.lineLow = true) : lineFall s = s := if_pos h

theorem lineFall_high (s : State) (h : s.ic.decoder.lineLow = false) : lineFall s =
    modDecoder (fun d => { d with lineLow := true, lowSince := some (overdueHigh s).tick, declared := false })
      (overdueHigh s) := if_neg (by simp [h])

/-- Outside a recovery only a burst can have ended. -/
theorem overdueHigh_decoding (s : State) (h : s.ic.decoder.recovering = false) :
    overdueHigh s = overdue (burstEndAt s.ic.decoder) endBurst s := by
  rw [overdueHigh, recoveryAt_none _ h, overdue_none]

/-- In a recovery no burst is in progress, and the recovery goes on until 400 ms have passed. -/
theorem overdueHigh_recovering (s : State) (goesOn : Bool) (hl : s.ic.decoder.lineLow = false)
    (hr : s.ic.decoder.recovering = true) (hp : s.ic.decoder.pulses = 0)
    (h : goesOn = decide (s.tick < s.ic.decoder.highSince + 4000000)) :
    overdueHigh s = modDecoder (fun d => { d with recovering := goesOn }) s := by
  rw [overdueHigh, recoveryAt_high _ hl hr, burstEndAt_none _ hp, overdue_none]
  rcases Nat.lt_or_ge s.tick (s.ic.decoder.highSince + 4000000) with ahead | passed
  · rw [overdue_ahead _ _ _ ahead, modDecoder, h, decide_eq_true ahead, ← hr]
  · rw [overdue_passed _ _ _ passed, h, decide_eq_false (Nat.not_lt.mpr passed)]
    rfl

@[simp] theorem overdueHigh_due (s : State) : (overdueHigh s).due = s.due :=
  (overdue_due _ _ _ endBurst_due).trans (overdue_due _ _ _ fun _ => rfl)

theorem lineFall_recovering (s : State) (goesOn : Bool) (hl : s.ic.decoder.lineLow = false)
    (hr : s.ic.decoder.recovering = true) (hp : s.ic.decoder.pulses = 0)
    (h : goesOn = decide (s.tick < s.ic.decoder.highSince + 4000000)) : lineFall s = { s with
      ic := { s.ic with decoder := { s.ic.decoder with
        lineLow := true, lowSince := some s.tick, declared := false, recovering := goesOn } } } := by
  rw [lineFall_high s hl, overdueHigh_recovering s goesOn hl hr hp h]
  rfl

@[simp] theorem lineFall_due (s : State) : (lineFall s).due = s.due := by
  cases h : s.ic.decoder.lineLow with
  | true => rw [lineFall_low s h]
  | false => rw [lineFall_high s h, modDecoder_due, overdueHigh_due]

/-! ## The line rises (R105, R106) -/

theorem lineRise_high (s : State) (h : s.ic.decoder.lineLow = false) : lineRise s = s := if_pos (by simp [h])

/-- R105: a low period of at most 500 ms outside a recovery is judged. -/
theorem lineRise_judged (s : State) (t : Nat) (hl : s.ic.decoder.lineLow = true) (ht : s.ic.decoder.lowSince = some t)
    (hd : s.ic.decoder.declared = false) (hr : s.ic.decoder.recovering = false) (h : s.tick ≤ t + 5000000) :
    lineRise s = judgeLow (s.tick - t) (lineHigh s) := by
  simp [lineRise, hl, stuckLowAt_low _ t hl ht hd, overdue_ahead _ stuckLow s (Nat.lt_succ_of_le h), ht, hr]

/-- R105: in a recovery a low period that is no fault of its own, or was declared one, counts as nothing. -/
theorem lineRise_recovering (s : State) (t : Nat) (hl : s.ic.decoder.lineLow = true)
    (ht : s.ic.decoder.lowSince = some t) (hr : s.ic.decoder.recovering = true)
    (h : s.ic.decoder.declared = true ∨ s.tick ≤ t + 5000000) : lineRise s = lineHigh s := by
  have noFault : overdue (stuckLowAt s.ic.decoder) stuckLow s = s := by
    cases hd : s.ic.decoder.declared with
    | true => rw [stuckLowAt_declared _ hd]; rfl
    | false =>
      rw [stuckLowAt_low _ t hl ht hd]
      exact overdue_ahead _ stuckLow s (Nat.lt_succ_of_le (h.resolve_left (by simp [hd])))
  simp [lineRise, hl, noFault, ht, hr]

/-- R105: a low period beyond 500 ms is a stuck-low fault, and the recovery begins at the rise. -/
theorem lineRise_stuck (s : State) (t : Nat) (hl : s.ic.decoder.lineLow = true) (ht : s.ic.decoder.lowSince = some t)
    (hd : s.ic.decoder.declared = false) (h : t + 5000000 < s.tick) : lineRise s = lineHigh (stuckLow s) := by
  have recovering : (stuckLow s).ic.decoder.recovering = true := rfl
  have since : (stuckLow s).ic.decoder.lowSince = some t := ht
  simp [lineRise, hl, stuckLowAt_low _ t hl ht hd, overdue_passed _ stuckLow s h, since, recovering]

/-- R105: a glitch is counted. -/
def countGlitch (s : State) : State := { s with ic := { s.ic with glitches := s.ic.glitches + 1 } }

theorem judgeLow_glitch (low : Nat) (s : State) (h : low < 200000) : judgeLow low s =
    overdue (burstEndAt (countGlitch s).ic.decoder) endBurst (countGlitch s) := if_pos h

theorem judgeLow_pulse (low : Nat) (s : State) (h : 200000 ≤ low) : judgeLow low s =
    modDecoder (fun d => { d with pulses := d.pulses + 1, lastPulseEnd := s.tick }) s := if_neg (Nat.not_lt.mpr h)

@[simp] theorem judgeLow_due (low : Nat) (s : State) : (judgeLow low s).due = s.due := by
  rcases Nat.lt_or_ge low 200000 with glitch | pulse
  · rw [judgeLow_glitch low s glitch, overdue_due _ _ _ endBurst_due]
    rfl
  · rw [judgeLow_pulse low s pulse, modDecoder_due]

@[simp] theorem lineRise_due (s : State) : (lineRise s).due = s.due := by
  have fault : (overdue (stuckLowAt s.ic.decoder) stuckLow s).due = s.due := overdue_due _ _ _ fun _ => rfl
  unfold lineRise
  split
  · rfl
  · simp only
    split
    · split
      · exact fault
      · exact (judgeLow_due _ _).trans fault
    · exact fault

/-! ## The commands -/

/-- A change of the line outside a reset: time passes and the decoder acts, which leaves nothing due. -/
theorem lineChange_plain (dt : Nat) (low : Bool) (act : State → State) (s : State) (h : quiet s)
    (ha : ∀ s, (act s).due = s.due) : lineChange dt low act s = act (elapse dt s) := by
  obtain ⟨phase, due⟩ := h
  have running : inReset s = false := by simp [inReset, phase]
  rw [lineChange, running, if_neg Bool.false_ne_true,
    fromOutside_plain dt act s phase due ((ha _).trans ((elapse_due dt s).trans due))]

theorem exec_syncLineFall (dt : Nat) (s : State) (h : quiet s) :
    exec (.syncLineFall dt) s = .next (lineFall (elapse dt s)) :=
  congrArg Host.Outcome.next (lineChange_plain dt true lineFall s h lineFall_due)

theorem exec_syncLineRise (dt : Nat) (s : State) (h : quiet s) :
    exec (.syncLineRise dt) s = .next (lineRise (elapse dt s)) :=
  congrArg Host.Outcome.next (lineChange_plain dt false lineRise s h lineRise_due)

/-- A command of the decoder's own timer: time passes up to its instant, if that lies ahead, and the act follows. -/
theorem fromTimer_plain (instant : State → Option Nat) (act : State → State) (s : State) (t : Nat) (h : quiet s)
    (hi : instant s = some t) (ha : ∀ s, (act s).due = s.due) :
    fromTimer instant act s = act (elapse (t - s.tick) s) := by
  obtain ⟨phase, due⟩ := h
  rw [fromTimer_quiet instant act s t phase due hi, waitUntil, advance_nil _ (by simpa [ha] using due)]

/-! ## The statements -/

/-- Settles O36: each fall and each rise comes to one of the lemmas on `lineFall`, `lineRise` and `judgeLow`. -/
theorem linePulsesAreTimed : Obligations.LinePulsesAreTimed := by
  rintro s dt _ _ h rfl rfl
  rw [exec_syncLineFall dt s h, exec_syncLineRise dt s h]
  obtain ⟨w, hw⟩ : ∃ w, w = elapse dt s := ⟨_, rfl⟩
  have ic : w.ic = s.ic := by rw [hw, elapse_ic]
  have tick : w.tick = s.tick + dt := by rw [hw, elapse_tick]
  rw [← hw, ← tick, ← ic]
  refine ⟨fun hl hr hb => ?_, fun hl hr hp hb => ?_, fun hl hr hp => ?_, fun hl => ?_, fun hl => ?_,
    fun t hl ht hd hs => ⟨fun hr hg hb => ?_, fun hr hg hp hb => ?_, fun hr h20 h500 => ?_, fun hr h500 => ?_,
      fun h500 => ?_⟩, fun t hl ht hd hr => ?_⟩
  · rw [lineFall_high w hl, overdueHigh_decoding w hr, overdue_endBurst_ahead w hb]
    rfl
  · refine ⟨_, rfl, ?_⟩
    rw [lineFall_high w hl, overdueHigh_decoding w hr, overdue_endBurst_passed w hl hr hp hb]
    simp [endBurst, modDecoder]
  · rw [lineFall_recovering w _ hl hr hp rfl]
  · rw [lineFall_low w hl]
  · rw [lineRise_high w hl]
  · rw [lineRise_judged w t hl ht hd hr (by omega), judgeLow_glitch _ _ hg,
      overdue_endBurst_ahead (countGlitch (lineHigh w)) hb]
    simp [countGlitch, lineHigh, modDecoder, hd]
  · rw [lineRise_judged w t hl ht hd hr (by omega), judgeLow_glitch _ _ hg,
      overdue_endBurst_passed (countGlitch (lineHigh w)) rfl hr hp hb]
    simp [endBurst, countGlitch, lineHigh, modDecoder, hd]
  · rw [lineRise_judged w t hl ht hd hr (by omega), judgeLow_pulse _ _ h20]
    simp [lineHigh, modDecoder, hd]
  · rw [lineRise_recovering w t hl ht hr (.inr (by omega))]
    simp [lineHigh, modDecoder, hd]
  · rw [lineRise_stuck w t hl ht hd (by omega)]
    rfl
  · rw [lineRise_recovering w t hl ht hr (.inl hd)]
    rfl

/-- Settles O37: each command falls at the instant of its timer, and `burstAction` says what a burst does. -/
theorem stuckLineAndBurstEnds : Obligations.StuckLineAndBurstEnds := by
  refine ⟨?_, ?_⟩
  · rintro s _ h rfl
    refine ⟨fun t hl ht hd => ?_, fun hr hl => ?_⟩
    · show Host.Outcome.next (fromTimer (fun s => stuckLowAt s.ic.decoder) stuckLow s) = _
      rw [fromTimer_plain _ stuckLow s _ h (stuckLowAt_low _ t hl ht hd) fun _ => rfl]
      simp [stuckLow, markMalformed, modDecoder]
    · show Host.Outcome.next (fromTimer (fun s => recoveryAt s.ic.decoder) recover s) = _
      rw [fromTimer_plain _ recover s _ h (recoveryAt_high _ hl hr) fun _ => rfl]
      simp [recover, modDecoder]
  · rintro s w _ h rfl hl hr rfl
    have ends (hp : 0 < s.ic.decoder.pulses) : exec .syncBurstEnd s =
        .next (burstAction s.ic.decoder.pulses { elapse (s.ic.decoder.lastPulseEnd + 4000000 - s.tick) s with
          ic := { s.ic with decoder := { s.ic.decoder with pulses := 0 } } }) := by
      show Host.Outcome.next (fromTimer (fun s => burstEndAt s.ic.decoder) endBurst s) = _
      rw [fromTimer_plain _ endBurst s _ h (burstEndAt_high _ hl hr hp) endBurst_due]
      simp [endBurst, modDecoder]
    refine ⟨fun hp => ?_, fun hp => ?_, fun h4 h6 => ?_, fun h7 => ?_⟩
    · rw [ends (by omega), hp, burstAction_one]
    · rw [ends (by omega), burstAction_step _ _ hp]
    · rw [ends (by omega), burstAction_demand _ _ h4 h6]
      simp
    · rw [ends (by omega), burstAction_malformed _ _ h7]

end Sys2Proof.Machine
end

section
/-! PROOF. LOAD_CONFIG and CLOSE_INTERVAL orders (O48), DEMAND_RESET and TARIFF_SET orders (O49). -/

namespace Sys2Proof.Machine

/-- The command of an order kind, at an order that its event refuses: the order fails at the time value of the event. -/
theorem perform_refused (k : Nat) (s : State) (e : Fin 16) (ds : List Due) (f : InFlight) (ev : Event)
    (code : ResultCode) (hd : s.due = .handOver e :: ds) (hf : s.inFlight e = some f) (he : s.event = some ev)
    (hk : f.kind = k) (h1 : 1 ≤ k) (h2 : k ≤ 10)
    (hc : carryOut f { s with due := ds } =
      completeFail f.entry code (eventTime { s with due := ds }) { s with due := ds }) :
    perform (handsOver k e) s = advance (complete e true code 0 ev.tOld { s with due := ds }) := by
  rw [perform_handsOver k s e ds f hd hf hk h1 h2, hc, inFlight_entry s e f hf,
    eventTime_of_event { s with due := ds } ev he]
  rfl

/-! ## LOAD_CONFIG (R166) and CLOSE_INTERVAL (R110, R168) -/

theorem carryOut_loadConfig (f : InFlight) (s : State) (h : f.kind = 1) : carryOut f s = orderLoadConfig f s := by
  simp [carryOut, h]

theorem carryOut_closeInterval (f : InFlight) (s : State) (h : f.kind = 2) : carryOut f s = orderCloseInterval f s := by
  simp [carryOut, h]

/-- R166: the block read is issued, and the rest of the event waits for it. -/
theorem orderLoadConfig_reads (f : InFlight) (s : State) (ev : Event) (he : s.event = some ev)
    (hc : canAccess s = true) : orderLoadConfig f s = { s with
      due := [], event := some { ev with todo := s.due }
      port := { s.port with
        configRead := some { entry := f.entry, access := { base := s.port.exbase, issuedAt := s.tick } } } } := by
  simp only [orderLoadConfig, hc, if_true, pauseEvent, modEvent, he]
  rfl

theorem orderLoadConfig_unreached (f : InFlight) (s : State) (hc : canAccess s = false) :
    orderLoadConfig f s = completeFail f.entry .busFault (eventTime s) s := if_neg (by simp [hc])

theorem orderCloseInterval_joins (f : InFlight) (s : State) (ev : Event) (o : OpenInterval) (he : s.event = some ev)
    (hc : closable s = some (ev, o)) : orderCloseInterval f s = { s with
      event := some { ev with causes := ev.causes ||| (1#10 <<< 3) }
      ic := { s.ic with closeOrders := s.ic.closeOrders ++ [(f.entry, s.ic.seq)] } } := by
  simp only [orderCloseInterval, hc, Option.isSome_some, if_true, addCause, modEvent, he]
  rfl

theorem orderCloseInterval_refused (f : InFlight) (s : State) (hc : closable s = none) :
    orderCloseInterval f s = completeFail f.entry .badState (eventTime s) s := if_neg (by simp [hc])

/-- Settles O48: each order by whether its event can carry it out. -/
theorem loadAndCloseOrdersAreCarriedOut : Obligations.LoadAndCloseOrdersAreCarriedOut := by
  intro s e ds f ev hd hf he
  have entry := inFlight_entry s e f hf
  refine ⟨fun hk hx hb => ?_, fun hk hn => congrArg Host.Outcome.next ?_,
    fun hk hb ho => congrArg Host.Outcome.next ?_, fun hk hn => congrArg Host.Outcome.next ?_⟩
  · have reached : canAccess { s with due := ds } = true := (canAccess_iff _).mpr ⟨hx, hb⟩
    show Host.Outcome.next (perform (handsOver 1 e) s) = _
    rw [perform_handsOver 1 s e ds f hd hf hk (by decide) (by decide), carryOut_loadConfig f _ hk,
      orderLoadConfig_reads f { s with due := ds } ev he reached, advance_nil _ rfl, entry]
  · have unreached : canAccess { s with due := ds } = false :=
      Bool.eq_false_iff.mpr fun h => hn.elim (absurd ((canAccess_iff _).mp h).1) fun h0 => ((canAccess_iff _).mp h).2 h0
    exact perform_refused 1 s e ds f ev .busFault hd hf he hk (by decide) (by decide)
      ((carryOut_loadConfig f _ hk).trans (orderLoadConfig_unreached f _ unreached))
  · obtain ⟨o, ho⟩ := Option.ne_none_iff_exists'.mp ho
    rw [perform_handsOver 2 s e ds f hd hf hk (by decide) (by decide), carryOut_closeInterval f _ hk,
      orderCloseInterval_joins f { s with due := ds } ev o he (closable_boundary _ ev o he hb ho), entry]
  · exact perform_refused 2 s e ds f ev .badState hd hf he hk (by decide) (by decide)
      ((carryOut_closeInterval f _ hk).trans (orderCloseInterval_refused f _ (closable_none _ ev he hn)))

/-! ## DEMAND_RESET (R109, R170) -/

theorem carryOut_demandReset (f : InFlight) (s : State) (h : f.kind = 4) : carryOut f s = orderDemandReset f s := by
  simp [carryOut, h]

theorem atBoundary_iff (s : State) (ev : Event) (he : s.event = some ev) : atBoundary s = true ↔ ev.kind ≠ .tick := by
  simp [atBoundary, he]

theorem orderDemandReset_joins (f : InFlight) (s : State) (ev : Event) (he : s.event = some ev) (hk : ev.kind ≠ .tick) :
    orderDemandReset f s = { s with
      event := some { ev with demand := true }
      ic := { s.ic with demandPending := true, demandOrders := s.ic.demandOrders ++ [f.entry] } } := by
  simp only [orderDemandReset, (atBoundary_iff s ev he).mpr hk, if_true, modEvent, he]
  rfl

theorem orderDemandReset_refused (f : InFlight) (s : State) (ev : Event) (he : s.event = some ev)
    (hk : ev.kind = .tick) : orderDemandReset f s = completeFail f.entry .badState (eventTime s) s :=
  if_neg fun h => (atBoundary_iff s ev he).mp h hk

/-! ## TARIFF_SET (R103, R174) -/

theorem carryOut_tariffSet (f : InFlight) (s : State) (h : f.kind = 8) : carryOut f s = orderTariffSet f s := by
  simp [carryOut, h]

/-- R103: AUTO clears the force and leaves the stepped slot. -/
theorem orderTariffSet_auto (f : InFlight) (s : State) (ev : Event) (he : s.event = some ev)
    (h : param32 f.params 16 = 0xFFFFFFFF) : orderTariffSet f s = { s with
      event := some { ev with tariffSet := some none, finishing := ev.finishing ++ [.tariff f.entry] }
      ic := { s.ic with forced := none } } := by
  simp only [orderTariffSet, h, if_true, setTariff, finishLater, modEvent, he]
  rfl

/-- R103: a slot that is forced becomes the stepped slot in SYNC source. -/
theorem orderTariffSet_slot (f : InFlight) (s : State) (ev : Event) (he : s.event = some ev)
    (h4 : param32 f.params 16 < 4) (hn : param32 f.params 16 < tariffSlots s.store) : orderTariffSet f s = { s with
      event := some { ev with
        tariffSet := some (some (param32 f.params 16)), finishing := ev.finishing ++ [.tariff f.entry] }
      ic := { s.ic with
        forced := some (param32 f.params 16)
        stepped := if tariffSync s.store then param32 f.params 16 else s.ic.stepped } } := by
  have slot : param32 f.params 16 ≠ 0xFFFFFFFF := by omega
  simp only [orderTariffSet, slot, h4, hn, decide_true, Bool.and_self, if_true, if_false, setTariff, finishLater,
    modEvent, he]
  rfl

theorem orderTariffSet_badParam (f : InFlight) (s : State)
    (h : 4 ≤ param32 f.params 16 ∨ tariffSlots s.store ≤ param32 f.params 16)
    (ha : param32 f.params 16 ≠ 0xFFFFFFFF) : orderTariffSet f s = completeFail f.entry .badParam (eventTime s) s := by
  have outside : (decide (param32 f.params 16 < 4) && decide (param32 f.params 16 < tariffSlots s.store)) = false := by
    rw [Bool.and_eq_false_iff, decide_eq_false_iff_not, decide_eq_false_iff_not, Nat.not_lt, Nat.not_lt]
    exact h
  simp only [orderTariffSet, ha, outside, Bool.false_eq_true, if_false]

/-- R103, R174: the order completes with the slot that stands once the event's other actions are done (log 11). -/
theorem finishOrders_tariff (e : Fin 16) (s : State) (ev : Event)
    (he : s.event = some { ev with finishing := [.tariff e] }) : finishOrders s =
      complete e false .ok (BitVec.ofNat 64 s.ic.activeSlot) ev.tOld
        { s with event := some { ev with finishing := [] } } := by
  simp only [finishOrders, modEvent, he]
  rfl

/-- Settles O49: each order by its event and its parameter, and the end of a TARIFF_SET by `finishOrders_tariff`. -/
theorem resetAndTariffOrdersAreCarriedOut : Obligations.ResetAndTariffOrdersAreCarriedOut := by
  intro s e ds f ev n sync hd hf he hn hs
  have entry := inFlight_entry s e f hf
  have slots : tariffSlots s.store = n := hn.symm
  have source : tariffSync s.store = sync := hs.symm
  refine ⟨fun hk ht => congrArg Host.Outcome.next ?_, fun hk ht => congrArg Host.Outcome.next ?_,
    fun hk hp => congrArg Host.Outcome.next ?_, fun hk h4 hp => congrArg Host.Outcome.next ?_,
    fun hk hp ha => congrArg Host.Outcome.next ?_, fun u hu => finishOrders_tariff e u ev hu⟩
  · rw [perform_handsOver 4 s e ds f hd hf hk (by decide) (by decide), carryOut_demandReset f _ hk,
      orderDemandReset_joins f { s with due := ds } ev he ht, entry]
  · exact perform_refused 4 s e ds f ev .badState hd hf he hk (by decide) (by decide)
      ((carryOut_demandReset f _ hk).trans (orderDemandReset_refused f _ ev he ht))
  · rw [perform_handsOver 8 s e ds f hd hf hk (by decide) (by decide), carryOut_tariffSet f _ hk,
      orderTariffSet_auto f { s with due := ds } ev he hp, entry]
  · rw [perform_handsOver 8 s e ds f hd hf hk (by decide) (by decide), carryOut_tariffSet f _ hk,
      orderTariffSet_slot f { s with due := ds } ev he h4 (slots ▸ hp), source, entry]
  · exact perform_refused 8 s e ds f ev .badParam hd hf he hk (by decide) (by decide)
      ((carryOut_tariffSet f _ hk).trans (orderTariffSet_badParam f _ (slots ▸ hp) ha))

end Sys2Proof.Machine
end

section
/-! PROOF. A soft reset closes the open interval (O7): what its blocks pass on, and what comes about at once. -/

namespace Sys2Proof.Machine

/-! ## The reset at rest (R177, R208) -/

/-- R177: a soft reset leaves no scan and no block read in progress. -/
def withoutReads (s : State) : State := { s with port := { s.port with scan := none, configRead := none } }

theorem softReset_atRest (s : State) (hd : s.due = []) (he : s.event = none) :
    softReset s = softBlocks (withoutReads s) := by
  have waits : waitsForReads (withoutReads s) = false := by simp [waitsForReads, withoutReads, he]
  have abandoned : abandonReads s = withoutReads s := if_neg (Bool.eq_false_iff.mp waits)
  rw [softReset, abandoned, settle_nil (withoutReads s) hd]

theorem exec_softReset (s : State) (dt : Nat) (run resume : Bool) (h : atRest s) :
    exec (.softReset ⟨dt, run, resume⟩) s = .next (advance (softBlocks (withoutReads (elapse dt s)))) := by
  obtain ⟨⟨phase, due⟩, event⟩ := h
  show Host.Outcome.next (fromOutside dt (writeEngctl run resume true) s) = _
  rw [fromOutside_quiet dt _ s phase due, writeEngctl_srst,
    softReset_atRest _ ((elapse_due dt s).trans due) ((elapse_event dt s).trans event)]

/-! ## What the blocks of a soft reset pass on (R98) -/

/-- R98: the RESET close of the open interval, where one is open. -/
def resetCloses (s : State) : List Close :=
  (s.ic.current.map (fun o => closeOf s.ic.seq o Cause.reset.set s.tb.timeValue)).toList

theorem softClose_eq (s : State) : softClose s = { s with
    ic := { s.ic with current := none }
    acct := { s.acct with closes := s.acct.closes ++ resetCloses s }
    stats := { s.stats with closes := s.stats.closes ++ resetCloses s }
    filing := { s.filing with
      assemblies := s.filing.assemblies ++ (resetCloses s).map (fun c => { close := c }) } } := by
  cases h : s.ic.current with
  | none =>
    have noClose : resetCloses s = [] := by simp [resetCloses, h]
    rw [softClose, (passClose_spec _ _ s).1 h, noClose]
    simp [← h]
  | some o =>
    have one : resetCloses s = [closeOf s.ic.seq o Cause.reset.set s.tb.timeValue] := by simp [resetCloses, h]
    rw [softClose, (passClose_spec _ _ s).2 o h, one]
    rfl

/-- Before the close the blocks leave the interval and the closes that wait as they are, and no window is in
decomposition. -/
theorem softReset_beforeClose (s : State) : ∃ u, discardWindow (returnTransit true (softOrders s)) = u ∧
    resetCloses u = resetCloses s ∧ u.acct.closes = s.acct.closes ∧ u.stats.closes = s.stats.closes ∧
    u.filing.assemblies = s.filing.assemblies ∧ u.spectral = {} ∧ u.due = s.due := by
  obtain ⟨accs, discarded⟩ := discardWindow_spec (returnTransit true (softOrders s))
  refine ⟨_, rfl, ?_⟩
  rw [discarded]
  cases ht : (softOrders s).filing.transit with
  | none =>
    rw [(returnTransit_spec true (softOrders s)).1 ht]
    exact ⟨rfl, rfl, rfl, rfl, rfl, rfl⟩
  | some t =>
    obtain ⟨f, c, o, cs, returned, -, -, assemblies, -⟩ := (returnTransit_spec true (softOrders s)).2 (by simp [ht])
    rw [returned]
    exact ⟨rfl, rfl, rfl, assemblies, rfl, rfl⟩

/-- R98: a soft reset passes the RESET close on to the three units, and what it leaves due begins with the closes. -/
theorem softBlocks_closes (s : State) : (softBlocks s).ic.current = none ∧
    (softBlocks s).acct.closes = s.acct.closes ++ resetCloses s ∧
    (softBlocks s).stats.closes = s.stats.closes ++ resetCloses s ∧
    (softBlocks s).filing.assemblies = s.filing.assemblies ++ (resetCloses s).map (fun c => { close := c }) ∧
    (softBlocks s).spectral = {} ∧
    (softBlocks s).due = List.replicate (softBlocks s).acct.closes.length Due.acctFinish ++
      List.replicate (softBlocks s).stats.closes.length Due.statFinish ++ [.statReset] ++ s.due := by
  obtain ⟨u, before, closes, acct, stats, filing, spectral, due⟩ := softReset_beforeClose s
  obtain ⟨v, hv⟩ : ∃ v, v = softPort (softIntervals (softTimebase (softLinks (softClose u)))) := ⟨_, rfl⟩
  have blocks : softBlocks s = pump (pushDue (softDue v) v) := by rw [hv, ← before]; rfl
  rw [softClose_eq u] at hv
  have vDue : v.due = s.due := by rw [hv]; exact due
  rw [blocks, pump_ic, pump_acct, pump_stats, pump_filing, pump_spectral, pump_due, pushDue_due, vDue]
  refine ⟨by rw [hv]; rfl, ?_, ?_, ?_, by rw [hv]; exact spectral, rfl⟩
  · rw [pushDue_acct, ← acct, ← closes, hv]
    rfl
  · rw [pushDue_stats, ← stats, ← closes, hv]
    rfl
  · rw [pushDue_filing, ← filing, ← closes, hv]
    rfl

/-! ## What comes about at once (R78, R117, R131) -/

/-- With no window in decomposition the oldest close that waits can finish and waits for its command; without one the
statistics unit is reset. The closes, the intervals and the files are as they were. -/
theorem advance_softDue (u : State) (hs : u.spectral = {})
    (hd : u.due = List.replicate u.acct.closes.length Due.acctFinish ++
      List.replicate u.stats.closes.length Due.statFinish ++ [.statReset]) :
    (advance u).ic = u.ic ∧ (advance u).acct = u.acct ∧ (advance u).stats.closes = u.stats.closes ∧
      (advance u).filing = u.filing := by
  have free (ds : List Due) (seq : Word64) : windowAwaited { u with due := ds } seq = false :=
    windowAwaited_eq_false _ seq (by simp [hs])
  cases ha : u.acct.closes with
  | cons c rest =>
    rw [ha] at hd
    rw [advance_named u .acctFinish _ hd (by simp [acctCanFinish, ha, free])]
    exact ⟨rfl, rfl, rfl, rfl⟩
  | nil =>
    cases hst : u.stats.closes with
    | cons c rest =>
      rw [ha, hst] at hd
      rw [advance_named u .statFinish _ hd (by simp [statCanFinish, hst, free])]
      exact ⟨rfl, rfl, hst, rfl⟩
    | nil =>
      rw [ha, hst] at hd
      have last : u = pushDue [.statReset] { u with due := [] } := eq_with_due u _ hd
      rw [last, advance_pushDue_one .statReset { u with due := [] } rfl rfl stops_nil]
      exact ⟨rfl, rfl, hst, rfl⟩

/-- R98: what a soft reset at rest leaves of the intervals and of the closes on their way. -/
theorem softReset_closes (s : State) (dt : Nat) (run resume : Bool) (h : atRest s) : ∃ t cs,
    exec (.softReset ⟨dt, run, resume⟩) s = .next t ∧ cs = resetCloses (elapse dt s) ∧ t.ic.current = none ∧
      t.acct.closes = s.acct.closes ++ cs ∧ t.stats.closes = s.stats.closes ++ cs ∧
      t.filing.assemblies = s.filing.assemblies ++ cs.map (fun c => { close := c }) := by
  obtain ⟨w, hw⟩ : ∃ w, w = withoutReads (elapse dt s) := ⟨_, rfl⟩
  obtain ⟨current, acct, stats, filing, spectral, due⟩ := softBlocks_closes w
  have nothing : w.due = [] := by rw [hw]; exact (elapse_due dt s).trans h.1.2
  rw [nothing, List.append_nil] at due
  obtain ⟨ic', acct', stats', filing'⟩ := advance_softDue (softBlocks w) spectral due
  have acct0 : w.acct = s.acct := by rw [hw]; exact elapse_acct dt s
  have stats0 : w.stats = s.stats := by rw [hw]; exact elapse_stats dt s
  have filing0 : w.filing = s.filing := by rw [hw]; exact elapse_filing dt s
  have closes : resetCloses w = resetCloses (elapse dt s) := by rw [hw]; rfl
  refine ⟨advance (softBlocks w), _, by rw [exec_softReset s dt run resume h, hw], rfl, by rw [ic', current],
    ?_, ?_, ?_⟩
  · rw [acct', acct, acct0, closes]
  · rw [stats', stats, stats0, closes]
  · rw [filing', filing, filing0, closes]

/-- Settles O7: the RESET close of `resetCloses` is the one that the three units take. -/
theorem softResetClosesTheOpenInterval : Obligations.SoftResetClosesTheOpenInterval := by
  intro s dt run resume h
  obtain ⟨t, cs, reset, hcs, current, acct, stats, filing⟩ := softReset_closes s dt run resume h
  refine ⟨fun o ho => ?_, fun ho => ?_⟩
  · have one : cs = [closeOf s.ic.seq o Cause.reset.set (elapse dt s).tb.timeValue] := by simp [hcs, resetCloses, ho]
    rw [one] at acct stats filing
    exact ⟨t, _, reset, current, acct, stats, rfl, rfl, rfl, rfl, rfl, rfl, rfl, rfl, rfl, rfl, rfl, rfl, rfl, filing⟩
  · have noClose : cs = [] := by simp [hcs, resetCloses, ho]
    rw [noClose, List.append_nil] at acct stats
    rw [noClose, List.map_nil, List.append_nil] at filing
    exact ⟨t, reset, current, acct, stats, filing⟩

end Sys2Proof.Machine
end

section
/-! PROOF. The band monitors: a monitor's steps with the windows that carry a band value (O39), and how stored settings
come into force (O38). -/

namespace Sys2Proof.Machine

/-! ## Events and eligible windows (R122, R127, R128) -/

/-- R127, R128: an event goes to the list of its point, and requests MONITOR. -/
theorem makeEvent_eq (p : Nat) (e : EventEntry) (s : State) : makeEvent p e s = request .monitor (modAcc p (fun a =>
    if a.events.length < 8 then { a with events := a.events ++ [e] } else { a with dropped := a.dropped + 1 }) s) := rfl

theorem windowIndex_some (s : State) (p : Nat) (a : Acc) (h : s.acc p = some a) :
    windowIndex s p = a.total + a.discarded := by simp [windowIndex, h]

theorem windowIndex_none (s : State) (p : Nat) (h : s.acc p = none) : windowIndex s p = 0 := by simp [windowIndex, h]

theorem eligibleWindow_iff (st : MonSettings) (r : WinResult) (b : BandValue) : eligibleWindow st r b = true ↔
    r.cls = .clean ∧ r.record.locked = true ∧ (st.emission = 1 → ∃ p, b.power = some p ∧ p < 0) := by
  cases hp : b.power <;> simp [eligibleWindow, hp, and_assoc, Decidable.imp_iff_not_or]

/-! ## One step of a monitor (R123) -/

theorem turnsOn_iff (k : Monitor) (value : Nat) (eligible : Bool) : turnsOn k value eligible = true ↔
    eligible = true ∧ k.cur.threshold ≤ value ∧
      (k.state = .rising ∧ k.cur.persistence ≤ k.count + 1 ∨ k.state = .quiet ∧ k.cur.persistence ≤ 1) := by
  cases hs : k.state <;> simp [turnsOn, hs, and_assoc]

/-- An eligible window leaves a monitor short of ACTIVE below the threshold, or where the persistence is not reached. -/
theorem turnsOn_eq_false_iff (k : Monitor) (value : Nat) : turnsOn k value true = false ↔
    (k.cur.threshold ≤ value →
      (k.state = .rising → k.count + 1 < k.cur.persistence) ∧ (k.state = .quiet → 1 < k.cur.persistence)) := by
  rw [← Bool.not_eq_true, turnsOn_iff]
  simp only [true_and, not_and, not_or, Nat.not_le]

/-- The last value does not decide whether a monitor turns ACTIVE. -/
@[simp] theorem turnsOn_last (k : Monitor) (last value : Nat) (eligible : Bool) :
    turnsOn { k with last := last } value eligible = turnsOn k value eligible := rfl

section
variable (m : Fin 4) (value point index : Nat) (s : State)

theorem monitorStep_skips (eligible : Bool) (h : (s.monitor m).state = .off ∨ eligible = false) :
    monitorStep m value eligible point index s = s := by
  obtain h | h := h <;> simp [monitorStep, h]

theorem monitorStep_turnsOn (h : turnsOn (s.monitor m) value true = true) :
    monitorStep m value true point index s =
      makeEvent point { mon := m, on := true, reconfigured := false, index := index, value := value }
        (s.setMonitor m { s.monitor m with
          last := value, state := .active, count := (s.monitor m).cur.persistence }) := by
  have on : (s.monitor m).state ≠ .off := by
    obtain ⟨-, -, h | h⟩ := (turnsOn_iff ..).mp h <;> simp [h.1]
  simp [monitorStep, on, h]

theorem monitorStep_quiet (hs : (s.monitor m).state = .quiet) (h : turnsOn (s.monitor m) value true = false) :
    monitorStep m value true point index s = s.setMonitor m
      (if (s.monitor m).cur.threshold ≤ value then { s.monitor m with last := value, state := .rising, count := 1 }
      else { s.monitor m with last := value }) := by
  simp only [monitorStep, turnsOn_last, h]
  simp [hs]

theorem monitorStep_rising (hs : (s.monitor m).state = .rising) (h : turnsOn (s.monitor m) value true = false) :
    monitorStep m value true point index s = s.setMonitor m
      (if (s.monitor m).cur.threshold ≤ value then
        { s.monitor m with last := value, count := (s.monitor m).count + 1 }
      else { s.monitor m with last := value, state := .quiet, count := 0 }) := by
  simp only [monitorStep, turnsOn_last, h]
  simp [hs]

theorem monitorStep_active (hs : (s.monitor m).state = .active) :
    monitorStep m value true point index s =
      if (s.monitor m).cur.threshold ≤ value ∨ releaseLevel (s.monitor m).cur ≤ value then
        s.setMonitor m { s.monitor m with last := value }
      else makeEvent point { mon := m, on := false, reconfigured := false, index := index, value := value }
        (s.setMonitor m { s.monitor m with last := value, state := .quiet, count := 0 }) := by
  have stays : turnsOn (s.monitor m) value true = false := (turnsOn_eq_false_iff ..).mpr (by simp [hs])
  simp only [monitorStep, turnsOn_last, stays]
  simp [hs]

/-- The part of a step that turns the monitor ACTIVE, by its command. -/
theorem exec_monitorOn (ds : List Due) (hd : s.due = .monitorStep m value true point index :: ds)
    (h : turnsOn (s.monitor m) value true = true) :
    exec (.monitorOn m) s = .next (advance (monitorStep m value true point index { s with due := ds })) := by
  show Host.Outcome.next (perform _ s) = _
  rw [perform_front _ s _ ds hd h (decide_eq_true rfl), microStep_monitorStep]

end

/-- Settles O39: the step that turns a monitor ACTIVE, the rows of the table by state and threshold, and the eligible
windows. -/
theorem monitorTurnsOn : Obligations.MonitorTurnsOn := by
  refine ⟨?_, ?_, eligibleWindow_iff⟩
  · rintro s m value point index ds _ hd rfl high goes
    have on : turnsOn (s.monitor m) value true = true := (turnsOn_iff ..).mpr ⟨rfl, high, goes⟩
    rw [exec_monitorOn m value point index s ds hd on, monitorStep_turnsOn m value point index { s with due := ds } on]
    rfl
  · rintro s m value point index eligible _ rfl
    refine ⟨monitorStep_skips m value point index s eligible, ?_⟩
    rintro rfl
    have low (h : value < (s.monitor m).cur.threshold) : turnsOn (s.monitor m) value true = false :=
      (turnsOn_eq_false_iff ..).mpr fun high => absurd high (by omega)
    simp only [microStep_monitorStep]
    refine ⟨fun hs h => ?_, fun hs h hp => ?_, fun hs h hp => ?_, fun hs h => ?_, fun hs h => ?_, fun hs h hr => ?_⟩
    · rw [monitorStep_quiet m value point index s hs (low h), if_neg (by omega)]
    · have early : turnsOn (s.monitor m) value true = false := (turnsOn_eq_false_iff ..).mpr (by simp [hs, hp])
      rw [monitorStep_quiet m value point index s hs early, if_pos h]
    · have early : turnsOn (s.monitor m) value true = false := (turnsOn_eq_false_iff ..).mpr (by simp [hs, hp])
      rw [monitorStep_rising m value point index s hs early, if_pos h]
    · rw [monitorStep_rising m value point index s hs (low h), if_neg (by omega)]
    · rw [monitorStep_active m value point index s hs, releaseLevel, if_pos h]
    · rw [monitorStep_active m value point index s hs, releaseLevel, if_neg (by omega), makeEvent_eq]

/-! ## Stored settings come into force (R121, R125, R126) -/

theorem settingsWait_iff (s : State) : settingsWait s = true ↔ ∃ k ∈ s.stats.monitors, k.dirty = true := by
  simp [settingsWait]

/-- R125: a restart is due where the monitor was written, or where one was due already. -/
theorem settingsEffect_restartDue (k : Monitor) : (settingsEffect k).restartDue = (k.dirty || k.restartDue) := by
  unfold settingsEffect
  split <;> simp [*]

/-- The state with every written monitor's stored settings in force. -/
def withSettings (s : State) : State :=
  { s with stats := { s.stats with monitors := s.stats.monitors.map settingsEffect } }

theorem monitor_withSettings (s : State) (m : Fin 4) : (withSettings s).monitor m = settingsEffect (s.monitor m) := by
  have absent : ({} : Monitor) = settingsEffect {} := rfl
  simp only [withSettings, State.monitor, List.getD_eq_getElem?_getD, List.getElem?_map]
  cases s.stats.monitors[m.val]? <;> simp [← absent]

theorem restartsDue_withSettings (s : State) : restartsDue (withSettings s) =
    (allMonitors.filter (fun m => (s.monitor m).dirty || (s.monitor m).restartDue)).map Due.monitorRestart := by
  simp only [restartsDue, monitor_withSettings, settingsEffect_restartDue]

theorem monitorEffect_deferred (s : State) (h : s.spectral.decomposing ≠ none) :
    monitorEffect s = withSettings s := by
  simp [monitorEffect, withSettings, h]

theorem monitorEffect_immediate (s : State) (h : s.spectral.decomposing = none) :
    monitorEffect s = pushDue (restartsDue (withSettings s)) (withSettings s) := by
  simp [monitorEffect, withSettings, h]

/-- R121: whether or not the restarts come at once, the statistics unit alone takes the settings. -/
theorem monitorEffect_blocks (s : State) : (monitorEffect s).stats = (withSettings s).stats ∧
    (monitorEffect s).port = s.port ∧ (monitorEffect s).tb = s.tb := by
  by_cases h : s.spectral.decomposing = none
  · rw [monitorEffect_immediate s h]
    exact ⟨rfl, rfl, rfl⟩
  · rw [monitorEffect_deferred s h]
    exact ⟨rfl, rfl, rfl⟩

theorem exec_monitorSettingsEffect (s : State) (ds : List Due) (hd : s.due = .monitorEffect :: ds)
    (h : ∃ k ∈ s.stats.monitors, k.dirty = true) :
    exec .monitorSettingsEffect s = .next (advance (monitorEffect { s with due := ds })) := by
  show Host.Outcome.next (perform _ s) = _
  rw [perform_front _ s _ ds hd ((settingsWait_iff { s with due := ds }).mpr h) rfl, microStep_monitorEffect]

/-- R125: a monitor under new settings is QUIET where they are in force as enabled, and OFF otherwise. -/
theorem restarted_eq (k : Monitor) (new : MonSettings) : restarted k new = { k with
    cur := new, restartDue := false, count := 0
    state := if new.enable = 1 ∧ new.lo ≤ new.hi then .quiet else .off } := by
  simp only [restarted, inForce_iff]

/-- R125 to R127: the event of a monitor that was ACTIVE, and the monitor under the settings in force. -/
theorem monitorRestart_eq (m : Fin 4) (s : State) : monitorRestart m s =
    (if (s.monitor m).state = .active then
        makeEvent (s.monitor m).cur.source
          { mon := m, on := false, reconfigured := true
            index := windowIndex s (s.monitor m).cur.source - 1, value := (s.monitor m).last }
      else fun s => s)
    (s.setMonitor m (restarted (s.monitor m) (s.monitor m).force)) := by
  by_cases h : (s.monitor m).state = .active <;> simp [monitorRestart, h]

theorem exec_monitorRestart (s : State) (m : Fin 4) (ds : List Due) (hd : s.due = .monitorRestart m :: ds) :
    exec (.monitorRestart m) s = .next (advance (monitorRestart m { s with due := ds })) := by
  show Host.Outcome.next (perform _ s) = _
  rw [perform_front _ s _ ds hd rfl (decide_eq_true rfl), microStep_monitorRestart]

/-- Settles O38: the settings that come into force, the restart under them, and where an event goes. -/
theorem monitorSettingsComeIntoForce : Obligations.MonitorSettingsComeIntoForce := by
  refine ⟨⟨?_, ?_⟩, fun s p e => rfl, fun s p => ⟨windowIndex_some s p, windowIndex_none s p⟩⟩
  · intro s ds hd written
    obtain ⟨stats, port, tb⟩ := monitorEffect_blocks { s with due := ds }
    refine ⟨_, exec_monitorSettingsEffect s ds hd written, stats, fun later => ?_, fun now => ?_, port, tb⟩
    · rw [monitorEffect_deferred { s with due := ds } later]
      rfl
    · rw [monitorEffect_immediate { s with due := ds } now, pushDue_due, restartsDue_withSettings]
      rfl
  · intro s m ds hd
    refine ⟨_, rfl, ?_⟩
    rw [exec_monitorRestart s m ds hd, monitorRestart_eq, restarted_eq]
    rfl

end Sys2Proof.Machine
end

section
/-! PROOF. The merging of two records and of two files (O56). -/

namespace Sys2Proof.Machine

/-! ## Figures joined member by member (R147 to R149) -/

/-- Two lists of one length, joined member by member by an operation that keeps the default. -/
theorem getD_zipWith {α : Type} (f : α → α → α) (d : α) (hd : f d d = d) (as bs : List α)
    (h : as.length = bs.length) (i : Nat) : (List.zipWith f as bs).getD i d = f (as.getD i d) (bs.getD i d) := by
  rcases Nat.lt_or_ge i as.length with hi | hi
  · have hb : i < bs.length := h ▸ hi
    have hz : i < (List.zipWith f as bs).length := by rw [List.length_zipWith]; omega
    rw [List.getD_eq_getElem _ _ hz, List.getD_eq_getElem _ _ hi, List.getD_eq_getElem _ _ hb, List.getElem_zipWith]
  · have hz : (List.zipWith f as bs).length ≤ i := by rw [List.length_zipWith]; omega
    rw [List.getD_eq_default _ _ hi, List.getD_eq_default bs d (h ▸ hi), List.getD_eq_default _ _ hz, hd]

theorem getD_orBools (as bs : List Bool) (h : as.length = bs.length) (i : Nat) :
    (orBools as bs).getD i false = (as.getD i false || bs.getD i false) :=
  getD_zipWith (fun x y => x || y) false rfl as bs h i

section Records

variable (a b : IntervalRecord)

theorem mergeRecord_stuck (ha : a.stats.stuck.length = 7) (hb : b.stats.stuck.length = 7) (i : Nat) :
    (mergeRecord a b).stats.stuck.getD i false = (a.stats.stuck.getD i false || b.stats.stuck.getD i false) :=
  getD_orBools _ _ (ha.trans hb.symm) i

theorem mergeRecord_deltas (ha : a.deltas.length = 36) (hb : b.deltas.length = 36) :
    (mergeRecord a b).deltas.length = 36 ∧
      ∀ i, (mergeRecord a b).deltas.getD i 0 = a.deltas.getD i 0 + b.deltas.getD i 0 := by
  refine ⟨?_, getD_zipWith (· + ·) 0 (BitVec.add_zero 0) _ _ (ha.trans hb.symm)⟩
  simp [mergeRecord, ha, hb]

theorem mergeRecord_orders (ha : a.stats.orders.length = 49) (hb : b.stats.orders.length = 49) :
    (mergeRecord a b).stats.orders.length = 49 ∧ ∀ j, (mergeRecord a b).stats.orders.getD j {} =
      mergeOrder (a.stats.orders.getD j {}) (b.stats.orders.getD j {}) := by
  refine ⟨?_, getD_zipWith mergeOrder {} rfl _ _ (ha.trans hb.symm)⟩
  simp [mergeRecord, mergeAcc, ha, hb]

/-! ## Frequency extremes (R147) -/

theorem mergeFreq_older_empty (pick : Nat → Nat → Nat) (x y : Acc) (f : Acc → Nat) (hx : x.total = 0) :
    mergeFreq pick x y f = f y := if_pos hx

theorem mergeFreq_newer_empty (pick : Nat → Nat → Nat) (x y : Acc) (f : Acc → Nat) (hx : x.total ≠ 0)
    (hy : y.total = 0) : mergeFreq pick x y f = f x := by
  rw [mergeFreq, if_neg hx, if_pos hy]

theorem mergeFreq_both (pick : Nat → Nat → Nat) (x y : Acc) (f : Acc → Nat) (hx : x.total ≠ 0) (hy : y.total ≠ 0) :
    mergeFreq pick x y f = pick (f x) (f y) := by
  rw [mergeFreq, if_neg hx, if_neg hy]

/-! ## Demand (R150) -/

theorem mergeRecord_demand_alike (h : a.excluded = b.excluded) :
    (mergeRecord a b).demandQI = max a.demandQI b.demandQI ∧ (mergeRecord a b).demandA = max a.demandA b.demandA ∧
      (mergeRecord a b).excluded = a.excluded := by
  simp [mergeRecord, mergeDemand, h]

theorem mergeRecord_older_excluded (ha : a.excluded = true) (hb : b.excluded = false) :
    (mergeRecord a b).demandQI = b.demandQI ∧ (mergeRecord a b).demandA = b.demandA ∧
      (mergeRecord a b).excluded = false := by
  simp [mergeRecord, mergeDemand, ha, hb]

theorem mergeRecord_newer_excluded (ha : a.excluded = false) (hb : b.excluded = true) :
    (mergeRecord a b).demandQI = a.demandQI ∧ (mergeRecord a b).demandA = a.demandA ∧
      (mergeRecord a b).excluded = false := by
  simp [mergeRecord, mergeDemand, ha, hb]

/-! ## Sets and events (R147, R148) -/

theorem mergeRecord_causes (i : Nat) :
    (mergeRecord a b).causes.getLsbD i = (a.causes.getLsbD i || b.causes.getLsbD i) := BitVec.getLsbD_or

theorem mergeRecord_tariffMask (i : Nat) :
    (mergeRecord a b).tariffMask.getLsbD i = (a.tariffMask.getLsbD i || b.tariffMask.getLsbD i) := BitVec.getLsbD_or

/-- R148: the events beyond the first eight are counted as dropped. -/
theorem mergeRecord_dropped : (mergeRecord a b).stats.dropped =
    a.stats.dropped + b.stats.dropped + ((a.stats.events ++ b.stats.events).drop 8).length := by
  rw [List.length_drop]
  rfl

end Records

/-! ## Files (R146) -/

/-- R146: what a merged file holds for a point. -/
def mergedRecord (older newer : IntervalFile) (p : Nat) : Option IntervalRecord :=
  match recordOf older p, recordOf newer p with
  | some a, some b => some (mergeRecord a b)
  | some a, none => some a
  | none, b => b

theorem mergeFiles_records (older newer : IntervalFile) :
    (mergeFiles older newer).records = (List.range 5).filterMap (mergedRecord older newer) := rfl

theorem recordOf_point (f : IntervalFile) (p : Nat) (r : IntervalRecord) (h : recordOf f p = some r) : r.point = p := by
  simpa using List.find?_some h

/-- A point keeps its number whether its record is merged or stands unchanged. -/
theorem mergedRecord_point (older newer : IntervalFile) (p : Nat) (r : IntervalRecord)
    (h : mergedRecord older newer p = some r) : r.point = p := by
  unfold mergedRecord at h
  split at h
  · next a b ha hb =>
    cases h
    exact recordOf_point older p a ha
  · next ha hb =>
    cases h
    exact recordOf_point older p r ha
  · exact recordOf_point newer p r h

/-- Records picked for numbers in turn, each with its number as its point, stand in the order of the numbers. -/
theorem filterMap_points (g : Nat → Option IntervalRecord) (hg : ∀ p r, g p = some r → r.point = p) (ps : List Nat) :
    ((ps.filterMap g).map (fun r => r.point)).Sublist ps := by
  induction ps with
  | nil => exact List.Sublist.slnil
  | cons p ps ih =>
    cases h : g p with
    | none =>
      rw [List.filterMap_cons_none h]
      exact ih.cons p
    | some r =>
      rw [List.filterMap_cons_some h, List.map_cons, hg p r h]
      exact ih.cons_cons p

/-- The record found for a number is the one picked for it. -/
theorem find_filterMap (g : Nat → Option IntervalRecord) (hg : ∀ p r, g p = some r → r.point = p) (ps : List Nat)
    (p : Nat) (hp : p ∈ ps) : (ps.filterMap g).find? (fun r => r.point = p) = g p := by
  rw [List.find?_filterMap]
  cases found : ps.find? (fun q => (g q).any (fun r => r.point = p)) with
  | some q =>
    have hit : (g q).any (fun r => r.point = p) = true := List.find?_some (p := fun q => (g q).any _) found
    obtain ⟨r, hr, own⟩ := (Option.any_eq_true _ _).mp hit
    have same : q = p := (hg q r hr).symm.trans (of_decide_eq_true own)
    rw [Option.bind_some, same]
  | none =>
    have picked := List.find?_eq_none.mp found p hp
    cases h : g p with
    | none => rfl
    | some r => exact absurd (by simpa [h] using hg p r h) picked

/-- Settles O56: the records of two files joined point by point, and the figures of two records joined field by field. -/
theorem mergedRecordsJoinTheirFigures : Obligations.MergedRecordsJoinTheirFigures := by
  constructor
  · rintro a b _ rfl
    refine ⟨⟨rfl, rfl, rfl, rfl, rfl, rfl, rfl, rfl, rfl, rfl, rfl, mergeRecord_causes a b, mergeRecord_tariffMask a b,
        rfl, rfl, rfl, rfl⟩,
      ⟨rfl, rfl, rfl, rfl, rfl, rfl, rfl, rfl, rfl, rfl, rfl, rfl, rfl, rfl, rfl, rfl⟩,
      mergeRecord_stuck a b, fun older => ?_, fun older newer => ?_, fun older newer => ?_, mergeRecord_deltas a b,
      fun ha hb => ?_, ⟨rfl, mergeRecord_dropped a b⟩, mergeRecord_demand_alike a b, mergeRecord_older_excluded a b,
      mergeRecord_newer_excluded a b⟩
    · exact ⟨mergeFreq_older_empty _ _ _ _ older, mergeFreq_older_empty _ _ _ _ older⟩
    · exact ⟨mergeFreq_newer_empty _ _ _ _ older newer, mergeFreq_newer_empty _ _ _ _ older newer⟩
    · exact ⟨mergeFreq_both _ _ _ _ older newer, mergeFreq_both _ _ _ _ older newer⟩
    · obtain ⟨length, figures⟩ := mergeRecord_orders a b ha hb
      exact ⟨length, fun j _ => figures j⟩
  · rintro older newer _ rfl
    have point := mergedRecord_point older newer
    rw [mergeFiles_records]
    refine ⟨rfl, rfl, ?_, fun p hp => ?_, fun r hr => ?_⟩
    · exact List.pairwise_lt_range.sublist (filterMap_points _ point (List.range 5))
    · exact find_filterMap _ point (List.range 5) p (List.mem_range.mpr hp)
    · obtain ⟨p, hp, hr⟩ := List.mem_filterMap.mp hr
      rw [point p r hr]
      exact List.mem_range.mp hp

end Sys2Proof.Machine
end

section
/-! SUPPORT. The reports of a file's closes (R110, R152): the orders that wait for each close complete in turn. -/

namespace Sys2Proof.Machine

/-! ## One close -/

/-- The CLOSE_INTERVAL orders that wait for a close, in the order in which they were accepted. -/
def waitersOf (s : State) (seq : Word64) : List (Fin 16) :=
  (s.ic.closeOrders.filter (fun o => o.2 = seq)).map (fun o => o.1)

theorem mem_waitersOf (s : State) (seq : Word64) (e : Fin 16) :
    e ∈ waitersOf s seq ↔ (e, seq) ∈ s.ic.closeOrders := by
  simp [waitersOf]

/-- The state in which no order waits for a close any longer. -/
def withoutWaiters (s : State) (seq : Word64) : State :=
  { s with ic := { s.ic with closeOrders := s.ic.closeOrders.filter (fun o => o.2 ≠ seq) } }

/-- A completion leaves the time value of the part in hand as it is, so the orders of a close complete at one. -/
theorem foldl_completeOk_partTime (seq : Word64) : ∀ (l : List (Fin 16 × Word64)) (s : State),
    l.foldl (fun s o => completeOk o.1 seq (partTime s) s) s =
      doneInTurn seq (partTime s) (l.map (fun o => o.1)) s
  | [], _ => rfl
  | o :: l, s => by
    obtain ⟨u, made⟩ := complete_orders_only o.1 false .ok seq (partTime s) s
    have time : partTime (completeOk o.1 seq (partTime s) s) = partTime s := by rw [completeOk, made]; rfl
    rw [List.foldl_cons, foldl_completeOk_partTime seq l, time, List.map_cons, doneInTurn_cons]

theorem reportClose_eq (s : State) (seq : Word64) :
    reportClose s seq = doneInTurn seq (partTime s) (waitersOf s seq) (withoutWaiters s seq) :=
  foldl_completeOk_partTime seq _ (withoutWaiters s seq)

theorem closeOrders_reportClose (s : State) (seq : Word64) :
    (reportClose s seq).ic.closeOrders = s.ic.closeOrders.filter (fun o => o.2 ≠ seq) := by
  obtain ⟨o, h⟩ := reportClose_spec s seq
  rw [h]

theorem partTime_reportClose (s : State) (seq : Word64) : partTime (reportClose s seq) = partTime s := by
  obtain ⟨o, h⟩ := reportClose_spec s seq
  rw [h]
  rfl

/-- Orders that complete in turn leave the orders of the other entries as they are. -/
theorem inFlight_doneInTurn_of_notMem (value : Word64) (time : Nat) (e : Fin 16) : ∀ (es : List (Fin 16)) (s : State),
    e ∉ es → (doneInTurn value time es s).inFlight e = s.inFlight e
  | [], _, _ => rfl
  | a :: es, s, h => by
    obtain ⟨first, rest⟩ := List.ne_and_not_mem_of_not_mem_cons h
    rw [doneInTurn_cons, inFlight_doneInTurn_of_notMem value time e es _ rest, completeOk,
      inFlight_complete_of_ne a false .ok value time s e first]

/-! ## The closes of a file -/

/-- A report is about the waiting orders and the order unit of the two states alone. -/
theorem closesReported_congr {f : IntervalFile} {time : Nat} {s s' t t' : State}
    (from_waiting : s'.ic.closeOrders = s.ic.closeOrders) (from_orders : s'.orders = s.orders)
    (to_waiting : t'.ic.closeOrders = t.ic.closeOrders) (to_orders : t'.orders = t.orders)
    (h : closesReported f time s t) : closesReported f time s' t' := by
  simpa only [closesReported, State.inFlight, from_waiting, from_orders, to_waiting, to_orders] using h

/-- The closes of a list are reported one after the other; an order that waits for several completes with the first. -/
theorem closesReported_foldl (f : IntervalFile) : ∀ (seqs : List Word64) (s : State),
    closesReported { f with unreported := seqs } (partTime s) s (seqs.foldl reportClose s)
  | [], s => by simp [closesReported]
  | seq :: seqs, s => by
    obtain ⟨waiting, kept, completed, added⟩ := closesReported_foldl f seqs (reportClose s seq)
    rw [partTime_reportClose] at completed added
    rw [closeOrders_reportClose] at waiting completed added
    rw [List.foldl_cons]
    have earlier (q) (hq : q ∈ s.orders.queue) : q ∈ (reportClose s seq).orders.queue := by
      rw [reportClose_eq]
      exact mem_queue_doneInTurn seq _ _ (withoutWaiters s seq) q hq
    refine ⟨?_, fun q hq => kept q (earlier q hq), ?_, ?_⟩
    · rw [waiting, List.filter_filter]
      congr 1
      funext o
      simp [Bool.and_comm]
    · rintro e g ⟨other, hm, waits⟩ hg hc
      by_cases first : (e, seq) ∈ s.ic.closeOrders
      · refine ⟨seq, List.mem_cons_self .., first, kept _ ?_⟩
        rw [reportClose_eq]
        exact completion_mem_doneInTurn seq _ _ (withoutWaiters s seq) e ((mem_waitersOf ..).mpr first) g hg hc
      · have differs : other ≠ seq := fun same => first (same ▸ waits)
        have flight : (reportClose s seq).inFlight e = some g := by
          rw [reportClose_eq, inFlight_doneInTurn_of_notMem _ _ _ _ _ (mt (mem_waitersOf ..).mp first)]
          exact hg
        obtain ⟨seq', hm', waits', made⟩ := completed e g ⟨other, List.mem_of_ne_of_mem differs hm,
          List.mem_filter.mpr ⟨waits, decide_eq_true differs⟩⟩ flight hc
        exact ⟨seq', List.mem_cons_of_mem _ hm', (List.mem_filter.mp waits').1, made⟩
    · intro q hq
      rcases added q hq with hq | ⟨e, seq', hm, tag, waits, made⟩
      · rw [reportClose_eq] at hq
        refine (queue_doneInTurn seq _ _ (withoutWaiters s seq) q hq).imp_right fun ⟨e, he, tag, made⟩ => ?_
        exact ⟨e, seq, List.mem_cons_self .., tag, (mem_waitersOf ..).mp he, made⟩
      · exact .inr ⟨e, seq', List.mem_cons_of_mem _ hm, tag, (List.mem_filter.mp waits).1, made⟩

theorem closesReported_reportFile (f : IntervalFile) (s : State) :
    closesReported f (partTime s) s (reportFile f s) := closesReported_foldl f f.unreported s

/-- The reports of a file leave every block but the interval controller and the order unit, and of the interval
controller the waiting orders alone change. -/
theorem reportFile_blocks (f : IntervalFile) (s : State) : (reportFile f s).filing = s.filing ∧
    (reportFile f s).port = s.port ∧ (reportFile f s).acct = s.acct ∧ (reportFile f s).stats = s.stats ∧
    (reportFile f s).tb = s.tb ∧ (reportFile f s).due = s.due ∧
    (reportFile f s).ic.unfiled = s.ic.unfiled := by
  obtain ⟨c, o, h⟩ := reportFile_spec f s
  rw [h]
  exact ⟨rfl, rfl, rfl, rfl, rfl, rfl, rfl⟩

end Sys2Proof.Machine
end

section
/-! PROOF. A completed file is placed, and a held file is retried (O42). -/

namespace Sys2Proof.Machine

/-! ## Placing (R141) -/

theorem placeFile_merged (f h : IntervalFile) (s : State) (hh : s.filing.held = some h) :
    placeFile f s =
      reportFile f { s with filing := { s.filing with held := some (reported (mergeFiles h f)) } } := by
  simp only [placeFile, hh]

theorem placeFile_sent (f : IntervalFile) (s : State) (hh : s.filing.held = none) (ht : s.filing.transit = none)
    (hc : canAccess s = true) : placeFile f s = beginTransit f false s := by
  simp only [placeFile, hh, ht, hc, Option.isNone_none, Bool.and_self, if_true]

theorem placeFile_kept (f : IntervalFile) (s : State) (hh : s.filing.held = none)
    (h : s.filing.transit ≠ none ∨ canAccess s = false) : placeFile f s = holdFile f s := by
  have waits : (s.filing.transit.isNone && canAccess s) = false := by
    rcases h with h | h <;> simp [h]
  simp only [placeFile, hh, waits, Bool.false_eq_true, if_false]

theorem holdFile_blocks (f : IntervalFile) (s : State) :
    (holdFile f s).filing = { s.filing with held := some (reported f) } ∧
      (holdFile f s).port = { s.port with intcause := s.port.intcause ||| (1#9 <<< 1) } := by
  obtain ⟨c, o, h⟩ := holdFile_spec f s
  rw [h]
  exact ⟨rfl, rfl⟩

/-- R152: a file that is held or merged is reported as placed. -/
theorem placeFile_reports (f : IntervalFile) (s : State)
    (h : s.filing.held ≠ none ∨ s.filing.transit ≠ none ∨ canAccess s = false) :
    closesReported f (partTime s) s (placeFile f s) := by
  cases hh : s.filing.held with
  | some g =>
    rw [placeFile_merged f g s hh]
    exact closesReported_reportFile f { s with filing := { s.filing with held := some (reported (mergeFiles g f)) } }
  | none =>
    rw [placeFile_kept f s hh (h.resolve_left (absurd hh))]
    exact closesReported_reportFile f { s with filing := { s.filing with held := some (reported f) } }

/-- The exchange area cannot be reached where the exchange is not ONLINE or no base is placed. -/
theorem canAccess_eq_false (s : State) (h : s.port.exchange ≠ .online ∨ s.port.exbase = 0) : canAccess s = false :=
  Bool.eq_false_iff.mpr fun reached =>
    have ⟨online, placed⟩ := (canAccess_iff s).mp reached
    h.elim (absurd online) placed

/-! ## The commands (R133, R142) -/

theorem completeFile_joined (s : State) (seq : Word64) (a : Assembly) (parts : List AcctPart) (demand : List DemandPart)
    (stats : List Acc) (found : s.filing.assemblies.find? (fun b => b.close.seq = seq) = some a)
    (acct : a.acct = some (parts, demand)) (stat : a.stat = some stats) : completeFile seq s =
      placeFile (joinFile a.close parts demand stats) { s with filing := { s.filing with
        assemblies := s.filing.assemblies.filter (fun b => b.close.seq ≠ seq) } } := by
  simp only [completeFile, found, acct, stat]

theorem exec_fileComplete (s : State) (ds : List Due) (seq : Word64) (hd : s.due = .fileComplete seq :: ds) :
    exec .fileComplete s = .next (advance (completeFile seq { s with due := ds })) := by
  show Host.Outcome.next (perform _ s) = _
  rw [perform_front _ s _ ds hd rfl rfl, microStep_fileComplete]

theorem transitAtEvent_eq_false (s : State) (h : ∀ ev, s.event = some ev → ev.inTransit = false) :
    transitAtEvent s = false := by
  cases he : s.event with
  | none => simp [transitAtEvent, he]
  | some ev => simp [transitAtEvent, he, h ev he]

theorem canRetry_of_held (s : State) (f : IntervalFile) (hf : s.filing.held = some f) (ht : s.filing.transit = none)
    (he : transitAtEvent s = false) (hc : canAccess s = true) : canRetry s = true := by
  simp [canRetry, hc, hf, ht, he]

theorem canRetry_transitAtEvent (s : State) (ev : Event) (he : s.event = some ev) (h : ev.inTransit = true) :
    canRetry s = false := by
  simp [canRetry, transitAtEvent, he, h]

theorem retryHeld_some (s : State) (f : IntervalFile) (hf : s.filing.held = some f) :
    retryHeld s = beginTransit f true { s with filing := { s.filing with held := none } } := by
  simp only [retryHeld, hf]

theorem exec_heldFileRetry (s : State) (ds : List Due) (hd : s.due = .heldRetry :: ds)
    (h : canRetry { s with due := ds } = true) :
    exec .heldFileRetry s = .next (advance (retryHeld { s with due := ds })) := by
  show Host.Outcome.next (perform _ s) = _
  rw [perform_front _ s _ ds hd h rfl, microStep_heldRetry, onlyIf, if_pos h]

/-- Settles O42: where a file is placed, what its placing reports, and the retry of a held file. -/
theorem completedFilesArePlaced : Obligations.CompletedFilesArePlaced := by
  refine ⟨?_, fun s f => ⟨?_, ?_, ?_⟩, ?_, ?_, ?_, partTime_now, fun c parts demand stats => rfl⟩
  · intro s ds seq a parts demand stats hd found acct stat
    rw [exec_fileComplete s ds seq hd, completeFile_joined { s with due := ds } seq a parts demand stats found acct stat]
  · intro h hh
    obtain ⟨filing, port, -⟩ := reportFile_blocks f
      { s with filing := { s.filing with held := some (reported (mergeFiles h f)) } }
    rw [placeFile_merged f h s hh]
    exact ⟨filing, port⟩
  · intro hh ht hx hb
    exact placeFile_sent f s hh ht ((canAccess_iff s).mpr ⟨hx, hb⟩)
  · intro hh h
    rw [placeFile_kept f s hh (h.imp_right (canAccess_eq_false s))]
    exact holdFile_blocks f s
  · intro s ds f hd hf he ht hx hb
    have reached : canAccess { s with due := ds } = true := (canAccess_iff _).mpr ⟨hx, hb⟩
    have waits := transitAtEvent_eq_false { s with due := ds } he
    rw [exec_heldFileRetry s ds hd (canRetry_of_held _ f hf ht waits reached), retryHeld_some { s with due := ds } f hf]
    rfl
  · intro s ev he h
    exact onlyIf_false _ _ _ (canRetry_transitAtEvent s ev he h)
  · intro s f h
    exact placeFile_reports f s (h.imp_right (Or.imp_right (canAccess_eq_false s)))

end Sys2Proof.Machine
end

section
/-! SUPPORT. The answers to a transit's accesses (R138 to R140), and how a transit ends without a page (R144). -/

namespace Sys2Proof.Machine

/-! ## An answer in time (R201, log 14) -/

theorem transitInTime_iff (s : State) (x : Transit) (hx : s.filing.transit = some x) :
    transitInTime s = true ↔ s.tick < x.issuedAt + 20000 := by
  simp [transitInTime, hx]

/-- With nothing due, an answer in time acts after its time has passed, and brings nothing further about. -/
theorem fromOutside_transit (act : State → State) (s : State) (dt : Nat) (x : Transit) (h : quiet s)
    (hx : s.filing.transit = some x) (ht : s.tick + dt < x.issuedAt + 20000) (hd : (act (elapse dt s)).due = []) :
    fromOutside dt (onlyIf transitInTime act) s = act (elapse dt s) := by
  obtain ⟨phase, due⟩ := h
  have inTime : transitInTime (elapse dt s) = true := by
    rwa [transitInTime_iff _ x (by rwa [elapse_filing]), elapse_tick]
  have acts : onlyIf transitInTime act (elapse dt s) = act (elapse dt s) := by rw [onlyIf, if_pos inTime]
  rw [fromOutside_plain dt _ s phase due (by rw [acts, hd]), acts]

theorem elapse_quiet_due (dt : Nat) (s : State) (h : quiet s) : (elapse dt s).due = [] := by
  obtain ⟨-, due⟩ := h
  rw [elapse_due, due]

/-! ## The end without a page (R144, R145, R153) -/

/-- What the filing unit holds once a file in transit has returned. -/
def returnedFiling (x : Transit) (g : Filing) : Filing :=
  { g with
    transit := none, layoutDue := false
    nextPage := if g.layoutDue then 0 else g.nextPage
    pageSeq := if g.layoutDue then 0 else g.pageSeq
    held := some { (match g.held with | some h => mergeFiles x.file h | none => x.file) with unreported := [] } }

theorem returnTransit_some (q : Bool) (s : State) (x : Transit) (hx : s.filing.transit = some x) :
    returnTransit q s = requestIf (!q && s.filing.held.isNone && !x.fromHeld) .hold
      (reportFile x.file { s with filing := returnedFiling x s.filing }) := by
  simp only [returnTransit, hx]
  rfl

/-- A return moves the filing unit, reports the file's closes, and changes of the other blocks INTCAUSE alone. -/
theorem returnTransit_blocks (q : Bool) (s : State) (x : Transit) (hx : s.filing.transit = some x) :
    (returnTransit q s).filing = returnedFiling x s.filing ∧ (returnTransit q s).tb = s.tb ∧
      (returnTransit q s).acct = s.acct ∧ (returnTransit q s).due = s.due := by
  obtain ⟨filing, -, acct, -, tb, due, -⟩ := reportFile_blocks x.file { s with filing := returnedFiling x s.filing }
  rw [returnTransit_some q s x hx, requestIf_filing, requestIf_tb, requestIf_acct, requestIf_due]
  exact ⟨filing, tb, acct, due⟩

theorem returnTransit_reports (q : Bool) (s : State) (x : Transit) (hx : s.filing.transit = some x) :
    closesReported x.file (partTime s) s (returnTransit q s) := by
  rw [returnTransit_some q s x hx]
  exact closesReported_congr rfl rfl (by rw [requestIf_ic]) (requestIf_orders ..)
    (closesReported_reportFile x.file { s with filing := returnedFiling x s.filing })

theorem requestIf_port (b : Bool) (c : IntCause) (s : State) : (requestIf b c s).port =
    { s.port with intcause := s.port.intcause ||| (if b = true then 1#9 <<< c.bit else 0) } := by
  cases b <;> simp [requestIf, request]

/-- R145: HOLD is requested where the holding file was empty and the file came straight from its completion. -/
theorem returnTransit_port (s : State) (x : Transit) (hx : s.filing.transit = some x) :
    (returnTransit false s).port = { s.port with intcause := s.port.intcause |||
      (if s.filing.held = none ∧ x.fromHeld = false then 1#9 <<< 1 else 0) } := by
  obtain ⟨-, port, -⟩ := reportFile_blocks x.file { s with filing := returnedFiling x s.filing }
  rw [returnTransit_some false s x hx, requestIf_port, port]
  simp [IntCause.bit]

/-! ## The page (R139, R140) -/

theorem ownerAnswer_engine (s : State) (x : Transit) (hx : s.filing.transit = some x) (h : x.stage = .owner) :
    ownerAnswer 1 s = writeBody x s := by
  simp only [ownerAnswer, hx, h, if_true]

theorem ownerAnswer_other (w : Word32) (hw : w ≠ 1) (s : State) (x : Transit) (hx : s.filing.transit = some x)
    (h : x.stage = .owner) : ownerAnswer w s = returnTransit false s := by
  simp only [ownerAnswer, hx, h, hw, if_true, if_false]

theorem bodyAnswer_body (s : State) (x : Transit) (hx : s.filing.transit = some x) (h : x.stage = .body) :
    bodyAnswer s =
      { s with filing := { s.filing with transit := some { x with stage := .header, issuedAt := s.tick } } } := by
  simp only [bodyAnswer, hx, h, if_true]

/-- What the filing unit holds once a page is written, in a ring of `k` pages. -/
def filedFiling (k : Nat) (x : Transit) (g : Filing) : Filing :=
  { g with
    transit := none, layoutDue := false
    pageSeq := if g.layoutDue then 0 else x.seqNo
    nextPage := if g.layoutDue then 0 else if x.page + 1 < k then x.page + 1 else 0 }

theorem pageComplete_header (s : State) (x : Transit) (c : Cfg) (hx : s.filing.transit = some x)
    (h : x.stage = .header) (hc : s.store.active = some c) :
    pageComplete s = reportFile x.file { s with
      filing := filedFiling c.pageCount x s.filing
      port := { s.port with intcause := s.port.intcause ||| (1#9 <<< 0) }
      ic := { s.ic with unfiled := if x.file.demand = [] then s.ic.unfiled else false } } := by
  simp only [pageComplete, hx, h, hc, if_true]
  split <;> rfl

/-! ## The commands -/

section Commands

variable (s : State) (dt : Nat) (x : Transit) (h : quiet s) (hx : s.filing.transit = some x)
  (ht : s.tick + dt < x.issuedAt + 20000)
include h hx ht

theorem exec_ownerWordAnswer_engine (hs : x.stage = .owner) :
    exec (.ownerWordAnswer dt 1) s = .next (writeBody x (elapse dt s)) := by
  have answered := ownerAnswer_engine (elapse dt s) x (by rwa [elapse_filing]) hs
  show Host.Outcome.next (fromOutside dt _ s) = _
  rw [fromOutside_transit _ s dt x h hx ht (by rw [answered]; exact elapse_quiet_due dt s h), answered]

theorem exec_ownerWordAnswer_other (hs : x.stage = .owner) (w : Word32) (hw : w ≠ 1) :
    exec (.ownerWordAnswer dt w) s = .next (returnTransit false (elapse dt s)) := by
  have transit : (elapse dt s).filing.transit = some x := by rwa [elapse_filing]
  have answered := ownerAnswer_other w hw (elapse dt s) x transit hs
  obtain ⟨-, -, -, due⟩ := returnTransit_blocks false (elapse dt s) x transit
  show Host.Outcome.next (fromOutside dt _ s) = _
  rw [fromOutside_transit _ s dt x h hx ht (by rw [answered, due, elapse_quiet_due dt s h]), answered]

theorem exec_pageBodyAnswered (hs : x.stage = .body) : exec (.pageBodyAnswered dt) s = .next { elapse dt s with
    filing := { s.filing with transit := some { x with stage := .header, issuedAt := s.tick + dt } } } := by
  have answered := bodyAnswer_body (elapse dt s) x (by rwa [elapse_filing]) hs
  show Host.Outcome.next (fromOutside dt _ s) = _
  rw [fromOutside_transit _ s dt x h hx ht (by rw [answered]; exact elapse_quiet_due dt s h), answered]
  simp only [elapse_filing, elapse_tick]

theorem exec_pageWriteComplete (hs : x.stage = .header) (c : Cfg) (hc : s.store.active = some c) :
    exec (.pageWriteComplete dt) s = .next (reportFile x.file { elapse dt s with
      filing := filedFiling c.pageCount x s.filing
      port := { s.port with intcause := s.port.intcause ||| (1#9 <<< 0) }
      ic := { s.ic with unfiled := if x.file.demand = [] then s.ic.unfiled else false } }) := by
  have answered := pageComplete_header (elapse dt s) x c (by rwa [elapse_filing]) hs (by rwa [elapse_store])
  obtain ⟨-, -, -, -, -, due, -⟩ := reportFile_blocks x.file { elapse dt s with
    filing := filedFiling c.pageCount x (elapse dt s).filing
    port := { (elapse dt s).port with intcause := (elapse dt s).port.intcause ||| (1#9 <<< 0) }
    ic := { (elapse dt s).ic with unfiled := if x.file.demand = [] then (elapse dt s).ic.unfiled else false } }
  show Host.Outcome.next (fromOutside dt _ s) = _
  rw [fromOutside_transit _ s dt x h hx ht (by rw [answered, due]; exact elapse_quiet_due dt s h), answered]
  simp only [elapse_filing, elapse_port, elapse_ic]

end Commands

/-! ## What the answers come to -/

section Answers

variable (s : State) (dt : Nat) (x : Transit) (h : quiet s) (hx : s.filing.transit = some x)
  (ht : s.tick + dt < x.issuedAt + 20000)
include h hx ht

/-- R138, R144: with any word but ENGINE the file returns to the holding file. -/
theorem ownerWord_returns (hs : x.stage = .owner) (w : Word32) (hw : w ≠ 1) :
    ∃ t, exec (.ownerWordAnswer dt w) s = .next t ∧ t.filing = returnedFiling x s.filing ∧
      t.port = { s.port with intcause := s.port.intcause |||
        (if s.filing.held = none ∧ x.fromHeld = false then 1#9 <<< 1 else 0) } ∧
      t.tb = (elapse dt s).tb ∧ t.acct = s.acct ∧ closesReported x.file (partTime (elapse dt s)) s t := by
  have transit : (elapse dt s).filing.transit = some x := by rwa [elapse_filing]
  obtain ⟨filing, tb, acct, -⟩ := returnTransit_blocks false (elapse dt s) x transit
  have port := returnTransit_port (elapse dt s) x transit
  rw [elapse_filing] at filing port
  rw [elapse_port] at port
  exact ⟨_, exec_ownerWordAnswer_other s dt x h hx ht hs w hw, filing, port, tb, acct.trans (elapse_acct dt s),
    closesReported_congr (by rw [elapse_ic]) (elapse_orders dt s).symm rfl rfl
      (returnTransit_reports false (elapse dt s) x transit)⟩

/-- R140, R152, R153: the page is written. -/
theorem pageWrite_completes (hs : x.stage = .header) (c : Cfg) (hc : s.store.active = some c) :
    ∃ t, exec (.pageWriteComplete dt) s = .next t ∧ t.filing = filedFiling c.pageCount x s.filing ∧
      t.port = { s.port with intcause := s.port.intcause ||| (1#9 <<< 0) } ∧
      t.ic.unfiled = (if x.file.demand = [] then s.ic.unfiled else false) ∧
      t.tb = (elapse dt s).tb ∧ t.acct = s.acct ∧ t.stats = s.stats ∧
      closesReported x.file (partTime (elapse dt s)) s t := by
  refine ⟨_, exec_pageWriteComplete s dt x h hx ht hs c hc, ?_⟩
  generalize hw : ({ elapse dt s with
    filing := filedFiling c.pageCount x s.filing
    port := { s.port with intcause := s.port.intcause ||| (1#9 <<< 0) }
    ic := { s.ic with unfiled := if x.file.demand = [] then s.ic.unfiled else false } } : State) = w
  obtain ⟨filing, port, acct, stats, tb, -, unfiled⟩ := reportFile_blocks x.file w
  have reports := closesReported_reportFile x.file w
  rw [filing, port, acct, stats, tb, unfiled]
  subst hw
  refine ⟨rfl, rfl, rfl, rfl, elapse_acct dt s, elapse_stats dt s, ?_⟩
  exact closesReported_congr (by rfl) (by rw [elapse_orders]) rfl rfl reports

end Answers

end Sys2Proof.Machine
end

section
/-! SUPPORT. Fields one after the other: lists of fields, their lengths and offsets, and members of one size. -/

namespace Sys2Proof.Machine

/-! ## Lists of fields -/

theorem fieldBytes_nil : fieldBytes [] = [] := rfl

theorem fieldBytes_cons (w v : Nat) (fs : List (Nat × Nat)) :
    fieldBytes ((w, v) :: fs) = leBytes w v ++ fieldBytes fs := rfl

theorem fieldBytes_append (fs gs : List (Nat × Nat)) : fieldBytes (fs ++ gs) = fieldBytes fs ++ fieldBytes gs := by
  simp [fieldBytes]

theorem fieldBytes_map {α : Type} (w : Nat) (v : α → Nat) (l : List α) :
    fieldBytes (l.map (fun a => (w, v a))) = (l.map (fun a => leBytes w (v a))).flatten := by
  rw [fieldBytes, List.map_map]
  rfl

theorem fieldBytes_length (fs : List (Nat × Nat)) : (fieldBytes fs).length = (fs.map (fun f => f.1)).sum := by
  simp [fieldBytes, List.length_flatten, Function.comp_def]

theorem fieldsFrom_append (fs gs : List (Nat × Nat)) (o : Nat) :
    fieldsFrom o (fs ++ gs) = fieldsFrom o fs ++ fieldsFrom (o + (fs.map (fun f => f.1)).sum) gs := by
  induction fs generalizing o with
  | nil => rfl
  | cons f fs ih => simp [fieldsFrom, ih, Nat.add_assoc]

/-- Fields of one width for the members of a list. -/
theorem fieldsFrom_map {α : Type} (w : Nat) (v : α → Nat) (d : α) (l : List α) (o : Nat) :
    fieldsFrom o (l.map (fun a => (w, v a))) =
      (List.range l.length).map (fun i => (o + w * i, w, v (l.getD i d))) := by
  induction l generalizing o with
  | nil => rfl
  | cons a l ih =>
    rw [List.map_cons, fieldsFrom, ih, List.length_cons, List.range_succ_eq_map, List.map_cons, List.map_map]
    congr 1
    refine List.map_congr_left fun i _ => ?_
    simp only [Function.comp_apply, Nat.succ_eq_add_one, List.getD_cons_succ, Prod.mk.injEq, and_true]
    ring

/-- Fields at an offset, each counted from there. -/
theorem fieldBytes_at (fs : List (Nat × Nat)) (before after : List Byte) (o : Nat) (hb : before.length = o) :
    ∀ x ∈ fieldsFrom 0 fs,
      ((before ++ (fieldBytes fs ++ after)).drop (o + x.1)).take x.2.1 = leBytes x.2.1 x.2.2 := by
  intro x hx
  rw [← List.drop_drop, List.drop_left' hb]
  exact fieldBytes_fields fs [] after 0 rfl x hx

/-! ## Members of one size -/

theorem flatten_split {α : Type} (f : α → List Byte) (l : List α) (i : Nat) (a : α) (h : l[i]? = some a) :
    (l.map f).flatten = ((l.take i).map f).flatten ++ (f a ++ ((l.drop (i + 1)).map f).flatten) := by
  obtain ⟨hi, rfl⟩ := List.getElem?_eq_some_iff.mp h
  conv_lhs => rw [← List.take_append_drop i l, List.drop_eq_getElem_cons hi]
  simp only [List.map_append, List.map_cons, List.flatten_append, List.flatten_cons]

/-- The fields of one member of a list whose members take `n` bytes each, behind the bytes that precede the list. -/
theorem member_fields {α : Type} (fs : α → List (Nat × Nat)) (n : Nat) (hn : ∀ a, (fieldBytes (fs a)).length = n)
    (before after : List Byte) (o : Nat) (hb : before.length = o) (l : List α) (i : Nat) (a : α) (h : l[i]? = some a) :
    ∀ x ∈ fieldsFrom 0 (fs a),
      ((before ++ ((l.map (fun a => fieldBytes (fs a))).flatten ++ after)).drop (o + n * i + x.1)).take x.2.1 =
        leBytes x.2.1 x.2.2 := by
  have hi : i ≤ l.length := (List.getElem?_eq_some_iff.mp h).1.le
  have preceding : (before ++ ((l.take i).map (fun a => fieldBytes (fs a))).flatten).length = o + n * i := by
    rw [List.length_append, hb, flatten_length _ _ n hn, List.length_take, Nat.min_eq_left hi]
  rw [flatten_split _ l i a h]
  simpa only [List.append_assoc] using fieldBytes_at (fs a) _
    (((l.drop (i + 1)).map (fun a => fieldBytes (fs a))).flatten ++ after) _ preceding

/-! ## Fields that saturate (R211), masks (R210) -/

theorem leSat_four (v : Nat) : leSat 4 v = leBytes 4 (min (2 ^ 32 - 1) v) :=
  congrArg (leBytes 4) (Nat.min_comm v (2 ^ 32 - 1))

theorem leSat_two (v : Nat) : leSat 2 v = leBytes 2 (min 65535 v) := congrArg (leBytes 2) (Nat.min_comm v 65535)

/-- R210: a mask is the sum of its members' bits. -/
theorem maskOf_eq_sum (bs : List Bool) :
    maskOf bs = ((List.range bs.length).map (fun c => if bs.getD c false then 2 ^ c else 0)).sum := by
  induction bs with
  | nil => rfl
  | cons b bs ih =>
    rw [maskOf, ih, List.length_cons, List.range_succ_eq_map, List.map_cons, List.map_map, List.sum_cons,
      ← List.sum_map_mul_left]
    congr 2
    refine List.map_congr_left fun c _ => ?_
    simp only [Function.comp_apply, Nat.succ_eq_add_one, List.getD_cons_succ, pow_succ]
    split <;> ring

end Sys2Proof.Machine
end

section
/-! PROOF. The bytes of a page (R119, R120, R139, R211, R213), and how a transit writes it or returns its file (O43). -/

namespace Sys2Proof.Machine

/-! ## The page header (R139, R213) -/

theorem foldl_causes (i : Nat) : ∀ (rs : List IntervalRecord) (cs : CauseSet),
    (rs.foldl (fun cs r => cs ||| r.causes) cs).getLsbD i = (cs.getLsbD i || rs.any (fun r => r.causes.getLsbD i))
  | [], cs => by simp
  | r :: rs, cs => by rw [List.foldl_cons, foldl_causes i rs, BitVec.getLsbD_or, List.any_cons, Bool.or_assoc]

theorem fileCauses_bit (f : IntervalFile) (i : Nat) :
    (fileCauses f).getLsbD i = f.records.any (fun r => r.causes.getLsbD i) := by
  rw [fileCauses, foldl_causes, show (0 : CauseSet).getLsbD i = false from BitVec.getLsbD_zero, Bool.false_or]

theorem foldl_min_least (a : Nat) (l : List Nat) : l.foldl min a ∈ a :: l ∧ ∀ x ∈ a :: l, l.foldl min a ≤ x :=
  List.min?_eq_some_iff.mp List.min?_cons'

theorem firstSequence_least (f : IntervalFile) (h : f.records ≠ []) :
    (∃ r ∈ f.records, r.firstSeq.toNat = firstSequence f) ∧
      ∀ r ∈ f.records, firstSequence f ≤ r.firstSeq.toNat := by
  obtain ⟨r, rs, hr⟩ := List.exists_cons_of_ne_nil h
  have first : firstSequence f = (f.records.map (fun r => r.firstSeq.toNat)).foldl min r.firstSeq.toNat := by
    simp only [firstSequence, hr]
  obtain ⟨isOne, isLeast⟩ := foldl_min_least r.firstSeq.toNat (f.records.map (fun r => r.firstSeq.toNat))
  rw [← first] at isOne isLeast
  refine ⟨?_, fun q hq => isLeast _ (List.mem_cons_of_mem _ (List.mem_map_of_mem hq))⟩
  rcases List.mem_cons.mp isOne with own | other
  · exact ⟨r, hr ▸ List.mem_cons_self .., own.symm⟩
  · exact List.mem_map.mp other

theorem lastSequence_greatest (f : IntervalFile) (h : f.records ≠ []) :
    (∃ r ∈ f.records, r.lastSeq.toNat = lastSequence f) ∧ ∀ r ∈ f.records, r.lastSeq.toNat ≤ lastSequence f := by
  obtain ⟨isOne, isGreatest⟩ := foldl_max_greatest (f.records.map (fun r => r.lastSeq.toNat)) (by simpa using h)
  exact ⟨List.mem_map.mp isOne, fun r hr => isGreatest _ (List.mem_map_of_mem hr)⟩

/-- 11.6: the fields of the page header. -/
def pageHeaderFields (f : IntervalFile) (epoch seqNo : Word32) (len : Nat) : List (Nat × Nat) :=
  [(4, 2), (4, epoch.toNat), (4, seqNo.toNat), (2, f.records.length + f.demand.length), (2, 64 + len),
    (8, firstSequence f), (8, lastSequence f), (2, (fileCauses f).toNat), (2, 0), (4, min (2 ^ 32 - 1) f.merges),
    (8, 0), (8, 0), (8, 0)]

theorem headerBytes_eq (f : IntervalFile) (epoch seqNo : Word32) (len : Nat) :
    headerBytes f epoch seqNo len = fieldBytes (pageHeaderFields f epoch seqNo len) := by
  have reserved : zeros 2 = leBytes 2 0 := rfl
  have unused : zeros 24 = leBytes 8 0 ++ (leBytes 8 0 ++ leBytes 8 0) := rfl
  simp only [headerBytes, pageHeaderFields, reserved, unused, leSat_four, fieldBytes_cons, fieldBytes_nil,
    List.append_nil, List.append_assoc]

theorem headerBytes_length (f : IntervalFile) (epoch seqNo : Word32) (len : Nat) :
    (headerBytes f epoch seqNo len).length = 64 := by
  rw [headerBytes_eq, fieldBytes_length]
  simp only [pageHeaderFields, List.map_cons, List.map_nil, List.sum_cons, List.sum_nil, Nat.reduceAdd]

theorem headerBytes_field (f : IntervalFile) (epoch seqNo : Word32) (len : Nat) (x : Nat × Nat × Nat)
    (hx : x ∈ fieldsFrom 0 (pageHeaderFields f epoch seqNo len)) :
    ((headerBytes f epoch seqNo len).drop x.1).take x.2.1 = leBytes x.2.1 x.2.2 := by
  rw [headerBytes_eq, ← List.append_nil (fieldBytes _)]
  exact fieldBytes_fields (pageHeaderFields f epoch seqNo len) [] [] 0 rfl x hx

/-! ## The order list and its entries (R119, R120) -/

/-- The positions of the listed orders: position `j` is order `j + 2`. -/
def listedOrders (a : Acc) : List Nat := (List.range 49).filter (fun j => listed a (a.orders.getD j {}))

theorem orderList_eq (a : Acc) (h : a.orders.length = 49) :
    orderList a = (listedOrders a).map (fun j => (j + 2, a.orders.getD j {})) := by
  have numbered : a.orders.mapIdx (fun j o => (j + 2, o)) =
      (List.range 49).map (fun j => (j + 2, a.orders.getD j {})) := by
    refine List.ext_getElem (by simp [h]) fun j hj _ => ?_
    have inside : j < a.orders.length := by simpa using hj
    simp [inside]
  rw [orderList, numbered, List.filter_map]
  rfl

theorem listed_eq (a : Acc) (o : OrderAcc) : listed a o =
    if a.point = 4 then decide (0 < o.emission)
    else decide (a.floor ≤ meanOr 0 o.sum a.included ∨ 0 < o.exceed ∨ 0 < o.emission) := by
  unfold listed orderMean
  split <;> simp [Bool.or_assoc]

/-- 11.6: the fields of the order entry of position `j`. -/
def orderFields (a : Acc) (j : Nat) (o : OrderAcc) : List (Nat × Nat) :=
  [(1, j + 2), (3, if a.point = 4 then 0 else meanOr 0 o.sum a.included), (4, if a.point = 4 then 0 else o.max),
    (4, if a.point = 4 then 0 else min (2 ^ 32 - 1) o.exceed), (4, min (2 ^ 32 - 1) o.emission)]

theorem orderEntryBytes_eq (a : Acc) (j : Nat) (o : OrderAcc) :
    orderEntryBytes a (j + 2, o) = fieldBytes (orderFields a j o) := by
  have exceed : min (2 ^ 32 - 1) (if a.point = 4 then 0 else o.exceed) =
      if a.point = 4 then 0 else min (2 ^ 32 - 1) o.exceed := by split <;> rfl
  simp only [orderEntryBytes, orderFields, orderMean, leSat_four, exceed, fieldBytes_cons, fieldBytes_nil,
    List.append_nil, List.append_assoc]

theorem orderFields_length (a : Acc) (j : Nat) (o : OrderAcc) : (fieldBytes (orderFields a j o)).length = 16 := by
  rw [fieldBytes_length]
  rfl

/-- 11.6: the fields of an event entry. -/
def eventFields (e : EventEntry) : List (Nat × Nat) :=
  [(1, e.mon.val + (if e.on then 4 else 0) + (if e.reconfigured then 8 else 0)), (3, e.index), (4, e.value)]

theorem eventBytes_eq (e : EventEntry) : eventBytes e = fieldBytes (eventFields e) := by
  simp only [eventBytes, eventFields, fieldBytes_cons, fieldBytes_nil, List.append_nil, List.append_assoc]

theorem eventFields_length (e : EventEntry) : (fieldBytes (eventFields e)).length = 8 := by
  rw [fieldBytes_length]
  rfl

/-! ## The interval record (R119, R211, R213) -/

/-- A mean of a record: 0 for the aggregate point. -/
def meanField (a : Acc) (none sum count : Nat) : Nat := if a.point = 4 then 0 else meanOr none sum count

theorem meanBytes_eq (a : Acc) : meanBytes a = fieldBytes
    [(4, meanField a 0 a.fundSum a.included), (2, meanField a 65535 a.thdISum a.thdICount),
      (2, meanField a 65535 a.thdVSum a.thdVCount), (2, meanField a 0 a.tddSum a.included)] := by
  unfold meanBytes meanField
  split
  · rfl
  · simp only [fieldBytes_cons, fieldBytes_nil, List.append_nil, List.append_assoc]

theorem recordFlags_eq (r : IntervalRecord) : recordFlags r =
    (if r.partialMark then 1 else 0) + (if r.excluded then 2 else 0) + (if r.unexpected then 4 else 0)
      + (if r.malformed then 8 else 0) + (if r.timeout then 16 else 0) := by
  simp only [recordFlags, maskOf]
  split_ifs <;> rfl

/-- 11.6: the fields of an interval record before its cumulative counts. -/
def recordHeadFields (r : IntervalRecord) : List (Nat × Nat) :=
  [(1, 1), (1, r.point),
    (1, (if r.partialMark then 1 else 0) + (if r.excluded then 2 else 0) + (if r.unexpected then 4 else 0)
      + (if r.malformed then 8 else 0) + (if r.timeout then 16 else 0)),
    (1, r.tariffMask.toNat + 16 * r.tariffAtClose), (2, r.causes.toNat), (1, (listedOrders r.stats).length),
    (1, r.stats.events.length), (8, r.firstSeq.toNat), (8, r.lastSeq.toNat), (6, r.startTime), (6, r.endTime),
    (4, r.genFirst.toNat), (4, r.genLast.toNat), (4, min (2 ^ 32 - 1) r.merges),
    (4, min (2 ^ 32 - 1) r.stats.total), (4, min (2 ^ 32 - 1) r.stats.clean), (4, min (2 ^ 32 - 1) r.stats.flagged),
    (4, min (2 ^ 32 - 1) r.stats.missing), (4, min (2 ^ 32 - 1) r.stats.partials),
    (4, min (2 ^ 32 - 1) r.stats.unlocked), (4, min (2 ^ 32 - 1) r.stats.discarded),
    (4, min (2 ^ 32 - 1) r.stats.included), (4, min (2 ^ 32 - 1) r.stats.subst), (4, r.stats.minFreq),
    (4, r.stats.maxFreq), (4, meanField r.stats 0 r.stats.fundSum r.stats.included),
    (2, meanField r.stats 65535 r.stats.thdISum r.stats.thdICount),
    (2, meanField r.stats 65535 r.stats.thdVSum r.stats.thdVCount),
    (2, meanField r.stats 0 r.stats.tddSum r.stats.included), (2, min 65535 r.stats.offsetUpdates),
    (2, min 65535 r.stats.dropped),
    (1, ((List.range 7).map (fun c => if r.stats.stuck.getD c false then 2 ^ c else 0)).sum), (1, 0)]

/-- 11.6: the fields of an interval record before its order list. -/
def recordFields (r : IntervalRecord) : List (Nat × Nat) :=
  recordHeadFields r ++ (r.cumulative.map (fun c => (4, c.toNat)) ++
    ([(8, r.demandQI), (8, r.demandA)] ++ r.deltas.map (fun d => (8, d.toNat))))

/-- The order entries of a record. -/
def recordOrders (a : Acc) : List Byte :=
  ((listedOrders a).map (fun j => fieldBytes (orderFields a j (a.orders.getD j {})))).flatten

/-- The event entries of a record. -/
def recordEvents (a : Acc) : List Byte := (a.events.map (fun e => fieldBytes (eventFields e))).flatten

theorem recordOrders_eq (a : Acc) (h : a.orders.length = 49) :
    ((orderList a).map (orderEntryBytes a)).flatten = recordOrders a := by
  rw [orderList_eq a h, List.map_map, recordOrders]
  congr 2
  funext j
  exact orderEntryBytes_eq a j _

/-- R213: an interval record is its fields, its order entries and its event entries. -/
theorem recordBytes_eq (r : IntervalRecord) (orders : r.stats.orders.length = 49) (stuck : r.stats.stuck.length = 7) :
    recordBytes r = fieldBytes (recordFields r) ++ (recordOrders r.stats ++ recordEvents r.stats) := by
  have entries := recordOrders_eq r.stats orders
  have count : (orderList r.stats).length = (listedOrders r.stats).length := by
    rw [orderList_eq _ orders, List.length_map]
  have events : (r.stats.events.map eventBytes).flatten = recordEvents r.stats := by
    rw [recordEvents, ← funext eventBytes_eq]
  have mask := maskOf_eq_sum r.stats.stuck
  have reserved : zeros 1 = leBytes 1 0 := rfl
  rw [stuck] at mask
  unfold recordBytes recordFields recordHeadFields
  simp only [entries, count, events, mask, reserved, recordFlags_eq,
    meanBytes_eq, leSat_four, leSat_two, fieldBytes_append, fieldBytes_cons, fieldBytes_nil, fieldBytes_map,
    List.append_nil, List.append_assoc]

theorem recordHeadFields_width (r : IntervalRecord) : ((recordHeadFields r).map (fun f => f.1)).sum = 108 := by
  simp only [recordHeadFields, List.map_cons, List.map_nil, List.sum_cons, List.sum_nil, Nat.reduceAdd]

theorem fields_width {α : Type} (w : Nat) (v : α → Nat) (l : List α) :
    ((l.map (fun a => (w, v a))).map (fun f => f.1)).sum = l.length * w := by
  simp [Function.comp_def]

section Record

variable (r : IntervalRecord) (cumulative : r.cumulative.length = 9) (deltas : r.deltas.length = 36)
include cumulative deltas

theorem recordFields_length : (fieldBytes (recordFields r)).length = 448 := by
  simp only [fieldBytes_length, recordFields, List.map_append, List.sum_append, recordHeadFields_width, fields_width,
    cumulative, deltas, List.map_cons, List.map_nil, List.sum_cons, List.sum_nil, Nat.reduceAdd, Nat.reduceMul]

/-- 11.6: the fields of an interval record, each with its offset. -/
theorem recordFields_offsets : fieldsFrom 0 (recordFields r) = fieldsFrom 0 (recordHeadFields r) ++
    ((List.range 9).map (fun q => (108 + 4 * q, 4, (r.cumulative.getD q 0).toNat)) ++
      ([(144, 8, r.demandQI), (152, 8, r.demandA)] ++
        (List.range 36).map (fun i => (160 + 8 * i, 8, (r.deltas.getD i 0).toNat)))) := by
  rw [recordFields, fieldsFrom_append, fieldsFrom_append, fieldsFrom_append, recordHeadFields_width,
    fieldsFrom_map 4 (fun c : Word64 => c.toNat) 0, fieldsFrom_map 8 (fun d : Word64 => d.toNat) 0, fields_width,
    cumulative, deltas]
  simp only [fieldsFrom, List.map_cons, List.map_nil, List.sum_cons, List.sum_nil, Nat.zero_add, Nat.reduceAdd,
    Nat.reduceMul]

theorem mem_recordFields (x : Nat × Nat × Nat) (hx : x ∈ fieldsFrom 0 (recordHeadFields r) ++
      [(144, 8, r.demandQI), (152, 8, r.demandA)] ++
      (List.range 9).map (fun q => (108 + 4 * q, 4, (r.cumulative.getD q 0).toNat)) ++
      (List.range 36).map (fun i => (160 + 8 * i, 8, (r.deltas.getD i 0).toNat))) :
    x ∈ fieldsFrom 0 (recordFields r) := by
  rw [recordFields_offsets r cumulative deltas]
  simp only [List.mem_append] at hx ⊢
  tauto

variable (orders : r.stats.orders.length = 49) (stuck : r.stats.stuck.length = 7)
include orders stuck

theorem recordBytes_length :
    (recordBytes r).length = 448 + 16 * (listedOrders r.stats).length + 8 * r.stats.events.length := by
  rw [recordBytes_eq r orders stuck, List.length_append, List.length_append, recordFields_length r cumulative deltas,
    recordOrders, recordEvents, flatten_length _ _ 16 fun j => orderFields_length .., flatten_length _ _ 8
      eventFields_length]
  omega

omit cumulative deltas in
theorem recordBytes_field (x : Nat × Nat × Nat) (hx : x ∈ fieldsFrom 0 (recordFields r)) :
    ((recordBytes r).drop x.1).take x.2.1 = leBytes x.2.1 x.2.2 := by
  rw [recordBytes_eq r orders stuck]
  exact fieldBytes_fields (recordFields r) [] _ 0 rfl x hx

/-- R120: the order entries stand after the fields, 16 bytes each. -/
theorem recordBytes_order (i j : Nat) (h : (listedOrders r.stats)[i]? = some j) :
    ∀ x ∈ fieldsFrom 0 (orderFields r.stats j (r.stats.orders.getD j {})),
      ((recordBytes r).drop (448 + 16 * i + x.1)).take x.2.1 = leBytes x.2.1 x.2.2 := by
  rw [recordBytes_eq r orders stuck]
  exact member_fields (fun j => orderFields r.stats j (r.stats.orders.getD j {})) 16
    (fun j => orderFields_length r.stats j _) _ _ 448 (recordFields_length r cumulative deltas) _ i j h

/-- R127: the event entries stand after the order entries, 8 bytes each. -/
theorem recordBytes_event (i : Nat) (e : EventEntry) (h : r.stats.events[i]? = some e) :
    ∀ x ∈ fieldsFrom 0 (eventFields e),
      ((recordBytes r).drop (448 + 16 * (listedOrders r.stats).length + 8 * i + x.1)).take x.2.1 =
        leBytes x.2.1 x.2.2 := by
  have before : (fieldBytes (recordFields r) ++ recordOrders r.stats).length =
      448 + 16 * (listedOrders r.stats).length := by
    rw [List.length_append, recordFields_length r cumulative deltas, recordOrders,
      flatten_length _ _ 16 fun j => orderFields_length ..]
  rw [recordBytes_eq r orders stuck, ← List.append_assoc, ← List.append_nil (recordEvents r.stats)]
  exact member_fields eventFields 8 eventFields_length _ [] _ before _ i e h

end Record

/-! ## The demand-close record (R135, R213) -/

/-- 11.6: the fields of a demand-close record before its entries. -/
def demandHeadFields (r : DemandRecord) : List (Nat × Nat) :=
  [(1, 2), (1, r.point), (2, 0), (4, r.generation.toNat), (8, r.seq.toNat), (8, r.endTime)]

/-- The entries of a demand-close record. -/
def demandEntries (r : DemandRecord) : List Byte :=
  pairBytes (fun e : DemandEntry => e.max) (fun e => e.seq.toNat) r.entries

theorem demandRecordBytes_eq (r : DemandRecord) :
    demandRecordBytes r = fieldBytes (demandHeadFields r) ++ demandEntries r ++ fieldBytes [(8, 0)] := by
  have reserved : zeros 2 = leBytes 2 0 := rfl
  have unused : zeros 8 = leBytes 8 0 := rfl
  simp only [demandRecordBytes, demandHeadFields, demandEntries, pairBytes, reserved, unused, fieldBytes_cons,
    fieldBytes_nil, List.append_nil, List.append_assoc]

theorem demandHeadFields_length (r : DemandRecord) : (fieldBytes (demandHeadFields r)).length = 24 := by
  rw [fieldBytes_length]
  rfl

section Demand

variable (r : DemandRecord) (h : r.entries.length = 8)
include h

theorem demandEntries_length : (fieldBytes (demandHeadFields r) ++ demandEntries r).length = 152 := by
  rw [List.length_append, demandHeadFields_length, demandEntries, pairBytes_length, h]

theorem demandRecordBytes_length : (demandRecordBytes r).length = 160 := by
  rw [demandRecordBytes_eq, List.length_append, demandEntries_length r h, fieldBytes_length]
  rfl

theorem demandRecordBytes_field (x : Nat × Nat × Nat) (hx : x ∈ fieldsFrom 0 (demandHeadFields r) ++ [(152, 8, 0)]) :
    ((demandRecordBytes r).drop x.1).take x.2.1 = leBytes x.2.1 x.2.2 := by
  rw [demandRecordBytes_eq]
  rcases List.mem_append.mp hx with head | unused
  · rw [List.append_assoc]
    exact fieldBytes_fields (demandHeadFields r) [] _ 0 rfl x head
  · rw [← List.append_nil (fieldBytes [(8, 0)])]
    exact fieldBytes_fields [(8, 0)] _ [] 152 (demandEntries_length r h) x unused

theorem demandRecordBytes_entry (i : Nat) (hi : i < 8) :
    ((demandRecordBytes r).drop (24 + 16 * i)).take 8 = leBytes 8 (r.entries.getD i {}).max ∧
      ((demandRecordBytes r).drop (32 + 16 * i)).take 8 = leBytes 8 (r.entries.getD i {}).seq.toNat := by
  rw [demandRecordBytes_eq]
  exact pairBytes_fields _ _ _ _ r.entries i 24 {} (demandHeadFields_length r) (h ▸ hi)

end Demand

/-! ## The statement -/

/-- Settles O43: the answers to a transit's accesses, its return, and the bytes of the page it writes. -/
theorem transitsWriteAPageOrReturn : Obligations.TransitsWriteAPageOrReturn := by
  refine ⟨fun s dt x h hx ht => ⟨fun hs => ?_, ownerWord_returns s dt x h hx ht, exec_pageBodyAnswered s dt x h hx ht,
    pageWrite_completes s dt x h hx ht⟩, fun q s x hx => (returnTransit_blocks q s x hx).1, fun f => rfl, ?_, ?_, ?_⟩
  · rw [exec_ownerWordAnswer_engine s dt x h hx ht hs]
    simp only [writeBody, elapse_filing, elapse_store, elapse_tick]
  · rintro f epoch seqNo len _ rfl
    refine ⟨headerBytes_length f epoch seqNo len, fileCauses f, firstSequence f, lastSequence f,
      fun i _ => fileCauses_bit f i, fun h => ⟨(firstSequence_least f h).1, (lastSequence_greatest f h).1⟩,
      fun r hr => ?_, fun x hx => headerBytes_field f epoch seqNo len x ?_⟩
    · have h := List.ne_nil_of_mem hr
      exact ⟨(firstSequence_least f h).2 r hr, (lastSequence_greatest f h).2 r hr⟩
    · simpa only [pageHeaderFields, fieldsFrom, Nat.reduceAdd] using hx
  · rintro r _ mean list bytes rfl hmean hlist point orders stuck cumulative deltas written
    obtain rfl : mean = fun sum n none => meanOr none sum n := by
      funext sum n none
      exact hmean sum n none
    obtain rfl : list = listedOrders r.stats := by
      rw [hlist, listedOrders]
      refine List.filter_congr fun j _ => ?_
      rw [listed_eq, point]
    rw [written]
    refine ⟨recordBytes_length r cumulative deltas orders stuck, fun x hx => ?_, ?_, ?_⟩
    · refine recordBytes_field r orders stuck x (mem_recordFields r cumulative deltas x ?_)
      simpa only [recordHeadFields, fieldsFrom, meanField, point, Nat.reduceAdd, List.cons_append, List.nil_append]
        using hx
    · rintro i j _ at' rfl x hx
      refine recordBytes_order r cumulative deltas orders stuck i j at' x ?_
      simpa only [orderFields, fieldsFrom, point, Nat.reduceAdd] using hx
    · rintro i e at' x hx
      exact recordBytes_event r cumulative deltas orders stuck i e at' x hx
  · rintro r _ h rfl
    refine ⟨demandRecordBytes_length r h, fun x hx => ?_⟩
    rcases List.mem_append.mp hx with hx | hx
    · exact demandRecordBytes_field r h x hx
    · obtain ⟨i, hi, hx⟩ := List.mem_flatMap.mp hx
      obtain ⟨max, seq⟩ := demandRecordBytes_entry r h i (List.mem_range.mp hi)
      rcases List.mem_pair.mp hx with rfl | rfl
      · exact max
      · exact seq

end Sys2Proof.Machine
end

section
/-! SUPPORT. The operations that leave what is in progress in the exchange area as it is while the exchange is FAULTED. -/

namespace Sys2Proof.Machine

/-! ## Composition -/

theorem faultedIdle_ite {p : Prop} [Decidable p] {a b s : State} (ha : faultedIdle a ↔ faultedIdle s)
    (hb : faultedIdle b ↔ faultedIdle s) : faultedIdle (if p then a else b) ↔ faultedIdle s := by
  split
  · exact ha
  · exact hb

/-- What each step of a fold leaves as it is, the fold leaves. -/
theorem faultedIdle_foldl {α : Type} (f : State → α → State) (h : ∀ s a, faultedIdle (f s a) ↔ faultedIdle s)
    (l : List α) (s : State) : faultedIdle (l.foldl f s) ↔ faultedIdle s :=
  foldl_keeps (fun t => faultedIdle t ↔ faultedIdle s) f (fun t a ht => (h t a).trans ht) l s Iff.rfl

/-! ## Shared operations -/

@[simp] theorem faultedIdle_request (c : IntCause) (s : State) : faultedIdle (request c s) ↔ faultedIdle s := Iff.rfl

@[simp] theorem faultedIdle_requestIf (b : Bool) (c : IntCause) (s : State) :
    faultedIdle (requestIf b c s) ↔ faultedIdle s := by cases b <;> rfl

@[simp] theorem faultedIdle_elapse (n : Nat) (s : State) : faultedIdle (elapse n s) ↔ faultedIdle s := by
  simp [faultedIdle]

@[simp] theorem faultedIdle_waitUntil (t : Nat) (s : State) : faultedIdle (waitUntil t s) ↔ faultedIdle s :=
  faultedIdle_elapse _ _

@[simp] theorem faultedIdle_pushDue (ds : List Due) (s : State) : faultedIdle (pushDue ds s) ↔ faultedIdle s := Iff.rfl

@[simp] theorem faultedIdle_modEvent (f : Event → Event) (s : State) : faultedIdle (modEvent f s) ↔ faultedIdle s :=
  Iff.rfl

@[simp] theorem faultedIdle_finishLater (f : Finishing) (s : State) : faultedIdle (finishLater f s) ↔ faultedIdle s :=
  Iff.rfl

@[simp] theorem faultedIdle_addCause (c : Cause) (s : State) : faultedIdle (addCause c s) ↔ faultedIdle s := Iff.rfl

@[simp] theorem faultedIdle_setLink (l : Fin 4) (k : Link) (s : State) : faultedIdle (s.setLink l k) ↔ faultedIdle s :=
  Iff.rfl

@[simp] theorem faultedIdle_setChannel (ch : Nat) (c : Channel) (s : State) :
    faultedIdle (s.setChannel ch c) ↔ faultedIdle s := Iff.rfl

@[simp] theorem faultedIdle_setMonitor (m : Fin 4) (k : Monitor) (s : State) :
    faultedIdle (s.setMonitor m k) ↔ faultedIdle s := Iff.rfl

theorem exchange_online_of_canAccess {s : State} (h : canAccess s = true) : s.port.exchange = .online :=
  ((canAccess_iff s).mp h).1

/-- While the exchange is ONLINE anything may be in progress. -/
theorem faultedIdle_of_online {s : State} (h : s.port.exchange = .online) : faultedIdle s := by
  simp [faultedIdle, h]

/-- What an operation does where it can reach the exchange area, it does while ONLINE. -/
theorem faultedIdle_of_canAccess {s t : State} (hc : canAccess s = true) (ht : t.port.exchange = s.port.exchange) :
    faultedIdle t ↔ faultedIdle s :=
  have online := exchange_online_of_canAccess hc
  ⟨fun _ => faultedIdle_of_online online, fun _ => faultedIdle_of_online (ht.trans online)⟩

/-- R165: no write of the completion queue is issued while FAULTED. -/
@[simp] theorem faultedIdle_pump (s : State) : faultedIdle (pump s) ↔ faultedIdle s := by
  unfold pump
  split
  · next hc => exact faultedIdle_of_canAccess (by simp_all) rfl
  · rfl

@[simp] theorem faultedIdle_complete (e : Fin 16) (failed : Bool) (code : ResultCode) (value : Word64) (time : Nat)
    (s : State) : faultedIdle (complete e failed code value time s) ↔ faultedIdle s := by
  unfold complete
  split
  · rfl
  · exact faultedIdle_ite Iff.rfl (faultedIdle_pump _)

@[simp] theorem faultedIdle_completeOk (e : Fin 16) (value : Word64) (time : Nat) (s : State) :
    faultedIdle (completeOk e value time s) ↔ faultedIdle s := faultedIdle_complete ..

@[simp] theorem faultedIdle_completeFail (e : Fin 16) (code : ResultCode) (time : Nat) (s : State) :
    faultedIdle (completeFail e code time s) ↔ faultedIdle s := faultedIdle_complete ..

theorem faultedIdle_onlyIf (b : State → Bool) (f : State → State) (s : State) (h : faultedIdle (f s) ↔ faultedIdle s) :
    faultedIdle (onlyIf b f s) ↔ faultedIdle s := faultedIdle_ite h Iff.rfl

/-! ## Channels -/

@[simp] theorem faultedIdle_requestOffset (ch : Nat) (v : Int) (idle late : Bool) (s : State) :
    faultedIdle (requestOffset ch v idle late s) ↔ faultedIdle s := by
  obtain ⟨c, h, -⟩ := requestOffset_spec ch v idle late s
  rw [h, faultedIdle_setChannel]

@[simp] theorem faultedIdle_offsetEffect (ch : Fin 28) (s : State) : faultedIdle (offsetEffect ch s) ↔ faultedIdle s := by
  unfold offsetEffect
  split <;> rfl

@[simp] theorem faultedIdle_failCalibration (code : ResultCode) (ch : Nat) (s : State) :
    faultedIdle (failCalibration code ch s) ↔ faultedIdle s := by
  unfold failCalibration
  split <;> simp

@[simp] theorem faultedIdle_failCalibrationsOf (l : Fin 4) (s : State) :
    faultedIdle (failCalibrationsOf l s) ↔ faultedIdle s :=
  faultedIdle_foldl _ (fun _ _ => faultedIdle_failCalibration ..) _ _

@[simp] theorem faultedIdle_calibrationCheck (ch : Fin 28) (s : State) :
    faultedIdle (calibrationCheck ch s) ↔ faultedIdle s := by
  unfold calibrationCheck
  repeat' split
  all_goals simp

@[simp] theorem faultedIdle_calibrationStep (ch number n rms floor : Nat) (sum : Int) (s : State) :
    faultedIdle (calibrationStep ch number n rms floor sum s) ↔ faultedIdle s := by
  unfold calibrationStep
  repeat' split
  all_goals simp

@[simp] theorem faultedIdle_clipStep (ch : Fin 28) (clipped : Bool) (s : State) :
    faultedIdle (clipStep ch clipped s) ↔ faultedIdle s :=
  faultedIdle_ite (by simp [enterStuck]) (faultedIdle_ite (by simp [leaveStuck]) Iff.rfl)

@[simp] theorem faultedIdle_idleStep (ch : Fin 28) (isIdle : Bool) (mean : Int) (s : State) :
    faultedIdle (idleStep ch isIdle mean s) ↔ faultedIdle s := faultedIdle_ite (by simp) Iff.rfl

/-! ## Links -/

@[simp] theorem faultedIdle_dropLink (l : Fin 4) (reason : DropReason) (s : State) :
    faultedIdle (dropLink l reason s) ↔ faultedIdle s := by
  simp [dropLink]

@[simp] theorem faultedIdle_seekingFrame (l : Fin 4) (bytes : List Byte) (s : State) :
    faultedIdle (seekingFrame l bytes s) ↔ faultedIdle s :=
  faultedIdle_ite Iff.rfl (faultedIdle_ite Iff.rfl (faultedIdle_ite Iff.rfl (faultedIdle_ite Iff.rfl Iff.rfl)))

@[simp] theorem faultedIdle_runningFrame (l : Fin 4) (bytes : List Byte) (s : State) :
    faultedIdle (runningFrame l bytes s) ↔ faultedIdle s :=
  have framing : faultedIdle (framingErrorFrame l s) ↔ faultedIdle s :=
    faultedIdle_ite (faultedIdle_ite Iff.rfl Iff.rfl) Iff.rfl
  have accept : faultedIdle (acceptFrame l (decodeFrame bytes) bytes s) ↔ faultedIdle s :=
    faultedIdle_ite Iff.rfl (faultedIdle_ite Iff.rfl Iff.rfl)
  faultedIdle_ite framing (faultedIdle_ite Iff.rfl accept)

@[simp] theorem faultedIdle_frameStep (l : Fin 4) (bytes : List Byte) (s : State) :
    faultedIdle (frameStep l bytes s) ↔ faultedIdle s := by
  unfold frameStep
  split <;> simp

@[simp] theorem faultedIdle_enterRunning (l : Fin 4) (bytes : List Byte) (s : State) :
    faultedIdle (enterRunning l bytes s) ↔ faultedIdle s := by
  unfold enterRunning
  simp only
  split <;> simp

@[simp] theorem faultedIdle_strobeLink (l : Fin 4) (s : State) : faultedIdle (strobeLink l s) ↔ faultedIdle s := by
  unfold strobeLink
  simp only
  split
  · rfl
  · simp
  · exact faultedIdle_ite Iff.rfl Iff.rfl

@[simp] theorem faultedIdle_strobeStep (s : State) : faultedIdle (strobeStep s) ↔ faultedIdle s := by
  simp only [strobeStep, allLinks, List.foldr, faultedIdle_strobeLink]
  exact faultedIdle_waitUntil (strobeAt s.tb (s.tb.strobe + 1)) s

@[simp] theorem faultedIdle_finishLink (l : Fin 4) (s : State) : faultedIdle (finishLink l s) ↔ faultedIdle s := by
  unfold finishLink
  simp only
  split
  · exact faultedIdle_ite Iff.rfl Iff.rfl
  · rfl

@[simp] theorem faultedIdle_failRestart (l : Fin 4) (code : ResultCode) (s : State) :
    faultedIdle (failRestart l code s) ↔ faultedIdle s := by
  unfold failRestart
  split <;> simp

@[simp] theorem faultedIdle_restartCheck (l : Fin 4) (s : State) : faultedIdle (restartCheck l s) ↔ faultedIdle s :=
  faultedIdle_ite (by simp) Iff.rfl

@[simp] theorem faultedIdle_restartLink (l : Fin 4) (e : Fin 16) (s : State) :
    faultedIdle (restartLink l e s) ↔ faultedIdle s := faultedIdle_ite (by simp) Iff.rfl

/-! ## Intervals, accounts and statistics -/

@[simp] theorem faultedIdle_lockStep (s : State) : faultedIdle (lockStep s) ↔ faultedIdle s := faultedIdle_requestIf ..

@[simp] theorem faultedIdle_takeTariffStep (s : State) : faultedIdle (takeTariffStep s) ↔ faultedIdle s :=
  faultedIdle_ite Iff.rfl Iff.rfl

@[simp] theorem faultedIdle_takeIntervalEnd (s : State) : faultedIdle (takeIntervalEnd s) ↔ faultedIdle s := by
  unfold takeIntervalEnd
  split
  · exact faultedIdle_ite Iff.rfl Iff.rfl
  · rfl

@[simp] theorem faultedIdle_takeTimeout (s : State) : faultedIdle (takeTimeout s) ↔ faultedIdle s := Iff.rfl

@[simp] theorem faultedIdle_applyDemandReset (s : State) : faultedIdle (applyDemandReset s) ↔ faultedIdle s :=
  faultedIdle_foldl _ (fun _ _ => faultedIdle_completeOk ..) _ _

@[simp] theorem faultedIdle_openInterval (afterStep : Bool) (s : State) :
    faultedIdle (openInterval afterStep s) ↔ faultedIdle s := by
  unfold openInterval
  split <;> rfl

@[simp] theorem faultedIdle_passClose (cs : CauseSet) (t : Nat) (s : State) :
    faultedIdle (passClose cs t s) ↔ faultedIdle s := by
  unfold passClose
  split <;> rfl

@[simp] theorem faultedIdle_decideClose (s : State) : faultedIdle (decideClose s) ↔ faultedIdle s := by
  refine faultedIdle_ite Iff.rfl ?_
  split <;> rfl

@[simp] theorem faultedIdle_closeEvent (s : State) : faultedIdle (closeEvent s) ↔ faultedIdle s := by
  unfold closeEvent
  split
  · simp only
    split_ifs <;> simp [commitTariff] <;> rfl
  · rfl

@[simp] theorem faultedIdle_statOpen (s : State) : faultedIdle (statOpen s) ↔ faultedIdle s := by
  unfold statOpen
  split <;> rfl

@[simp] theorem faultedIdle_statStart (s : State) : faultedIdle (statStart s) ↔ faultedIdle s :=
  faultedIdle_ite (by simp) Iff.rfl

@[simp] theorem faultedIdle_settleInterval (s : State) : faultedIdle (settleInterval s) ↔ faultedIdle s := by
  have tariff : faultedIdle (settleTariff s) ↔ faultedIdle s := by
    unfold settleTariff
    simp only
    split
    · exact faultedIdle_ite (by simp only [faultedIdle_openInterval]; rfl) Iff.rfl
    · rfl
  unfold settleInterval
  simp only
  split
  · split
    · exact (faultedIdle_statStart _).trans tariff
    · exact tariff
  · exact tariff

@[simp] theorem faultedIdle_monitorStep (m : Fin 4) (value : Nat) (eligible : Bool) (point index : Nat) (s : State) :
    faultedIdle (monitorStep m value eligible point index s) ↔ faultedIdle s := by
  unfold monitorStep
  simp only
  repeat' split
  all_goals rfl

@[simp] theorem faultedIdle_monitorRestart (m : Fin 4) (s : State) :
    faultedIdle (monitorRestart m s) ↔ faultedIdle s := faultedIdle_ite Iff.rfl Iff.rfl

@[simp] theorem faultedIdle_monitorEffect (s : State) : faultedIdle (monitorEffect s) ↔ faultedIdle s :=
  faultedIdle_ite Iff.rfl Iff.rfl

@[simp] theorem faultedIdle_statReset (s : State) : faultedIdle (statReset s) ↔ faultedIdle s := Iff.rfl

@[simp] theorem faultedIdle_acctFinishStep (s : State) : faultedIdle (acctFinishStep s) ↔ faultedIdle s := by
  obtain ⟨a, f, d, h⟩ := acctFinishStep_spec s
  rw [h]
  rfl

@[simp] theorem faultedIdle_statFinishStep (s : State) : faultedIdle (statFinishStep s) ↔ faultedIdle s := by
  obtain ⟨a, f, d, h⟩ := statFinishStep_spec s
  rw [h]
  rfl

@[simp] theorem faultedIdle_discardWindow (s : State) : faultedIdle (discardWindow s) ↔ faultedIdle s := by
  obtain ⟨accs, h⟩ := discardWindow_spec s
  rw [h]
  rfl

/-! ## Files -/

@[simp] theorem faultedIdle_reportFile (f : IntervalFile) (s : State) : faultedIdle (reportFile f s) ↔ faultedIdle s :=
  faultedIdle_foldl reportClose (fun _ _ => faultedIdle_foldl _ (fun _ _ => faultedIdle_completeOk ..) _ _) _ _

/-- R141: a transit begins only where the exchange area can be reached. -/
@[simp] theorem faultedIdle_placeFile (f : IntervalFile) (s : State) : faultedIdle (placeFile f s) ↔ faultedIdle s := by
  unfold placeFile
  split
  · exact faultedIdle_reportFile ..
  · split
    · next hc => exact faultedIdle_of_canAccess (by simp_all) rfl
    · exact faultedIdle_reportFile ..

/-- R142: a held file is retried only where the exchange area can be reached. -/
@[simp] theorem faultedIdle_retryHeld (s : State) : faultedIdle (onlyIf canRetry retryHeld s) ↔ faultedIdle s := by
  unfold onlyIf
  split
  · next hc =>
    have reached : canAccess s = true := by simp_all [canRetry]
    refine faultedIdle_of_canAccess reached ?_
    unfold retryHeld
    split <;> rfl
  · rfl

@[simp] theorem faultedIdle_changeLayout (s : State) : faultedIdle (changeLayout s) ↔ faultedIdle s :=
  faultedIdle_ite Iff.rfl Iff.rfl

@[simp] theorem faultedIdle_completeFile (seq : Word64) (s : State) :
    faultedIdle (completeFile seq s) ↔ faultedIdle s := by
  unfold completeFile
  split
  · split
    · exact faultedIdle_placeFile ..
    · rfl
  · rfl

/-! ## The sync line -/

@[simp] theorem faultedIdle_endBurst (s : State) : faultedIdle (endBurst s) ↔ faultedIdle s := by
  obtain ⟨ic, cs, event, h, -⟩ := burstAction_spec s.ic.decoder.pulses (modDecoder (fun d => { d with pulses := 0 }) s)
  rw [endBurst, h]
  rfl

theorem faultedIdle_overdue (at? : Option Nat) (f : State → State) (s : State)
    (h : faultedIdle (f s) ↔ faultedIdle s) : faultedIdle (overdue at? f s) ↔ faultedIdle s := by
  unfold overdue
  split
  · exact faultedIdle_ite h Iff.rfl
  · rfl

@[simp] theorem faultedIdle_lineFall (s : State) : faultedIdle (lineFall s) ↔ faultedIdle s :=
  faultedIdle_ite Iff.rfl ((faultedIdle_overdue _ _ _ (faultedIdle_endBurst _)).trans (faultedIdle_overdue _ _ _ Iff.rfl))

@[simp] theorem faultedIdle_judgeLow (low : Nat) (s : State) : faultedIdle (judgeLow low s) ↔ faultedIdle s :=
  faultedIdle_ite (faultedIdle_overdue _ _ _ (faultedIdle_endBurst _)) Iff.rfl

@[simp] theorem faultedIdle_lineRise (s : State) : faultedIdle (lineRise s) ↔ faultedIdle s := by
  have declared : faultedIdle (overdue (stuckLowAt s.ic.decoder) stuckLow s) ↔ faultedIdle s :=
    faultedIdle_overdue _ _ _ Iff.rfl
  refine faultedIdle_ite Iff.rfl ?_
  simp only
  split
  · exact faultedIdle_ite declared ((faultedIdle_judgeLow ..).trans declared)
  · exact declared

/-! ## Configurations and parameters -/

@[simp] theorem faultedIdle_activate (cfg : Cfg) (e : Fin 16) (s : State) :
    faultedIdle (activate cfg e s) ↔ faultedIdle s := by
  have clock : ∀ t, faultedIdle (activateClock cfg t) ↔ faultedIdle t := fun _ => faultedIdle_ite Iff.rfl Iff.rfl
  have reference : ∀ t, faultedIdle (activateReference s.store.active cfg t) ↔ faultedIdle t := fun _ =>
    faultedIdle_ite Iff.rfl Iff.rfl
  have layout : ∀ t, faultedIdle (activateLayout s.store.active cfg t) ↔ faultedIdle t := fun _ =>
    faultedIdle_ite Iff.rfl (faultedIdle_changeLayout _)
  have tariff : ∀ t, faultedIdle (activateTariff t) ↔ faultedIdle t := fun _ => Iff.rfl
  have offsets : ∀ t, faultedIdle ((List.range 28).foldl activateOffset t) ↔ faultedIdle t :=
    faultedIdle_foldl _ (fun _ _ => faultedIdle_setChannel ..) _
  simp only [activate, faultedIdle_completeOk, tariff, layout, reference, clock, offsets]
  rfl

@[simp] theorem faultedIdle_judgeBlock (block : List Byte) (e : Fin 16) (s : State) :
    faultedIdle (judgeBlock block e s) ↔ faultedIdle s := by
  have pending : ∀ cfg, faultedIdle (makePending cfg e s) ↔ faultedIdle s := fun cfg => by
    unfold makePending
    simp only
    split
    · exact faultedIdle_complete ..
    · rfl
  unfold judgeBlock
  simp only
  repeat' split
  all_goals simp [pending]

@[simp] theorem faultedIdle_completeRead (e : Fin 16) (n : Nat) (s : State) :
    faultedIdle (completeRead e n s) ↔ faultedIdle s := by
  unfold completeRead
  split <;> simp

@[simp] theorem faultedIdle_readParam (e : Fin 16) (n : Nat) (s : State) :
    faultedIdle (readParam e n s) ↔ faultedIdle s := by
  have offset : faultedIdle (readOffset e (n - 224) s) ↔ faultedIdle s := faultedIdle_ite Iff.rfl (by simp)
  exact faultedIdle_ite (by simp) (faultedIdle_ite offset Iff.rfl)

@[simp] theorem faultedIdle_writeParam (e : Fin 16) (n value : Nat) (s : State) :
    faultedIdle (writeParam e n value s) ↔ faultedIdle s :=
  faultedIdle_ite (by simp [writeOffset])
    (faultedIdle_ite (by simp [writeSetting]) (faultedIdle_ite (by simp) (by simp)))

/-! ## Orders -/

@[simp] theorem faultedIdle_pauseEvent (s : State) : faultedIdle (pauseEvent s) ↔ faultedIdle s := Iff.rfl

@[simp] theorem faultedIdle_resumeEvent (s : State) : faultedIdle (resumeEvent s) ↔ faultedIdle s := by
  unfold resumeEvent
  split <;> rfl

@[simp] theorem faultedIdle_takeOrders (table : List Byte) (s : State) :
    faultedIdle (takeOrders table s) ↔ faultedIdle s := by
  have reset : faultedIdle (resetCompletions s) ↔ faultedIdle s :=
    faultedIdle_ite (faultedIdle_foldl _ (fun _ _ => faultedIdle_completeFail ..) _ s) Iff.rfl
  refine (faultedIdle_foldl (takeEntry table) (fun t e => ?_) _ _).trans reset
  exact faultedIdle_pump _

/-- R166: a block read is issued only where the exchange area can be reached. -/
theorem faultedIdle_orderLoadConfig (f : InFlight) (s : State) : faultedIdle (orderLoadConfig f s) ↔ faultedIdle s := by
  unfold orderLoadConfig
  split
  · next hc => exact faultedIdle_of_canAccess hc rfl
  · simp

theorem faultedIdle_orderSetTime (f : InFlight) (s : State) : faultedIdle (orderSetTime f s) ↔ faultedIdle s := by
  have load : ∀ time offset t, faultedIdle (loadClock time offset t) ↔ faultedIdle t := fun _ _ _ => by
    unfold loadClock
    split <;> rfl
  exact faultedIdle_ite (by simp) (by simp [load])

/-- R84: a SNAPSHOT whose capture waits has no write. -/
theorem faultedIdle_orderSnapshot (f : InFlight) (s : State) : faultedIdle (orderSnapshot f s) ↔ faultedIdle s := by
  refine faultedIdle_ite (by simp) (faultedIdle_ite (by simp) ?_)
  simp [faultedIdle, finishLater, or_imp, forall_and]

@[simp] theorem faultedIdle_handOver (e : Fin 16) (s : State) : faultedIdle (handOver e s) ↔ faultedIdle s := by
  unfold handOver
  split
  · next f _ =>
    have close : faultedIdle (orderCloseInterval f s) ↔ faultedIdle s := faultedIdle_ite Iff.rfl (by simp)
    have demand : faultedIdle (orderDemandReset f s) ↔ faultedIdle s := faultedIdle_ite Iff.rfl (by simp)
    have tariff : faultedIdle (orderTariffSet f s) ↔ faultedIdle s :=
      faultedIdle_ite Iff.rfl (faultedIdle_ite Iff.rfl (by simp))
    have calibrate : faultedIdle (orderCalibrate f s) ↔ faultedIdle s :=
      faultedIdle_ite (by simp) (faultedIdle_ite (by simp) (faultedIdle_ite (by simp) (faultedIdle_ite (by simp) Iff.rfl)))
    have restart : faultedIdle (orderLinkRestart f s) ↔ faultedIdle s :=
      faultedIdle_ite (by simp) (faultedIdle_ite (by simp) (faultedIdle_ite (by simp) (by simp)))
    unfold carryOut orderParamRead orderParamWrite
    simp only [apply_ite faultedIdle, close, demand, tariff, calibrate, restart, faultedIdle_orderLoadConfig,
      faultedIdle_orderSetTime, faultedIdle_orderSnapshot, faultedIdle_readParam, faultedIdle_writeParam,
      faultedIdle_completeFail, ite_self]
  · rfl

/-! ## The exchange port -/

/-- R158: a scan is made only where the exchange area can be reached. -/
@[simp] theorem faultedIdle_beginScan (s : State) : faultedIdle (beginScan s) ↔ faultedIdle s := by
  unfold beginScan
  split
  · next hc => exact faultedIdle_of_canAccess hc rfl
  · rfl

/-- R206: a header block is written only where the exchange area can be reached. -/
@[simp] theorem faultedIdle_beginHeader (s : State) : faultedIdle (beginHeader s) ↔ faultedIdle s := by
  unfold beginHeader
  split
  · next hc => exact faultedIdle_of_canAccess hc rfl
  · rfl

@[simp] theorem faultedIdle_writeRun (run : Bool) (s : State) : faultedIdle (writeRun run s) ↔ faultedIdle s := by
  obtain ⟨-, r, m, refused, cs, h, -⟩ := writeRun_spec run s
  rw [h]
  rfl

@[simp] theorem faultedIdle_writeExbase (hi : Bool) (value : Word32) (s : State) :
    faultedIdle (writeExbase hi value s) ↔ faultedIdle s := faultedIdle_ite (faultedIdle_pump _) Iff.rfl

/-! ## Windows and events -/

theorem faultedIdle_forPositions (specs : List PointSpectra) (positions : List Nat)
    (f : PointSpectra → Nat → State → State) (h : ∀ p pos s, faultedIdle (f p pos s) ↔ faultedIdle s) (s : State) :
    faultedIdle (forPositions specs positions f s) ↔ faultedIdle s :=
  faultedIdle_foldl _ (fun s p => faultedIdle_foldl _ (fun s pos => h p pos s) positions s) specs s

@[simp] theorem faultedIdle_decompose (s : State) : faultedIdle (decompose s) ↔ faultedIdle s := by
  have rms : ∀ specs t, faultedIdle (forPositions specs (List.range 7) takeRms t) ↔ faultedIdle t :=
    fun specs => faultedIdle_forPositions specs _ _ fun _ _ _ => Iff.rfl
  have calibrations : ∀ d specs t,
      faultedIdle (forPositions specs (List.range 7) (takeCalibration d) t) ↔ faultedIdle t :=
    fun d specs => faultedIdle_forPositions specs _ _ fun _ _ _ => faultedIdle_calibrationStep ..
  have statistics : ∀ cfg results t, faultedIdle (statTakeWindow cfg results t) ↔ faultedIdle t :=
    fun cfg results => faultedIdle_foldl
      (fun (t : State) (r : WinResult) => modAcc r.point (takeResult t.stats.limits cfg r) t) (fun _ _ => Iff.rfl) results
  have accounts : ∀ d results t, faultedIdle (acctTakeWindow d results t) ↔ faultedIdle t := fun _ _ _ => Iff.rfl
  have verdict : ∀ d results t, faultedIdle (takeVerdict d results t) ↔ faultedIdle t := fun _ _ _ => by
    unfold takeVerdict
    split <;> rfl
  unfold decompose
  split
  · rfl
  · simp only [faultedIdle_pushDue, calibrations, statistics, accounts, verdict, rms]
    rfl

@[simp] theorem faultedIdle_haltRun (s : State) : faultedIdle (haltRun s) ↔ faultedIdle s := by
  obtain ⟨links, cs, h, -⟩ := haltRun_eq s
  have failed (es : List (Fin 16)) : faultedIdle (failInTurn .badState (eventTime s) es s) ↔ faultedIdle s :=
    faultedIdle_foldl _ (fun _ _ => faultedIdle_complete ..) es s
  rw [h, ← failed (allLinks.flatMap fun l => restartEntry l s ++ calibrationEntries l s), failInTurn_only]
  rfl

@[simp] theorem faultedIdle_closeWindow (s : State) : faultedIdle (closeWindow s) ↔ faultedIdle s := by
  unfold closeWindow
  split
  · rfl
  · simp only [faultedIdle_pushDue]
    exact (faultedIdle_ite (faultedIdle_haltRun _) Iff.rfl).trans Iff.rfl

@[simp] theorem faultedIdle_tickInstant (s : State) : faultedIdle (tickInstant s) ↔ faultedIdle s :=
  faultedIdle_ite Iff.rfl Iff.rfl

@[simp] theorem faultedIdle_endEvent (s : State) : faultedIdle (endEvent s) ↔ faultedIdle s := by
  unfold endEvent
  split
  · rfl
  · simp only
    split <;> rfl

@[simp] theorem faultedIdle_orDefer (d : Due) (s : State) : faultedIdle (orDefer d s) ↔ faultedIdle s := by
  unfold orDefer
  split <;> rfl

@[simp] theorem faultedIdle_completeDecomposition (s : State) :
    faultedIdle (completeDecomposition s) ↔ faultedIdle s := faultedIdle_ite (by simp) Iff.rfl

end Sys2Proof.Machine
end

section
/-! PROOF. While the exchange is FAULTED nothing is in progress in the exchange area (O60). -/

namespace Sys2Proof.Machine

/-! ## What is in progress is in progress while ONLINE -/

section Busy

variable {s : State} (h : faultedIdle s)
include h

/-- The exchange is ONLINE or nothing is in progress in the exchange area. -/
theorem faultedIdle_cases : s.port.exchange = .online ∨ s.port.scan = none ∧ s.port.header = none ∧
    s.port.configRead = none ∧ (∀ p ∈ s.port.snapshots, p.image = none) ∧ s.filing.transit = none ∧
    s.orders.head = none := by
  cases hx : s.port.exchange with
  | online => exact .inl rfl
  | faulted => exact .inr (h hx)

theorem online_of_header {w : HeaderWrite} (hw : s.port.header = some w) : s.port.exchange = .online :=
  (faultedIdle_cases h).resolve_right fun ⟨_, free, _⟩ => by simp [hw] at free

theorem online_of_transit {x : Transit} (hx : s.filing.transit = some x) : s.port.exchange = .online :=
  (faultedIdle_cases h).resolve_right fun ⟨_, _, _, _, free, _⟩ => by simp [hx] at free

/-! ## Ends of operations -/

theorem faultedIdle_endScan : faultedIdle { s with port := { s.port with scan := none } } := fun hx =>
  ⟨rfl, (h hx).2⟩

theorem faultedIdle_endHeader : faultedIdle { s with port := { s.port with header := none } } := fun hx =>
  have ⟨scan, _, rest⟩ := h hx
  ⟨scan, rfl, rest⟩

theorem faultedIdle_endConfigRead : faultedIdle { s with port := { s.port with configRead := none } } := fun hx =>
  have ⟨scan, header, _, rest⟩ := h hx
  ⟨scan, header, rfl, rest⟩

theorem faultedIdle_setSnapshots (ps : List Snapshot)
    (hp : (∀ p ∈ s.port.snapshots, p.image = none) → ∀ p ∈ ps, p.image = none) :
    faultedIdle { s with port := { s.port with snapshots := ps } } := fun hx =>
  have ⟨scan, header, read, images, rest⟩ := h hx
  ⟨scan, header, read, hp images, rest⟩

theorem faultedIdle_endTransit (g : Filing) (hg : g.transit = none) : faultedIdle { s with filing := g } := fun hx =>
  have ⟨scan, header, read, images, _, head⟩ := h hx
  ⟨scan, header, read, images, hg, head⟩

theorem faultedIdle_endWrite (o : OrderUnit) (ho : o.head = none) : faultedIdle { s with orders := o } := fun hx =>
  have ⟨scan, header, read, images, transit, _⟩ := h hx
  ⟨scan, header, read, images, transit, ho⟩

/-! ## Snapshots -/

/-- R84, R86: an image is captured only while ONLINE. -/
theorem faultedIdle_captureSnapshot (e : Fin 16) : faultedIdle (captureSnapshot e s) := by
  unfold captureSnapshot
  split
  · split
    · next hx => exact faultedIdle_of_online hx
    · rw [faultedIdle_completeFail]
      exact faultedIdle_setSnapshots h _ fun images p hp => images p (List.mem_of_mem_filter hp)
  · exact h

theorem faultedIdle_fixHead (e : Fin 16) : faultedIdle (fixHead e s) := by
  refine faultedIdle_setSnapshots h _ fun images p hp => ?_
  obtain ⟨q, hq, rfl⟩ := List.mem_map.mp hp
  rw [apply_ite Snapshot.image]
  exact (ite_self _).trans (images q hq)

theorem faultedIdle_finishOrder (f : Finishing) : faultedIdle (finishOrder s f) := by
  cases f with
  | tariff e => exact (faultedIdle_completeOk ..).mpr h
  | read e n => exact (faultedIdle_completeRead ..).mpr h
  | offset e ch stored => exact (faultedIdle_completeOk ..).mpr h
  | image e =>
    show faultedIdle (if captureWaits (fixHead e s) then fixHead e s else captureSnapshot e (fixHead e s))
    split
    · exact faultedIdle_fixHead h e
    · exact faultedIdle_captureSnapshot (faultedIdle_fixHead h e) e

theorem faultedIdle_finishOrders : faultedIdle (finishOrders s) := by
  unfold finishOrders
  split
  · exact foldl_keeps faultedIdle finishOrder (fun _ f ht => faultedIdle_finishOrder ht f) _ _ h
  · exact h

theorem faultedIdle_imageWritten (e : Fin 16) : faultedIdle (imageWritten e s) := by
  unfold imageWritten
  split
  · rw [faultedIdle_completeOk]
    exact faultedIdle_setSnapshots h _ fun images p hp => images p (List.mem_of_mem_filter hp)
  · exact h

/-! ## Answers -/

theorem faultedIdle_scanAnswered (table : List Byte) : faultedIdle (scanAnswered table s) := by
  unfold scanAnswered
  split
  · split
    · rw [faultedIdle_pushDue, faultedIdle_resumeEvent]
      exact faultedIdle_endScan h
    · exact h
  · exact h

theorem faultedIdle_blockAnswered (block : List Byte) : faultedIdle (blockAnswered block s) := by
  unfold blockAnswered
  split
  · split
    · rw [faultedIdle_judgeBlock, faultedIdle_resumeEvent]
      exact faultedIdle_endConfigRead h
    · exact h
  · exact h

/-- R164: the write in progress is over, and the next one is issued only where the exchange area can be reached. -/
theorem faultedIdle_popQueue : faultedIdle (popQueue s) :=
  (faultedIdle_pump _).mpr (faultedIdle_endWrite h _ rfl)

theorem faultedIdle_takenAnswered : faultedIdle (takenAnswered s) := by
  unfold takenAnswered
  split
  · split
    · exact faultedIdle_popQueue h
    · exact h
  · exact h

theorem faultedIdle_resultAnswered : faultedIdle (resultAnswered s) := by
  unfold resultAnswered
  split
  · split
    · exact (faultedIdle_pump _).mpr (faultedIdle_endWrite h _ rfl)
    · exact h
  · exact h

theorem faultedIdle_delivered : faultedIdle (delivered s) := by
  unfold delivered
  split
  · split
    · refine faultedIdle_popQueue ?_
      exact h
    · exact h
  · exact h

theorem faultedIdle_headerFieldsAnswer : faultedIdle (headerFieldsAnswer s) := by
  unfold headerFieldsAnswer
  split
  · next w hw =>
    split
    · have online := online_of_header h hw
      exact faultedIdle_of_online online
    · exact h
  · exact h

theorem faultedIdle_updateCountAnswer : faultedIdle (updateCountAnswer s) := by
  unfold updateCountAnswer
  split
  · split
    · exact faultedIdle_endHeader h
    · exact h
  · exact h

theorem faultedIdle_returnTransit (q : Bool) : faultedIdle (returnTransit q s) := by
  unfold returnTransit
  split
  · exact h
  · simp only [faultedIdle_requestIf, faultedIdle_reportFile]
    exact faultedIdle_endTransit h _ rfl

theorem faultedIdle_ownerAnswer (word : Word32) : faultedIdle (ownerAnswer word s) := by
  unfold ownerAnswer
  split
  · next x hx =>
    split
    · split
      · have online := online_of_transit h hx
        exact faultedIdle_of_online online
      · exact faultedIdle_returnTransit h false
    · exact h
  · exact h

theorem faultedIdle_bodyAnswer : faultedIdle (bodyAnswer s) := by
  unfold bodyAnswer
  split
  · next x hx =>
    split
    · have online := online_of_transit h hx
      exact faultedIdle_of_online online
    · exact h
  · exact h

theorem faultedIdle_pageComplete : faultedIdle (pageComplete s) := by
  unfold pageComplete
  split
  · split
    · simp only [faultedIdle_reportFile]
      split
      · exact faultedIdle_endTransit h _ rfl
      · exact faultedIdle_endTransit h _ rfl
    · exact h
  · exact h

/-! ## RESUME (R203) and the soft reset (R177, R208) -/

theorem faultedIdle_writeControl (run resume : Bool) : faultedIdle (writeControl run resume s) := by
  have wrote : faultedIdle (writeRun run s) := (faultedIdle_writeRun run s).mpr h
  unfold writeControl
  split
  · unfold resumeExchange
    split
    · exact (faultedIdle_pump _).mpr (faultedIdle_of_online rfl)
    · exact wrote
  · exact wrote

theorem faultedIdle_abandonReads : faultedIdle (abandonReads s) := by
  have ended : faultedIdle { s with port := { s.port with scan := none, configRead := none } } :=
    faultedIdle_endConfigRead (faultedIdle_endScan h)
  unfold abandonReads
  simp only
  split
  · exact (faultedIdle_resumeEvent _).mpr ended
  · exact ended

theorem faultedIdle_softBlocks : faultedIdle (softBlocks s) := by
  have orders : faultedIdle (softOrders s) :=
    faultedIdle_setSnapshots (faultedIdle_endWrite h { s.orders with head := none } rfl) [] (by simp)
  have closed : faultedIdle (softClose (discardWindow (returnTransit true (softOrders s)))) := by
    rw [softClose, faultedIdle_passClose, faultedIdle_discardWindow]
    exact faultedIdle_returnTransit orders true
  exact (faultedIdle_pump _).mpr (faultedIdle_endHeader closed)

end Busy

/-! ## The entry to FAULTED (R202) -/

/-- The exchange is FAULTED and no write of the completion queue is in progress. -/
def unissued (s : State) : Prop := s.port.exchange = .faulted ∧ s.orders.head = none

theorem pump_faulted (s : State) (h : s.port.exchange = .faulted) : pump s = s := by
  simp [pump, canAccess, h]

theorem unissued_complete (e : Fin 16) (failed : Bool) (code : ResultCode) (value : Word64) (time : Nat) (s : State)
    (h : unissued s) : unissued (complete e failed code value time s) := by
  unfold complete
  split
  · exact h
  · split
    · exact h
    · rw [pump_faulted]
      · exact h
      · exact h.1

theorem unissued_reportFile (f : IntervalFile) (s : State) (h : unissued s) : unissued (reportFile f s) :=
  foldl_keeps unissued reportClose
    (fun _ _ ht => foldl_keeps unissued _ (fun _ _ => unissued_complete _ _ _ _ _ _) _ _ ht) _ _ h

theorem returnTransit_faulted (q : Bool) (s : State) (h : unissued s) : unissued (returnTransit q s) ∧
    (returnTransit q s).filing.transit = none ∧ (returnTransit q s).port.header = s.port.header := by
  cases hx : s.filing.transit with
  | none => rw [(returnTransit_spec q s).1 hx]; exact ⟨h, hx, rfl⟩
  | some x =>
    obtain ⟨filing, -⟩ := returnTransit_blocks q s x hx
    have reports := unissued_reportFile x.file { s with filing := returnedFiling x s.filing } h
    obtain ⟨-, port, -⟩ := reportFile_blocks x.file { s with filing := returnedFiling x s.filing }
    rw [returnTransit_some q s x hx, requestIf_filing] at filing
    rw [returnTransit_some q s x hx]
    refine ⟨?_, ?_, ?_⟩
    · simpa [unissued, requestIf_port] using reports
    · rw [requestIf_filing, filing]; rfl
    · rw [requestIf_port, port]

theorem resumeEvent_blocks (s : State) :
    (resumeEvent s).port = s.port ∧ (resumeEvent s).filing = s.filing ∧ (resumeEvent s).orders = s.orders := by
  unfold resumeEvent
  split <;> exact ⟨rfl, rfl, rfl⟩

theorem abandonScan_blocks (s : State) : (abandonScan s).port = { s.port with scan := none } ∧
    (abandonScan s).filing = s.filing ∧ (abandonScan s).orders = s.orders := by
  unfold abandonScan
  split
  · exact resumeEvent_blocks _
  · next none => exact ⟨by rw [← Option.not_isSome_iff_eq_none.mp none], rfl, rfl⟩

theorem faultConfigRead_faulted (s : State) (h : unissued s) : unissued (faultConfigRead s) ∧
    (faultConfigRead s).port = { s.port with configRead := none } ∧ (faultConfigRead s).filing = s.filing := by
  unfold faultConfigRead
  split
  · next r _ =>
    obtain ⟨port, filing, orders⟩ := resumeEvent_blocks { s with port := { s.port with configRead := none } }
    refine ⟨unissued_complete _ _ _ _ _ _ ?_, (complete_port ..).trans port, (complete_filing ..).trans filing⟩
    rw [unissued, port, orders]
    exact h
  · next none => exact ⟨h, by rw [← none], rfl⟩

theorem faultSnapshots_faulted (s : State) (h : unissued s) : unissued (faultSnapshots s) ∧
    (faultSnapshots s).port = { s.port with snapshots := [] } ∧ (faultSnapshots s).filing = s.filing := by
  refine ⟨foldl_keeps unissued _ (fun _ _ => unissued_complete _ _ _ _ _ _) _ _ h, ?_⟩
  obtain ⟨o, failed⟩ := foldl_completeFail (fun e => e) .busFault (fun s => s.tb.timeValue)
    ((List.finRange 16).filter (fun e => s.port.snapshots.any (fun p => p.entry = e)))
    { s with port := { s.port with snapshots := [] } }
  have blocks : faultSnapshots s = { s with port := { s.port with snapshots := [] }, orders := o } := failed
  rw [blocks]
  exact ⟨rfl, rfl⟩

/-- R202: the entry to FAULTED ends every operation. -/
theorem faultedIdle_enterFaulted (kind : FaultKind) (dir : BusDir) (op : BusOp) (addr : Word64) (s : State) :
    faultedIdle (enterFaulted kind dir op addr s) := by
  obtain ⟨returned, transit, header⟩ :=
    returnTransit_faulted false (dropWrites (recordFault kind dir op addr s)) ⟨rfl, rfl⟩
  obtain ⟨port₃, filing₃, orders₃⟩ := abandonScan_blocks
    (returnTransit false (dropWrites (recordFault kind dir op addr s)))
  obtain ⟨read, port₄, filing₄⟩ := faultConfigRead_faulted
    (abandonScan (returnTransit false (dropWrites (recordFault kind dir op addr s)))) (by
      rw [unissued, port₃, orders₃]
      exact returned)
  obtain ⟨⟨-, head⟩, port₅, filing₅⟩ := faultSnapshots_faulted _ read
  intro _
  unfold enterFaulted
  rw [port₅, filing₅, filing₄, filing₃, port₄, port₃]
  exact ⟨rfl, header, rfl, by simp, transit, head⟩

theorem faultedIdle_accessError (op : BusOp) (dir : BusDir) (off : Nat) (e : Fin 16) (s : State) (h : faultedIdle s) :
    faultedIdle (accessError op dir off e s) := by
  unfold accessError
  split
  · split
    · exact faultedIdle_enterFaulted _ _ _ _ _
    · exact h
  · exact h

theorem faultedIdle_accessTimeout (op : BusOp) (dir : BusDir) (off : Nat) (e : Fin 16) (s : State) (h : faultedIdle s) :
    faultedIdle (accessTimeout op dir off e s) := by
  unfold accessTimeout
  split
  · split
    · exact faultedIdle_enterFaulted _ _ _ _ _
    · exact h
  · exact h

/-! ## Every part and every act -/

theorem faultedIdle_part (d : Due) (s : State) (h : faultedIdle s) : faultedIdle (microStep d s) := by
  cases d with
  | finishOrders => exact faultedIdle_finishOrders h
  | snapCapture e => exact faultedIdle_captureSnapshot h e
  | heldRetry => exact (faultedIdle_retryHeld s).mpr h
  | intervalEnd | tariffStep | clockCheck | timeoutCheck | demandApply | acctFinish | statFinish =>
    exact (faultedIdle_onlyIf _ _ s (by simp)).mpr h
  | asOf _ => exact h
  | _ => simpa using h

theorem faultedIdle_loadStep (stage : LoadStage) (cause : ResetCause) (words : Option (List Word32)) (s : State)
    (h : faultedIdle s) : faultedIdle (loadStep stage cause words s) := by
  cases stage <;> exact h

theorem faultedIdle_keptByActs : KeptByActs faultedIdle where
  pending _ _ h := h
  due _ _ h := h
  part := faultedIdle_part
  time n s := (faultedIdle_elapse n s).mpr
  deferred d s := (faultedIdle_orDefer d s).mpr
  tick s := (faultedIdle_tickInstant s).mpr
  boundary _ _ h := h
  decomposition s := (faultedIdle_completeDecomposition s).mpr
  scanReads table _ h := faultedIdle_scanAnswered h table
  blockReads block _ h := faultedIdle_blockAnswered h block
  image e _ h := faultedIdle_imageWritten h e
  takenWrite _ := faultedIdle_takenAnswered
  resultWrite _ := faultedIdle_resultAnswered
  delivery _ := faultedIdle_delivered
  headerWrite _ := faultedIdle_headerFieldsAnswer
  countWrite _ := faultedIdle_updateCountAnswer
  busError := faultedIdle_accessError
  busTimeout := faultedIdle_accessTimeout
  owner word _ h := faultedIdle_ownerAnswer h word
  body _ := faultedIdle_bodyAnswer
  page _ := faultedIdle_pageComplete
  base hi value s := (faultedIdle_writeExbase hi value s).mpr
  control run resume _ h := faultedIdle_writeControl h run resume
  causes _ _ h := h
  mask _ _ h := h
  level _ _ h := h
  fall s := (faultedIdle_lineFall s).mpr
  rise s := (faultedIdle_lineRise s).mpr
  stuck _ h := h
  recovery _ h := h
  burst s := (faultedIdle_endBurst s).mpr
  fresh _ _ _ _ _ _ := faultedIdle_of_online rfl
  load := faultedIdle_loadStep
  reads _ := faultedIdle_abandonReads
  blocks _ := faultedIdle_softBlocks

/-- Settles O60: an operation in the exchange area begins only where the area can be reached, the entry to FAULTED ends
every operation, and no other part or act puts one in progress. -/
theorem faultedExchangeStaysIdle : Obligations.FaultedExchangeStaysIdle :=
  fun s t h ht => faultedIdle_keptByActs.step s t h ht

end Sys2Proof.Machine
end

section
/-! SUPPORT. The event in hand goes on once its reads are answered, and orders fail in turn. -/

namespace Sys2Proof.Machine

/-! ## The event goes on -/

/-- What waited for the reads is due again. -/
theorem resumeEvent_waiting (s : State) (ev : Event) (he : s.event = some ev) (hd : s.due = []) :
    resumeEvent s = { s with due := ev.todo, event := some { ev with todo := [] } } := by
  simp only [resumeEvent, modEvent, he, hd]
  rfl

theorem inTime_elapse (a : Access) (dt : Nat) (s : State) (h : s.tick + dt < a.issuedAt + 20000) :
    inTime a (elapse dt s) = true := by
  simpa [inTime] using h

/-! ## Orders that fail in turn -/

section InTurn

variable (code : ResultCode) (time : Nat)

theorem failInTurn_cons (e : Fin 16) (es : List (Fin 16)) (s : State) :
    failInTurn code time (e :: es) s = failInTurn code time es (complete e true code 0 time s) := rfl

/-- Orders in flight without a completion, each named once, are marked, and their completions join the queue in the
order in which they fail. -/
theorem failInTurn_open : ∀ (es : List (Fin 16)) (s : State), es.Nodup →
    (∀ e ∈ es, ∃ f, s.inFlight e = some f ∧ f.completed = false) →
    (failInTurn code time es s).orders.inFlight =
        s.orders.inFlight.map (fun f => if f.entry ∈ es then { f with completed := true } else f) ∧
      (failInTurn code time es s).orders.queue = s.orders.queue ++ es.filterMap (fun e =>
        (s.inFlight e).map (fun f => .completion e { failed := true, code, value := 0, time, tag := f.tag } false))
  | [], s, _, _ => by simp [failInTurn]
  | e :: es, s, nodup, hopen => by
    obtain ⟨new, nodup⟩ := List.nodup_cons.mp nodup
    obtain ⟨f, hf, hc⟩ := hopen e (List.mem_cons_self ..)
    have others (e' : Fin 16) (he : e' ∈ es) : (complete e true code 0 time s).inFlight e' = s.inFlight e' :=
      inFlight_complete_of_ne e true code 0 time s e' fun same => new (same ▸ he)
    obtain ⟨flight, queue⟩ := failInTurn_open es (complete e true code 0 time s) nodup fun e' he => by
      rw [others e' he]
      exact hopen e' (List.mem_cons_of_mem _ he)
    obtain ⟨h, made⟩ := complete_open e true code 0 time s f hf hc
    rw [failInTurn_cons, flight, queue]
    constructor
    · rw [made, List.map_map]
      refine List.map_congr_left fun g _ => ?_
      simp only [Function.comp, InFlight.mark, List.mem_cons]
      by_cases here : g.entry = e
      · simp [here]
      · simp [here]
    · rw [List.filterMap_congr fun e' he => by rw [others e' he], made]
      simp [hf]

end InTurn

/-- A completion leaves the time value of the event as it is. -/
theorem foldl_completeFail_eq (code : ResultCode) : ∀ (es : List (Fin 16)) (s : State),
    es.foldl (fun s e => completeFail e code (eventTime s) s) s = failInTurn code (eventTime s) es s
  | [], _ => rfl
  | e :: es, s => by
    obtain ⟨o, made⟩ := complete_orders_only e true code 0 (eventTime s) s
    have time : eventTime (completeFail e code (eventTime s) s) = eventTime s := by rw [completeFail, made]; rfl
    rw [List.foldl_cons, foldl_completeFail_eq code es, time, failInTurn_cons]
    rfl

end Sys2Proof.Machine
end

section
/-! PROOF. An answered scan takes the posted orders (O47). -/

namespace Sys2Proof.Machine

/-! ## The command (R158, R159) -/

theorem scanAnswered_inTime (table : List Byte) (s : State) (a : Access) (ev : Event) (ha : s.port.scan = some a)
    (ht : inTime a s = true) (he : s.event = some ev) (hd : s.due = []) : scanAnswered table s = { s with
      due := .takeOrders table :: ev.todo, event := some { ev with todo := [] }
      port := { s.port with scan := none } } := by
  simp only [scanAnswered, ha, ht, if_true,
    resumeEvent_waiting { s with port := { s.port with scan := none } } ev he hd]
  rfl

theorem exec_scanReadsAnswered (s : State) (dt : Nat) (table : List Byte) (a : Access) (ev : Event) (h : quiet s)
    (he : s.event = some ev) (ha : s.port.scan = some a) (ht : s.tick + dt < a.issuedAt + 20000) :
    exec (.scanReadsAnswered dt table) s = .next (advance { elapse dt s with
      due := .takeOrders table :: ev.todo, event := some { ev with todo := [] }
      port := { s.port with scan := none } }) := by
  obtain ⟨phase, due⟩ := h
  have answered := scanAnswered_inTime table (elapse dt s) a ev (by rwa [elapse_port]) (inTime_elapse a dt s ht)
    (by rwa [elapse_event]) (by rwa [elapse_due])
  show Host.Outcome.next (fromOutside dt _ s) = _
  rw [fromOutside_quiet dt _ s phase due, answered, elapse_port]

/-! ## The entries of a table (11.4) -/

/-- A field of an entry lies in the table at the entry's 64 bytes. -/
theorem field_tableEntry (table : List Byte) (e off width : Nat) (h : off + width ≤ 64) :
    field (tableEntry table e) off width = field table (64 * e + off) width := by
  simp only [field, tableEntry, List.drop_take, List.drop_drop, List.take_take]
  rw [Nat.min_eq_left (by omega)]

theorem entryParams_tableEntry (table : List Byte) (e : Nat) :
    entryParams (tableEntry table e) = (table.drop (64 * e + 16)).take 32 := by
  simp [entryParams, tableEntry, List.drop_take, List.take_take]

theorem takenOrder_eq (table : List Byte) (e : Fin 16) : takenOrder table e = {
    entry := e, kind := field table (64 * e.val + 2) 2, tag := BitVec.ofNat 64 (field table (64 * e.val + 8) 8)
    params := (table.drop (64 * e.val + 16)).take 32, completed := false, ended := false } := by
  simp only [takenOrder, entryKind, entryTag, field_tableEntry, entryParams_tableEntry, Nat.reduceAdd, Nat.reduceLeDiff]

/-- R159: the entries that read POSTED and are not in flight are taken; which are in flight, the
RESET completions leave. -/
theorem takenEntries_resetCompletions (s : State) (table : List Byte) : takenEntries (resetCompletions s) table =
    (List.finRange 16).filter (fun e : Fin 16 =>
      field table (64 * e.val) 2 = 1 && s.orders.inFlight.all (fun f => f.entry ≠ e)) := by
  have entries : (resetCompletions s).orders.inFlight.map (fun f => f.entry) =
      s.orders.inFlight.map (fun f => f.entry) :=
    congrArg Outline.entries (outline_resetCompletions s)
  have free (t : State) (e : Fin 16) :
      ((t.inFlight e).isNone = true) ↔ e ∉ t.orders.inFlight.map (fun f => f.entry) := by
    simp [State.inFlight]
  refine List.filter_congr fun e _ => ?_
  rw [takes, entryState, field_tableEntry _ _ _ _ (by decide), Nat.add_zero, Bool.eq_iff_iff, Bool.and_eq_true,
    Bool.and_eq_true, free, entries]
  simp

/-! ## The RESET completions (R177) -/

/-- The entries of the orders that a soft reset ended, in increasing index order. -/
def endedEntries (s : State) : List (Fin 16) :=
  (List.finRange 16).filter (fun e => s.orders.inFlight.any (fun f => f.entry = e && f.ended))

theorem resetCompletions_none (s : State) (h : s.orders.resetDue = false) : resetCompletions s = s := by
  simp [resetCompletions, h]

theorem resetCompletions_due (s : State) (h : s.orders.resetDue = true) :
    resetCompletions s = { s with orders := { (failInTurn .reset (eventTime s) (endedEntries s) s).orders with
      resetDue := false } } := by
  simp only [resetCompletions, h, if_true, foldl_completeFail_eq]
  rw [failInTurn_only]
  rfl

/-- With no index in flight twice, the ended order of an entry is its order in flight. -/
theorem find_ended : ∀ l : List InFlight, (l.map (fun f => f.entry)).Nodup → ∀ e : Fin 16,
    l.find? (fun f => f.entry = e && f.ended) = (l.find? (fun f => f.entry = e)).filter (fun f => f.ended)
  | [], _, _ => rfl
  | f :: l, once, e => by
    obtain ⟨new, once⟩ := List.nodup_cons.mp once
    by_cases here : f.entry = e
    · cases hended : f.ended with
      | true => simp [here, hended, Option.filter]
      | false =>
        have other : l.find? (fun f => f.entry = e && f.ended) = none := List.find?_eq_none.mpr fun g hg matched =>
          new (List.mem_map.mpr ⟨g, hg, by simp_all⟩)
        simp [here, hended, other, Option.filter]
    · simp [here, find_ended l once e]

section Ended

variable (s : State) (once : entriesOnce s)
include once

theorem mem_endedEntries (f : InFlight) (hf : f ∈ s.orders.inFlight) : f.entry ∈ endedEntries s ↔ f.ended = true := by
  have only (g : InFlight) (hg : g ∈ s.orders.inFlight) (same : g.entry = f.entry) : g = f :=
    List.inj_on_of_nodup_map once hg hf same
  simp only [endedEntries, List.mem_filter, List.mem_finRange, true_and, List.any_eq_true, Bool.and_eq_true,
    decide_eq_true_eq]
  exact ⟨fun ⟨g, hg, same, ended⟩ => only g hg same ▸ ended, fun ended => ⟨f, hf, rfl, ended⟩⟩

/-- The ended order of an entry, with the completion that it gets. -/
theorem filterMap_endedEntries {β : Type} (g : Fin 16 → InFlight → β) :
    (endedEntries s).filterMap (fun e => (s.inFlight e).map (g e)) =
      (List.finRange 16).filterMap (fun e =>
        (s.orders.inFlight.find? (fun f => f.entry = e && f.ended)).map (g e)) := by
  rw [endedEntries, List.filterMap_filter]
  refine List.filterMap_congr fun e _ => ?_
  rw [find_ended _ once e]
  show _ = Option.map (g e) (Option.filter _ (s.inFlight e))
  rcases found : s.inFlight e with _ | f
  · simp
  · have hf := List.mem_of_find?_eq_some found
    have entry := inFlight_entry s e f found
    have iff := mem_endedEntries s once f hf
    rw [entry, endedEntries, List.mem_filter] at iff
    cases hended : f.ended with
    | true => simp_all [Option.filter]
    | false => simp_all [Option.filter]

/-- R177: the ended orders are completed FAILED with RESET, and no such order is left to complete. -/
theorem resetCompletions_orders (due : s.orders.resetDue = true)
    (hopen : ∀ f ∈ s.orders.inFlight, f.ended = true → f.completed = false) :
    (resetCompletions s).orders.inFlight =
        s.orders.inFlight.map (fun f => if f.ended then { f with completed := true } else f) ∧
      (resetCompletions s).orders.queue = s.orders.queue ++ (List.finRange 16).filterMap (fun e : Fin 16 =>
        (s.orders.inFlight.find? (fun f => f.entry = e && f.ended)).map (fun f => .completion e
          { failed := true, code := .reset, value := 0, time := eventTime s, tag := f.tag } false)) := by
  have inFlight (e : Fin 16) (he : e ∈ endedEntries s) : ∃ f, s.inFlight e = some f ∧ f.completed = false := by
    obtain ⟨f, hf, hm⟩ := List.any_eq_true.mp (List.mem_filter.mp he).2
    obtain ⟨rfl, ended⟩ : f.entry = e ∧ f.ended = true := by simpa using hm
    obtain ⟨g, found⟩ := Option.isSome_iff_exists.mp (List.find?_isSome.mpr ⟨f, hf, decide_eq_true rfl⟩ :
      (s.inFlight f.entry).isSome = true)
    have only : g = f := List.inj_on_of_nodup_map once (List.mem_of_find?_eq_some found) hf (inFlight_entry s _ g found)
    exact ⟨g, found, only ▸ hopen f hf ended⟩
  obtain ⟨flight, queue⟩ := failInTurn_open .reset (eventTime s) (endedEntries s) s
    ((List.nodup_finRange 16).filter _) inFlight
  rw [resetCompletions_due s due]
  refine ⟨flight.trans (List.map_congr_left fun f hf => ?_), queue.trans ?_⟩
  · simp only [mem_endedEntries s once f hf]
  · rw [filterMap_endedEntries s once]

end Ended

theorem resetCompletions_resetDue (s : State) : (resetCompletions s).orders.resetDue = false := by
  cases h : s.orders.resetDue with
  | false => rw [resetCompletions_none s h, h]
  | true => rw [resetCompletions_due s h]

/-! ## An unknown kind (R160) -/

theorem carryOut_badKind (f : InFlight) (s : State) (h : f.kind = 0 ∨ 10 < f.kind) :
    carryOut f s = completeFail f.entry .badKind (eventTime s) s := by
  have differs (k : Nat) (h1 : 1 ≤ k) (h2 : k ≤ 10) : f.kind ≠ k := by omega
  simp [carryOut, differs]

/-- Settles O47: the answer of the scan lets the event go on, `takeOrders_spec` says what the taking adds, and
`resetCompletions_orders` what comes before it. -/
theorem scansTakePostedOrders : Obligations.ScansTakePostedOrders := by
  refine ⟨fun s dt table a ev h he ha ht => exec_scanReadsAnswered s dt table a ev h he ha ht,
    fun s table posted hp => ?_, fun s e f ev hf he hk => ⟨?_, ?_⟩⟩
  · obtain ⟨head, taken⟩ := takeOrders_spec table s
    obtain ⟨o, only⟩ := resetCompletions_spec s
    rw [takenEntries_resetCompletions s table, ← hp] at taken
    refine ⟨_, rfl, ?_⟩
    rw [microStep_takeOrders, taken, List.map_congr_left fun e _ => takenOrder_eq table e]
    refine ⟨fun hr => ?_, fun hr once hopen => ?_, resetCompletions_resetDue s, rfl, ?_⟩
    · rw [resetCompletions_none s hr]
      exact ⟨rfl, rfl⟩
    · obtain ⟨flight, queue⟩ := resetCompletions_orders s once hr hopen
      rw [flight, queue]
      exact ⟨rfl, rfl⟩
    · rw [only]
      exact ⟨rfl, rfl, rfl, rfl, rfl⟩
  · simp only [named_handOver, State.orderKind, hf]
    rcases hk with hk | hk <;> simp [hk]
  · rw [microStep_handOver, handOver_eq s e f hf, carryOut_badKind f s hk, inFlight_entry s e f hf,
      eventTime_of_event s ev he]
    rfl

end Sys2Proof.Machine
end

section
/-! PROOF. The answered reads of a configuration block bring its judgement, and the fields of a block (O35). -/

namespace Sys2Proof.Machine

/-! ## The outcomes (R166, R167, R180) -/

section Outcomes

variable (block : List Byte) (e : Fin 16) (s : State) (ev : Event) (he : s.event = some ev)
include he

theorem judgeBlock_fails (code : ResultCode) (value : Word64)
    (hj : judge s.store (decide (ev.kind ≠ .tick)) (decodeCfg block) = some (code, value)) :
    judgeBlock block e s = complete e true code value ev.tOld s := by
  simp only [judgeBlock, he, hj, eventTime_of_event s ev he]

/-- R166: a valid block at a free tick makes its activation due. -/
theorem judgeBlock_tick (hj : judge s.store (decide (ev.kind ≠ .tick)) (decodeCfg block) = none)
    (hk : ev.kind = .tick) : judgeBlock block e s = pushDue [.activate (decodeCfg block) e] s := by
  have free : decide (ev.kind ≠ .tick) = false := by simp [hk]
  rw [free] at hj
  simp only [judgeBlock, he, free, hj, Bool.false_eq_true, if_false]

theorem judgeBlock_boundary (hj : judge s.store (decide (ev.kind ≠ .tick)) (decodeCfg block) = none)
    (hk : ev.kind ≠ .tick) : judgeBlock block e s = makePending (decodeCfg block) e s := by
  have boundary : decide (ev.kind ≠ .tick) = true := by simp [hk]
  rw [boundary] at hj
  simp only [judgeBlock, he, boundary, hj, if_true]

/-- R167: an older pending block is superseded. -/
theorem makePending_supersedes (cfg c : Cfg) (older : Fin 16) (hp : s.store.pend = some (c, older)) :
    makePending cfg e s = complete older true .superseded (cfg.generation.zeroExtend 64) ev.tOld
      { s with store := { s.store with pend := some (cfg, e) } } := by
  simp only [makePending, hp, eventTime_of_event s ev he]

end Outcomes

theorem makePending_first (cfg : Cfg) (e : Fin 16) (s : State) (hp : s.store.pend = none) :
    makePending cfg e s = { s with store := { s.store with pend := some (cfg, e) } } := by
  simp only [makePending, hp]

/-! ## The command -/

theorem blockAnswered_inTime (block : List Byte) (s : State) (r : ConfigRead) (ev : Event)
    (hr : s.port.configRead = some r) (ht : inTime r.access s = true) (he : s.event = some ev) (hd : s.due = []) :
    blockAnswered block s = judgeBlock block r.entry { s with
      due := ev.todo, event := some { ev with todo := [] }, port := { s.port with configRead := none } } := by
  simp only [blockAnswered, hr, ht, if_true,
    resumeEvent_waiting { s with port := { s.port with configRead := none } } ev he hd]

theorem exec_configBlockReadDone (s : State) (dt : Nat) (block : List Byte) (r : ConfigRead) (ev : Event) (w : State)
    (h : quiet s) (he : s.event = some ev) (hr : s.port.configRead = some r)
    (ht : s.tick + dt < r.access.issuedAt + 20000) (hw : w = { elapse dt s with
      due := ev.todo, event := some { ev with todo := [] }, port := { s.port with configRead := none } }) :
    exec (.configBlockReadDone dt block) s = .next (advance (judgeBlock block r.entry w)) := by
  obtain ⟨phase, due⟩ := h
  have answered := blockAnswered_inTime block (elapse dt s) r ev (by rwa [elapse_port])
    (inTime_elapse r.access dt s ht) (by rwa [elapse_event]) (by rwa [elapse_due])
  show Host.Outcome.next (fromOutside dt _ s) = _
  rw [fromOutside_quiet dt _ s phase due, answered, elapse_port, ← hw]

/-! ## Fields (R210) -/

/-- A little-endian value is the sum of its bytes, each at its weight. -/
theorem leNat_take (l : List Byte) (width : Nat) :
    leNat (l.take width) = ((List.range width).map (fun i => (l.getD i 0).toNat * 256 ^ i)).sum := by
  induction width generalizing l with
  | zero => rfl
  | succ width ih =>
    have weights (m : List Byte) : ((List.range width).map (fun i => (m.getD i 0).toNat * 256 ^ (i + 1))).sum =
        256 * ((List.range width).map (fun i => (m.getD i 0).toNat * 256 ^ i)).sum := by
      rw [← List.sum_map_mul_left]
      congr 1
      exact List.map_congr_left fun i _ => by ring
    rw [List.range_succ_eq_map, List.map_cons, List.map_map, List.sum_cons]
    cases l with
    | nil => simp [leNat, Function.comp_def]
    | cons b l =>
      rw [List.take_succ_cons, leNat, ih, ← weights l]
      simp [Function.comp_def]

theorem field_eq_sum (b : List Byte) (off width : Nat) :
    field b off width = ((List.range width).map (fun i => (b.getD (off + i) 0).toNat * 256 ^ i)).sum := by
  rw [field, leNat_take]
  simp [List.getD_eq_getElem?_getD]

theorem signed_eq (sign : Nat → Int) (h : ∀ v, sign v = if v < 32768 then (v : Int) else (v : Int) - 65536) :
    signed 16 = sign := by
  funext v
  rw [h, signed]
  rfl

/-- 11.5: the fields of a metering point, at 64 bytes each from byte 48. -/
theorem decodePointCfg_eq (b : List Byte) (p : Nat) : decodePointCfg b p = {
    weight := field b (48 + 64 * p) 2, contracted := field b (52 + 64 * p) 4
    chans := (List.range 7).map (fun c => {
      gain := field b (56 + 64 * p + 8 * c) 2, offset := signed 16 (field b (58 + 64 * p + 8 * c) 2)
      useFactory := field b (60 + 64 * p + 8 * c) 1 }) } := by
  have contracted : 48 + 64 * p + 4 = 52 + 64 * p := by omega
  have gain : 48 + 64 * p + 8 = 56 + 64 * p := by omega
  have offset : 48 + 64 * p + 10 = 58 + 64 * p := by omega
  have useFactory : 48 + 64 * p + 12 = 60 + 64 * p := by omega
  have chan (c : Nat) : decodeChanCfg b (48 + 64 * p) c = {
      gain := field b (56 + 64 * p + 8 * c) 2, offset := signed 16 (field b (58 + 64 * p + 8 * c) 2)
      useFactory := field b (60 + 64 * p + 8 * c) 1 } := by
    rw [decodeChanCfg, gain, offset, useFactory]
  simp only [decodePointCfg, contracted, funext chan]

/-- Settles O35: the answer of the read lets the event go on with `judgeBlock`, and each field of the block stands at its
place. -/
theorem configBlockIsJudgedWhenRead : Obligations.ConfigBlockIsJudgedWhenRead := by
  refine ⟨fun s dt block r ev w h he hr ht hw => ?_, field_eq_sum, fun b sign hs => ?_⟩
  · have answered := exec_configBlockReadDone s dt block r ev w h he hr ht hw
    have event : w.event = some { ev with todo := [] } := by rw [hw]
    have store : w.store = s.store := by rw [hw]; exact elapse_store dt s
    have due : w.due = ev.todo := by rw [hw]
    rw [← store, answered]
    refine ⟨fun code value hj => ?_, fun hj hk => ?_, fun hj hk => ?_⟩
    · rw [judgeBlock_fails block r.entry w _ event code value hj]
    · rw [judgeBlock_tick block r.entry w _ event hj hk, advance_named _ _ _ rfl (named_activate ..)]
      simp only [pushDue, due, List.singleton_append]
    · rw [judgeBlock_boundary block r.entry w _ event hj hk]
      refine ⟨fun hp => ?_, fun c older hp => ?_⟩
      · rw [makePending_first _ _ w hp]
      · rw [makePending_supersedes r.entry w _ event _ c older hp]
  · obtain rfl := signed_eq sign hs
    simp only [decodeCfg, funext (decodePointCfg_eq b)]
    rfl

end Sys2Proof.Machine
end

section
/-! PROOF. The answers to the completion queue's writes let it go on (O45). -/

namespace Sys2Proof.Machine

/-! ## The answers (R164) -/

theorem popQueue_cons (s : State) (q : QueueItem) (rest : List QueueItem) (hq : s.orders.queue = q :: rest) :
    popQueue s = pump { s with orders := { s.orders with queue := rest, head := none } } := by
  simp only [popQueue, hq, List.drop_one, List.tail_cons]

theorem takenAnswered_taken (s : State) (e : Fin 16) (rest : List QueueItem) (hq : s.orders.queue = .taken e :: rest)
    (ha : headAnswered s = true) :
    takenAnswered s = pump { s with orders := { s.orders with queue := rest, head := none } } := by
  simp only [takenAnswered, hq, ha, if_true, popQueue_cons s _ rest hq]

theorem resultAnswered_completion (s : State) (e : Fin 16) (c : Completion) (rest : List QueueItem)
    (hq : s.orders.queue = .completion e c false :: rest) (ha : headAnswered s = true) :
    resultAnswered s = pump { s with orders := { s.orders with
      queue := .completion e c true :: rest, head := none } } := by
  simp only [resultAnswered, hq, ha, if_true]

/-- R161: the delivered completion requests ORDER, and its index is in flight no longer. -/
theorem delivered_completion (s : State) (e : Fin 16) (c : Completion) (rest : List QueueItem)
    (hq : s.orders.queue = .completion e c true :: rest) (ha : headAnswered s = true) :
    delivered s = pump (request .order { s with orders := { s.orders with
      inFlight := s.orders.inFlight.filter (fun f => f.entry ≠ e), queue := rest, head := none } }) := by
  simp only [delivered, hq, ha, if_true]
  exact popQueue_cons _ _ rest hq

section Answers

variable (s : State) (dt : Nat) (a : Access) (rest : List QueueItem) (h : quiet s) (ha : s.orders.head = some a)
  (ht : s.tick + dt < a.issuedAt + 20000)
include h ha ht

/-- An answer in time acts once its time has passed; where its act leaves what is due, nothing further comes about. -/
theorem fromOutside_answer (act : State → State) (w : State)
    (acts : headAnswered (elapse dt s) = true → act (elapse dt s) = w) (hd : w.due = s.due) :
    fromOutside dt act s = w := by
  obtain ⟨phase, due⟩ := h
  have answered : headAnswered (elapse dt s) = true := by
    simp only [headAnswered, elapse_orders, ha]
    exact inTime_elapse a dt s ht
  rw [fromOutside_plain dt act s phase due (by rw [acts answered, hd, due]), acts answered]

theorem exec_takenWriteAnswered (e : Fin 16) (hq : s.orders.queue = .taken e :: rest) :
    exec (.takenWriteAnswered dt) s = .next (pump { elapse dt s with
      orders := { s.orders with queue := rest, head := none } }) := by
  refine congrArg Host.Outcome.next (fromOutside_answer s dt a h ha ht _ _ (fun answered => ?_) (by simp))
  rw [takenAnswered_taken (elapse dt s) e rest (by rwa [elapse_orders]) answered, elapse_orders]

theorem exec_completionResultWritten (e : Fin 16) (c : Completion)
    (hq : s.orders.queue = .completion e c false :: rest) :
    exec (.completionResultWritten dt) s = .next (pump { elapse dt s with
      orders := { s.orders with queue := .completion e c true :: rest, head := none } }) := by
  refine congrArg Host.Outcome.next (fromOutside_answer s dt a h ha ht _ _ (fun answered => ?_) (by simp))
  rw [resultAnswered_completion (elapse dt s) e c rest (by rwa [elapse_orders]) answered, elapse_orders]

theorem exec_completionDelivered (e : Fin 16) (c : Completion) (hq : s.orders.queue = .completion e c true :: rest) :
    exec (.completionDelivered dt) s = .next (pump (request .order { elapse dt s with
      orders := { s.orders with
        inFlight := s.orders.inFlight.filter (fun f => f.entry ≠ e), queue := rest, head := none } })) := by
  refine congrArg Host.Outcome.next (fromOutside_answer s dt a h ha ht _ _ (fun answered => ?_) (by simp))
  rw [delivered_completion (elapse dt s) e c rest (by rwa [elapse_orders]) answered, elapse_orders]

end Answers

/-! ## The next write (R165) -/

theorem pump_issues (s : State) (hq : s.orders.queue ≠ []) (hh : s.orders.head = none) (hc : canAccess s = true) :
    pump s = { s with orders := { s.orders with head := some { base := s.port.exbase, issuedAt := s.tick } } } := by
  simp [pump, hq, hh, hc]

theorem pump_waits (s : State) (h : s.orders.queue = [] ∨ s.orders.head ≠ none ∨ canAccess s = false) : pump s = s := by
  rcases h with empty | busy | unreached
  · simp [pump, empty]
  · simp [pump, busy]
  · simp [pump, unreached]

/-! ## The time of a completion (R163, log 9) -/

/-- A time value told back over a span that does not reach behind the clock's start. -/
theorem timeAgo_eq (tb : Timebase) (n : Nat) (hv : tb.timeValue < 2 ^ 48) (hs : tb.subMs < 10000)
    (hn : n ≤ tb.timeValue * 10000 + tb.subMs) :
    tb.timeAgo n = (tb.timeValue * 10000 + tb.subMs - n) / 10000 := by
  unfold Timebase.timeAgo
  omega

/-- Settles O45: each answer by the head of the queue, and the next write, the completion and its time by their cases. -/
theorem queueWritesAreAnsweredInTurn : Obligations.QueueWritesAreAnsweredInTurn := by
  refine ⟨fun s dt a e c rest h ha ht => ⟨exec_takenWriteAnswered s dt a rest h ha ht e,
    exec_completionResultWritten s dt a rest h ha ht e c, exec_completionDelivered s dt a rest h ha ht e c⟩,
    fun c code hc => ⟨rfl, rfl, ?_⟩,
    fun s => ⟨fun hq hh hx hb => pump_issues s hq hh ((canAccess_iff s).mpr ⟨hx, hb⟩), fun hn => pump_waits s ?_⟩,
    fun s e failed code value time => ⟨fun hf => ?_, fun f hf => ⟨fun hc => ?_, fun hc => ?_⟩⟩,
    fun s => ⟨fun ev => eventTime_of_event s ev, fun he => ?_, partTime_now s, ?_⟩⟩
  · rw [hc]
    cases h : c.code <;> simp only [completionBytes, h] <;> rfl
  · refine hn.imp_right (Or.imp_right fun unreached => Bool.eq_false_iff.mpr fun reached => ?_)
    obtain ⟨online, placed⟩ := (canAccess_iff s).mp reached
    rcases unreached with faulted | unplaced
    · rw [online] at faulted
      cases faulted
    · exact placed unplaced
  · simp only [complete, hf]
  · simp only [complete, hf, hc, if_true]
  · simp only [complete, hf, hc, Bool.false_eq_true, if_false]
  · simp only [eventTime, he]
  · rintro t n ht rfl hv hs hn
    rw [partTime, ht]
    exact timeAgo_eq s.tb _ hv hs hn

end Sys2Proof.Machine
end

section
/-! SUPPORT. Parameter memory (R186 to R190): which block a number names, and its figure. -/

namespace Sys2Proof.Machine

/-! ## The blocks of numbers -/

theorem isOffsetParam_iff (n : Nat) : isOffsetParam n = true ↔ 224 ≤ n ∧ n < 252 := by
  simp [isOffsetParam]

theorem isSettingParam_iff (n : Nat) : isSettingParam n = true ↔ 256 ≤ n ∧ n < 320 ∧ (n - 256) % 16 < 10 := by
  simp [isSettingParam, and_assoc]

theorem isReadWrite_iff (n : Nat) :
    isReadWrite n = true ↔ (224 ≤ n ∧ n < 252) ∨ (256 ≤ n ∧ n < 320 ∧ (n - 256) % 16 < 10) := by
  rw [isReadWrite, Bool.or_eq_true, isOffsetParam_iff, isSettingParam_iff]

theorem readOnly_iff (n : Nat) : isReadWrite n = false ↔ isOffsetParam n = false ∧ isSettingParam n = false := by
  rw [isReadWrite, Bool.or_eq_false_iff]

theorem isSettingParam_of_offset (n : Nat) (h : 224 ≤ n ∧ n < 252) : isSettingParam n = false := by
  rw [← Bool.not_eq_true, isSettingParam_iff]
  omega

theorem isOffsetParam_of_setting (n : Nat) (h : 256 ≤ n) : isOffsetParam n = false := by
  rw [← Bool.not_eq_true, isOffsetParam_iff]
  omega

/-! ## Figures -/

theorem paramValue_engine (s : State) (n : Nat) (h : n < 32) :
    paramValue s n = (engineParam s n).map unsignedValue := by
  rw [paramValue, if_pos h]

/-- R188: the figures of a link. -/
theorem paramValue_link (s : State) (l : Fin 4) (o : Nat) (h : o < 8) :
    paramValue s (32 + 8 * l.val + o) = some (unsignedValue (linkParam (s.link l) o)) := by
  have link : paramLink (32 + 8 * l.val + o) = l := by
    apply Fin.ext
    simp only [paramLink, Fin.ofNat]
    omega
  have offset : (32 + 8 * l.val + o - 32) % 8 = o := by omega
  rw [paramValue, if_neg (by omega), if_pos (by omega), link, offset]

theorem paramMonitor_eq (m : Fin 4) (o : Nat) (h : o < 16) :
    paramMonitor (256 + 16 * m.val + o) = m ∧ (256 + 16 * m.val + o - 256) % 16 = o := by
  refine ⟨Fin.ext ?_, by omega⟩
  simp only [paramMonitor, Fin.ofNat]
  omega

theorem paramValue_monitorBlock (s : State) (n : Nat) (h : 256 ≤ n) (h' : n < 320) :
    paramValue s n = (monitorParam (s.monitor (paramMonitor n)) ((n - 256) % 16)).map unsignedValue := by
  simp (disch := omega) only [paramValue, if_neg, if_pos]

/-- R190: the figures of a monitor. -/
theorem paramValue_monitor (s : State) (m : Fin 4) (o : Nat) (h : o < 16) :
    paramValue s (256 + 16 * m.val + o) = (monitorParam (s.monitor m) o).map unsignedValue := by
  obtain ⟨monitor, offset⟩ := paramMonitor_eq m o h
  rw [paramValue_monitorBlock s _ (by omega) (by omega), monitor, offset]

theorem paramValue_setting (s : State) (n : Nat) (h : 256 ≤ n) (h' : n < 320) (ho : (n - 256) % 16 < 10) :
    paramValue s n = some (unsignedValue ((s.monitor (paramMonitor n)).stored.get ((n - 256) % 16))) := by
  rw [paramValue_monitorBlock s n h h', monitorParam, if_pos ho]
  rfl

theorem paramValue_offset (s : State) (n : Nat) (h : 224 ≤ n) (h' : n < 252) :
    paramValue s n = some (signedValue (storedOffset (s.channel (n - 224)))) := by
  simp (disch := omega) only [paramValue, if_neg, if_pos]

/-! ## Numbers that name no parameter -/

theorem engineParam_eq_none_iff (s : State) (n : Nat) (h : n < 32) :
    engineParam s n = none ↔ (13 ≤ n ∧ n ≤ 15) ∨ 22 ≤ n := by
  interval_cases n <;> simp [engineParam]

theorem monitorParam_eq_none_iff (k : Monitor) (o : Nat) : monitorParam k o = none ↔ 13 ≤ o := by
  unfold monitorParam
  split_ifs <;> simp only [false_iff, true_iff] <;> omega

/-- The blocks of the links and of the channels: of every 32 numbers from 64, the last 4 name no parameter. -/
theorem paramValue_channelBlocks_eq_none_iff (s : State) (n : Nat) (h : 32 ≤ n) (h' : n < 256) :
    paramValue s n = none ↔ 64 ≤ n ∧ 28 ≤ n % 32 := by
  rw [← Option.isNone_iff_eq_none, paramValue, if_neg (by omega)]
  simp only [apply_ite Option.isNone, Option.isNone_some, Option.isNone_none]
  rcases Nat.lt_or_ge n 160 with low | high <;> grind

theorem paramValue_eq_none_iff (s : State) (n : Nat) : paramValue s n = none ↔ (13 ≤ n ∧ n ≤ 15) ∨ (22 ≤ n ∧ n ≤ 31) ∨
    (92 ≤ n ∧ n ≤ 95) ∨ (124 ≤ n ∧ n ≤ 127) ∨ (156 ≤ n ∧ n ≤ 159) ∨ (188 ≤ n ∧ n ≤ 191) ∨ (220 ≤ n ∧ n ≤ 223) ∨
    (252 ≤ n ∧ n ≤ 255) ∨ (256 ≤ n ∧ n < 320 ∧ 13 ≤ (n - 256) % 16) ∨ 320 ≤ n := by
  rcases Nat.lt_or_ge n 32 with low | high
  · rw [paramValue_engine s n low, Option.map_eq_none_iff, engineParam_eq_none_iff s n low]
    omega
  · rcases Nat.lt_or_ge n 256 with below | above
    · rw [paramValue_channelBlocks_eq_none_iff s n high below]
      omega
    · rcases Nat.lt_or_ge n 320 with monitor | beyond
      · rw [paramValue_monitorBlock s n above monitor, Option.map_eq_none_iff, monitorParam_eq_none_iff]
        omega
      · have unnamed : paramValue s n = none := by simp (disch := omega) only [paramValue, if_neg]
        exact iff_of_true unnamed (by omega)

/-! ## Settings (R190) -/

theorem settingRange_bounds (nom60 : Bool) (o : Nat) :
    (settingRange nom60 o).1 ≤ (settingRange nom60 o).2 ∧ (settingRange nom60 o).2 < 2 ^ 32 := by
  unfold settingRange
  cases nom60 <;> split_ifs <;> decide

theorem get_put_same (k : MonSettings) (o v : Nat) (h : o < 10) : (k.put o v).get o = v := by
  interval_cases o <;> rfl

/-- One setting changed leaves the others. -/
theorem get_put_other (k : MonSettings) (o o' v : Nat) (h : o < 10) (h' : o' < 10) (differs : o' ≠ o) :
    (k.put o v).get o' = k.get o' := by
  interval_cases o <;> interval_cases o' <;> simp [MonSettings.put, MonSettings.get] at differs ⊢

end Sys2Proof.Machine
end

section
/-! PROOF. PARAM_READ and PARAM_WRITE (O52). -/

namespace Sys2Proof.Machine

/-! ## PARAM_READ (R172, R186, R189) -/

theorem carryOut_paramRead (f : InFlight) (s : State) (h : f.kind = 6) :
    carryOut f s = readParam f.entry (field f.params 0 4) s := by
  simp [carryOut, h, orderParamRead, param32]

theorem completeRead_value (e : Fin 16) (n : Nat) (s : State) (v : Word64) (h : paramValue s n = some v) :
    completeRead e n s = completeOk e v (eventTime s) s := by
  simp only [completeRead, h]

theorem completeRead_none (e : Fin 16) (n : Nat) (s : State) (h : paramValue s n = none) :
    completeRead e n s = completeFail e .badParam (eventTime s) s := by
  simp only [completeRead, h]

theorem readParam_setting (e : Fin 16) (n : Nat) (s : State) (h : isSettingParam n = true) :
    readParam e n s = completeRead e n s := by
  simp [readParam, h]

theorem readParam_none (e : Fin 16) (n : Nat) (s : State) (h : paramValue s n = none) :
    readParam e n s = completeRead e n s := by
  simp [readParam, h]

theorem readParam_readOnly (e : Fin 16) (n : Nat) (s : State) (v : Word64) (hr : isReadWrite n = false)
    (hv : paramValue s n = some v) : readParam e n s = finishLater (.read e n) s := by
  obtain ⟨offset, setting⟩ := (readOnly_iff n).mp hr
  simp [readParam, offset, setting, hv]

theorem readParam_offset (e : Fin 16) (n : Nat) (s : State) (h : 224 ≤ n ∧ n < 252) :
    readParam e n s = readOffset e (n - 224) s := by
  simp [readParam, isSettingParam_of_offset n h, (isOffsetParam_iff n).mpr h, paramValue_offset s n h.1 h.2]

theorem storedOffset_eq (c : Channel) (v : Int)
    (h : (∃ r, c.request = some r ∧ v = r.value) ∨ c.request = none ∧ v = c.offset) : storedOffset c = v := by
  rcases h with ⟨r, requested, rfl⟩ | ⟨free, rfl⟩
  · simp only [storedOffset, requested]
  · simp only [storedOffset, free]

section Offset

variable (e : Fin 16) (ch : Nat) (s : State) (ev : Event) (he : s.event = some ev)
include he

/-- Where no activation of the event can replace the offset, the read completes at once. -/
theorem readOffset_now
    (h : ev.kind ≠ .boundary ∨ ∃ r, (s.channel ch).request = some r ∧ r.late = true) :
    readOffset e ch s = complete e false .ok (signedValue (storedOffset (s.channel ch))) ev.tOld s := by
  have settled : (mayActivate s && !writtenHere (s.channel ch)) = false := by
    rcases h with other | ⟨r, requested, late⟩
    · simp [mayActivate, he, other]
    · simp [writtenHere, requested, late]
  simp only [readOffset, settled, Bool.false_eq_true, if_false, completeOk, eventTime_of_event s ev he]

/-- R17: at a boundary that ends a window the read waits for the close. -/
theorem readOffset_waits (hk : ev.kind = .boundary) (h : ∀ r, (s.channel ch).request = some r → r.late = false) :
    readOffset e ch s = finishLater (.offset e ch (storedOffset (s.channel ch))) s := by
  have early : writtenHere (s.channel ch) = false := by
    rw [writtenHere, Option.any_eq_false]
    exact fun r hr => by simp [h r hr]
  simp [readOffset, mayActivate, he, hk, early]

theorem finishLater_event (f : Finishing) :
    finishLater f s = { s with event := some { ev with finishing := ev.finishing ++ [f] } } := by
  simp only [finishLater, modEvent, he, Option.map_some]

end Offset

/-! ## The end of a read at its event (log 11) -/

theorem finishOrders_single (u : State) (ev : Event) (f : Finishing)
    (he : u.event = some { ev with finishing := [f] }) :
    finishOrders u = finishOrder { u with event := some { ev with finishing := [] } } f := by
  simp only [finishOrders, modEvent, he]
  rfl

theorem activatedHere_iff (s : State) (ev : Event) (he : s.event = some ev) :
    activatedHere s = ev.causes.getLsbD 7 := by
  simp [activatedHere, he, hasCause, Cause.bit]

theorem finishOrders_read (u : State) (ev : Event) (e : Fin 16) (n : Nat) (v : Word64)
    (he : u.event = some { ev with finishing := [.read e n] })
    (hv : paramValue { u with event := some { ev with finishing := [] } } n = some v) :
    microStep .finishOrders u =
      complete e false .ok v ev.tOld { u with event := some { ev with finishing := [] } } := by
  rw [microStep_finishOrders, finishOrders_single u ev _ he, finishOrder, completeRead_value _ _ _ v hv,
    eventTime_of_event _ { ev with finishing := [] } rfl]
  rfl

theorem finishOrders_offset (u : State) (ev : Event) (e : Fin 16) (ch : Nat) (v : Int)
    (he : u.event = some { ev with finishing := [.offset e ch v] }) :
    microStep .finishOrders u =
      complete e false .ok (signedValue (if ev.causes.getLsbD 7 then configuredOffset u.store ch else v)) ev.tOld
        { u with event := some { ev with finishing := [] } } := by
  rw [microStep_finishOrders, finishOrders_single u ev _ he, finishOrder,
    activatedHere_iff _ { ev with finishing := [] } rfl, eventTime_of_event _ { ev with finishing := [] } rfl]
  rfl

/-! ## PARAM_WRITE (R173, R189, R190) -/

theorem carryOut_paramWrite (f : InFlight) (s : State) (h : f.kind = 7) :
    carryOut f s = writeParam f.entry (field f.params 0 4) (field f.params 4 4) s := by
  simp [carryOut, h, orderParamWrite, param32]

theorem writeParam_offset (e : Fin 16) (n value : Nat) (s : State) (h : 224 ≤ n ∧ n < 252) :
    writeParam e n value s = writeOffset e (n - 224) value s := by
  simp [writeParam, (isOffsetParam_iff n).mpr h]

theorem writeParam_setting (e : Fin 16) (m : Fin 4) (o value : Nat) (s : State) (h : o < 10) :
    writeParam e (256 + 16 * m.val + o) value s = writeSetting e m o value s := by
  obtain ⟨monitor, offset⟩ := paramMonitor_eq m o (by omega)
  have setting : isSettingParam (256 + 16 * m.val + o) = true := (isSettingParam_iff _).mpr (by omega)
  simp only [writeParam, isOffsetParam_of_setting (256 + 16 * m.val + o) (by omega), setting,
    Bool.false_eq_true, if_false, if_true, monitor, offset]

theorem writeParam_refused (e : Fin 16) (n value : Nat) (s : State) (h : isReadWrite n = false) :
    writeParam e n value s =
      completeFail e (if paramValue s n = none then .badParam else .readOnly) (eventTime s) s := by
  obtain ⟨offset, setting⟩ := (readOnly_iff n).mp h
  rcases found : paramValue s n with _ | v <;> simp [writeParam, offset, setting, found]

/-- R190: a setting is stored as the value clamped to its range. -/
theorem writeSetting_eq (e : Fin 16) (m : Fin 4) (o lo hi v value : Nat) (s : State)
    (hr : (lo, hi) = settingRange s.tb.nom60 o) (hv : v = max lo (min hi value)) :
    writeSetting e m o value s =
      complete e false (if v = value then .ok else .clamped) (BitVec.ofNat 64 v) (eventTime s)
        (s.setMonitor m { s.monitor m with stored := (s.monitor m).stored.put o v, dirty := true }) := by
  obtain ⟨ordered, small⟩ := settingRange_bounds s.tb.nom60 o
  rw [← hr] at ordered small
  have clamped : clampNat lo hi value = v := (clampNat_eq lo hi value ordered).trans hv.symm
  have word : v % 2 ^ 32 = v := Nat.mod_eq_of_lt (by simp only at ordered small; omega)
  simp only [writeSetting, ← hr, clamped, unsignedValue, word]

/-! ## The two commands at the order at the front of what is due -/

section Orders

variable (s : State) (e : Fin 16) (ds : List Due) (f : InFlight) (ev : Event) (n : Nat) (hd : s.due = .handOver e :: ds)
  (hf : s.inFlight e = some f) (he : s.event = some ev) (hn : n = field f.params 0 4)
include hd hf hn

theorem exec_paramRead (hk : f.kind = 6) :
    exec (.paramRead e) s = .next (advance (readParam e n { s with due := ds })) := by
  refine congrArg Host.Outcome.next ((perform_handsOver 6 s e ds f hd hf hk (by decide) (by decide)).trans ?_)
  rw [carryOut_paramRead f _ hk, inFlight_entry s e f hf, hn]

theorem exec_paramWrite (hk : f.kind = 7) :
    exec (.paramWrite e) s = .next (advance (writeParam e n (field f.params 4 4) { s with due := ds })) := by
  refine congrArg Host.Outcome.next ((perform_handsOver 7 s e ds f hd hf hk (by decide) (by decide)).trans ?_)
  rw [carryOut_paramWrite f _ hk, inFlight_entry s e f hf, hn]

include he

theorem exec_paramRead_setting (hk : f.kind = 6) (h : 256 ≤ n) (h' : n < 320) (ho : (n - 256) % 16 < 10) :
    exec (.paramRead e) s = .next (advance (complete e false .ok
      (unsignedValue ((s.monitor (paramMonitor n)).stored.get ((n - 256) % 16))) ev.tOld { s with due := ds })) := by
  rw [exec_paramRead s e ds f n hd hf hn hk, readParam_setting _ _ _ ((isSettingParam_iff n).mpr ⟨h, h', ho⟩),
    completeRead_value _ _ _ _ (paramValue_setting { s with due := ds } n h h' ho),
    eventTime_of_event { s with due := ds } ev he]
  rfl

theorem exec_paramRead_offset (hk : f.kind = 6) (h : 224 ≤ n ∧ n < 252) (v : Int)
    (hv : (∃ r, (s.channel (n - 224)).request = some r ∧ v = r.value) ∨
      (s.channel (n - 224)).request = none ∧ v = (s.channel (n - 224)).offset) :
    ((ev.kind ≠ .boundary ∨ ∃ r, (s.channel (n - 224)).request = some r ∧ r.late = true) →
      exec (.paramRead e) s = .next (advance (complete e false .ok (signedValue v) ev.tOld { s with due := ds }))) ∧
    (ev.kind = .boundary → (∀ r, (s.channel (n - 224)).request = some r → r.late = false) →
      exec (.paramRead e) s = .next (advance { s with
        due := ds, event := some { ev with finishing := ev.finishing ++ [.offset e (n - 224) v] } })) := by
  rw [exec_paramRead s e ds f n hd hf hn hk, readParam_offset _ _ _ h, ← storedOffset_eq _ v hv]
  refine ⟨fun settled => ?_, fun boundary early => ?_⟩
  · rw [readOffset_now e (n - 224) { s with due := ds } ev he settled]
    rfl
  · rw [readOffset_waits e (n - 224) { s with due := ds } ev he boundary early,
      finishLater_event { s with due := ds } ev he]
    rfl

theorem exec_paramRead_readOnly (hk : f.kind = 6) (hr : isReadWrite n = false) (v : Word64)
    (hv : paramValue s n = some v) : exec (.paramRead e) s = .next (advance { s with
      due := ds, event := some { ev with finishing := ev.finishing ++ [.read e n] } }) := by
  rw [exec_paramRead s e ds f n hd hf hn hk, readParam_readOnly e n { s with due := ds } v hr hv,
    finishLater_event { s with due := ds } ev he]

theorem exec_paramRead_none (hk : f.kind = 6) (hv : paramValue s n = none) :
    exec (.paramRead e) s = .next (advance (complete e true .badParam 0 ev.tOld { s with due := ds })) := by
  rw [exec_paramRead s e ds f n hd hf hn hk, readParam_none e n { s with due := ds } hv,
    completeRead_none e n { s with due := ds } hv, eventTime_of_event { s with due := ds } ev he]
  rfl

theorem exec_paramWrite_offset (hk : f.kind = 7) (h : 224 ≤ n ∧ n < 252) (w v : Int)
    (hw : w = signed 32 (field f.params 4 4)) (hv : v = clampInt (-2047) 2047 w) :
    exec (.paramWrite e) s = .next (advance (complete e false (if v = w then .ok else .clamped) (signedValue v) ev.tOld
      (requestOffset (n - 224) v false true { s with due := ds }))) := by
  rw [exec_paramWrite s e ds f n hd hf hn hk, writeParam_offset _ _ _ _ h, hv, hw, writeOffset,
    eventTime_of_event { s with due := ds } ev he]

theorem exec_paramWrite_setting (hk : f.kind = 7) (m : Fin 4) (o lo hi v : Nat) (ho : o < 10)
    (hm : n = 256 + 16 * m.val + o) (hr : (lo, hi) = settingRange s.tb.nom60 o)
    (hv : v = max lo (min hi (field f.params 4 4))) :
    exec (.paramWrite e) s = .next (advance (complete e false (if v = field f.params 4 4 then .ok else .clamped)
      (BitVec.ofNat 64 v) ev.tOld (State.setMonitor { s with due := ds } m { s.monitor m with
        stored := (s.monitor m).stored.put o v, dirty := true }))) := by
  rw [exec_paramWrite s e ds f n hd hf hn hk, hm, writeParam_setting e m o _ _ ho,
    writeSetting_eq e m o lo hi v _ { s with due := ds } hr hv, eventTime_of_event { s with due := ds } ev he]
  rfl

theorem exec_paramWrite_refused (hk : f.kind = 7) (hr : isReadWrite n = false) :
    exec (.paramWrite e) s = .next (advance (complete e true (if paramValue s n = none then .badParam else .readOnly) 0
      ev.tOld { s with due := ds })) := by
  rw [exec_paramWrite s e ds f n hd hf hn hk, writeParam_refused e n _ _ hr,
    eventTime_of_event { s with due := ds } ev he]
  rfl

end Orders

/-! ## Figures as the statement spells them -/

theorem ite_two_eq_flag (b : Bool) : (if b then 2 else 0) = 2 * flag b := by
  cases b <;> rfl

/-! ## The statement -/

/-- Settles O52: each order by the class of the number it names, and each figure by the block of its number. -/
theorem parametersAreReadAndWritten : Obligations.ParametersAreReadAndWritten := by
  refine ⟨fun s e ds f ev n hd hf he hn => ⟨exec_paramRead_setting s e ds f ev n hd hf he hn,
      fun hk h h' => exec_paramRead_offset s e ds f ev n hd hf he hn hk ⟨h, h'⟩,
      exec_paramRead_readOnly s e ds f ev n hd hf he hn,
      fun u w hw => hw ▸ ⟨fun hu v => finishOrders_read u ev e n v hu, finishOrders_offset u ev e⟩,
      exec_paramRead_none s e ds f ev n hd hf he hn,
      fun hk h h' => exec_paramWrite_offset s e ds f ev n hd hf he hn hk ⟨h, h'⟩,
      exec_paramWrite_setting s e ds f ev n hd hf he hn, fun hk hr hv => ?_, fun hk hr hv => ?_⟩,
    fun s => ⟨fun x hx => ?_, fun l x hx => ?_, fun m k hk x hx => ?_, paramValue_eq_none_iff s⟩, isReadWrite_iff,
    fun nom60 => ?_,
    fun k o v h => ⟨get_put_same k o v h, fun o' h' differs => get_put_other k o o' v h h' differs⟩⟩
  · rw [exec_paramWrite_refused s e ds f ev n hd hf he hn hk hr, if_neg hv]
  · rw [exec_paramWrite_refused s e ds f ev n hd hf he hn hk hr, if_pos hv]
  · obtain ⟨low, figure⟩ : x.1 < 32 ∧ engineParam s x.1 = some x.2 := by
      simp only [ite_two_eq_flag] at hx
      fin_cases hx <;> exact ⟨by norm_num, rfl⟩
    rw [paramValue_engine s x.1 low, figure]
    rfl
  · obtain ⟨small, figure⟩ : x.1 < 8 ∧ linkParam (s.link l) x.1 = x.2 := by
      fin_cases hx <;> exact ⟨by norm_num, rfl⟩
    rw [paramValue_link s l x.1 small, figure]
    rfl
  · obtain ⟨small, figure, setting⟩ :
        x.1 < 16 ∧ monitorParam (s.monitor m) x.1 = some x.2 ∧ (x.1 < 10 → k.get x.1 = x.2) := by
      subst hk
      fin_cases hx
      iterate 10 exact ⟨by norm_num, rfl, fun _ => rfl⟩
      iterate 3 exact ⟨by norm_num, rfl, fun settings => absurd settings (by norm_num)⟩
    rw [paramValue_monitor s m x.1 small, figure]
    exact ⟨rfl, setting⟩
  · cases nom60 <;> rfl

end Sys2Proof.Machine
end

section
/-! PROOF. The factory store load: its four transfers, answered or timed out, and the judgement of the identity block
(O5). -/

namespace Sys2Proof.Machine

/-! ## The two commands (R191) -/

section Transfers

variable (s : State) (stage : LoadStage) (i : Nat) (cause : ResetCause) (hp : s.phase = .loading stage i cause)
include hp

theorem elapse_loading (n : Nat) : elapse n s = { s with tick := s.tick + n } :=
  elapse_inReset n s (by simp [hp])

/-- An answer in less than 10 ms takes the load on with the words that it brings. -/
theorem exec_factoryTransferAnswered (dt : Nat) (words : List Word32) (ht : s.tick + dt < i + 100000) :
    exec (.factoryTransferAnswered dt words) s =
      .next (loadStep stage cause (some words) { s with tick := s.tick + dt }) := by
  show execFactoryTransferAnswered dt words s = _
  simp only [execFactoryTransferAnswered, elapse_loading s stage i cause hp, hp, transferTicks, ht, if_true]

/-- A transfer that fails does so 10 ms after its issue, or now where that has passed (log 1). -/
theorem exec_factoryTransferTimeout : exec .factoryTransferTimeout s =
    .next (loadStep stage cause none { s with tick := max s.tick (i + 100000) }) := by
  have instant := waitUntil_instant (i + 100000) s
  rw [waitUntil, elapse_loading s stage i cause hp] at instant
  show execFactoryTransferTimeout s = _
  simp only [execFactoryTransferTimeout, hp, transferTicks, waitUntil, elapse_loading s stage i cause hp, ← instant]

end Transfers

theorem exec_factoryTransferAnswered_running (s : State) (dt : Nat) (words : List Word32) (hp : s.phase = .running) :
    exec (.factoryTransferAnswered dt words) s = .next (elapse dt s) := by
  show execFactoryTransferAnswered dt words s = _
  simp only [execFactoryTransferAnswered, elapse_phase, hp]

theorem exec_factoryTransferTimeout_running (s : State) (hp : s.phase = .running) :
    exec .factoryTransferTimeout s = .next s := by
  show execFactoryTransferTimeout s = _
  simp only [execFactoryTransferTimeout, hp]

/-! ## The blocks (R192, R193) -/

theorem nextEpoch_eq (words : List Word32) : nextEpoch words =
    if words.length = 2 ∧ words.foldl (· + ·) 0 = 0xFFFFFFFF#32 then words.getD 0 0 + 1 else 1 := by
  simp [nextEpoch, checksumOk]

theorem epochBlock_eq (epoch : Word32) : epochBlock epoch = [epoch, 0xFFFFFFFF#32 - epoch] := by
  simp [epochBlock, checksumFor]

/-- The verify read finds what was written. -/
theorem verifyFails_eq (words : List Word32) (epoch : Word32) : decide (some words ≠ some (epochBlock epoch)) =
    decide (words ≠ [epoch, 0xFFFFFFFF#32 - epoch]) := by
  simp [epochBlock_eq]

theorem identityGood_iff (words : List Word32) : identityGood words = true ↔ words.length = 32 ∧
    words.foldl (· + ·) 0 = 0xFFFFFFFF#32 ∧ ∀ ch < 28, 16384 ≤ factoryGain words ch ∧ factoryGain words ch ≤ 49151 ∧
      -2047 ≤ factoryOffset words ch ∧ factoryOffset words ch ≤ 2047 := by
  simp [identityGood, checksumOk, and_assoc]

/-- A block is bad by its size, its checksum, or a gain or an offset out of range. -/
theorem identityGood_eq_false (words : List Word32) (h : words.length ≠ 32 ∨
    words.foldl (· + ·) 0 ≠ 0xFFFFFFFF#32 ∨ ∃ ch < 28, factoryGain words ch < 16384 ∨ 49151 < factoryGain words ch ∨
      factoryOffset words ch < -2047 ∨ 2047 < factoryOffset words ch) : identityGood words = false := by
  rw [← Bool.not_eq_true, identityGood_iff]
  rintro ⟨size, sum, ranges⟩
  rcases h with size' | sum' | ⟨ch, hch, range'⟩
  · exact size' size
  · exact sum' sum
  · have := ranges ch hch
    omega

theorem judgeIdentity_good (words : List Word32) (f : Factory) (h : identityGood words = true) :
    judgeIdentity words f = { f with
      serial := BitVec.ofNat 64 ((words.getD 0 0).toNat + 2 ^ 32 * (words.getD 1 0).toNat)
      revision := words.getD 2 0
      gains := (List.range 28).map (factoryGain words)
      offsets := (List.range 28).map (factoryOffset words)
      missing := false } := if_pos h

theorem judgeIdentity_bad (words : List Word32) (f : Factory) (h : identityGood words = false) :
    judgeIdentity words f = { f with
      serial := 0, revision := 0, gains := List.replicate 28 32768, offsets := List.replicate 28 0, missing := true } :=
  if_neg (by simp [h])

/-- The serial number is two words, the low one first. -/
theorem serial_toNat (a b : Word32) : (BitVec.ofNat 64 (a.toNat + 2 ^ 32 * b.toNat)).toNat =
    a.toNat + 2 ^ 32 * b.toNat := by
  have := a.isLt
  have := b.isLt
  rw [BitVec.toNat_ofNat]
  omega

/-! ## The statement -/

/-- Settles O5: each transfer by the stage of the load that it ends, and the identity block by whether it is good. -/
theorem factoryStoreLoadRuns : Obligations.FactoryStoreLoadRuns := by
  refine ⟨fun s dt i cause words ht => ⟨fun hp => ?_, fun hp => ?_, fun hp => ?_, fun hp => ?_,
      exec_factoryTransferAnswered_running s dt words⟩,
    fun s i cause => ⟨fun hp => ?_, fun hp => ?_, fun hp => ?_, fun hp => ?_,
      exec_factoryTransferTimeout_running s⟩,
    fun words old f gain offset hf hgain hoffset => ?_⟩
  · exact ⟨_, exec_factoryTransferAnswered s _ i cause hp dt words ht, rfl, rfl⟩
  · exact ⟨_, exec_factoryTransferAnswered s _ i cause hp dt words ht, rfl, nextEpoch_eq words⟩
  · exact ⟨_, exec_factoryTransferAnswered s _ i cause hp dt words ht, rfl, rfl, rfl⟩
  · exact ⟨_, exec_factoryTransferAnswered s _ i cause hp dt words ht, rfl, rfl, rfl,
      congrArg (s.store.factory.unsaved || ·) (verifyFails_eq words _), rfl, rfl⟩
  · exact ⟨_, exec_factoryTransferTimeout s _ i cause hp, rfl, rfl, rfl, rfl, rfl, rfl, rfl⟩
  · exact ⟨_, exec_factoryTransferTimeout s _ i cause hp, rfl, rfl, rfl⟩
  · exact ⟨_, exec_factoryTransferTimeout s _ i cause hp, rfl, rfl, rfl⟩
  · exact ⟨_, exec_factoryTransferTimeout s _ i cause hp, rfl, rfl, rfl, Bool.or_true _, rfl⟩
  · obtain rfl : gain = factoryGain words := funext hgain
    obtain rfl : offset = factoryOffset words := funext hoffset
    subst hf
    refine ⟨fun size sum ranges => ?_, fun bad => judgeIdentity_bad words old (identityGood_eq_false words bad)⟩
    rw [judgeIdentity_good words old ((identityGood_iff words).mpr ⟨size, sum, ranges⟩)]
    exact ⟨rfl, serial_toNat _ _, rfl, rfl, rfl, rfl, rfl⟩

end Sys2Proof.Machine
end

section
/-! PROOF. An activation replaces the configuration at every block that acts on it, and completes its order (O33). -/

namespace Sys2Proof.Machine

/-! ## The blocks after an activation -/

/-- R27, R35: the timebase, its day-of-week offset by whether a SET_TIME of the event stands over that of the new
configuration, its crossing list by whether the reference point stays. -/
def timebaseActivated (old : Option Cfg) (cfg : Cfg) (event : Option Event) (tb : Timebase) : Timebase :=
  { tb with
    dowOffset := if event.any (fun ev => ev.timeSet) then tb.dowOffset else cfg.dow
    crossings := if old.any (fun a => a.refPoint = cfg.refPoint) then tb.crossings else [] }

/-- R153: the filing unit, by whether the layout stays and whether a file is in transit. -/
def filingActivated (old : Option Cfg) (cfg : Cfg) (fl : Filing) : Filing :=
  if old.any (fun a => a.pageBase = cfg.pageBase && a.pageCount = cfg.pageCount) then fl
  else if fl.transit.isSome then { fl with layoutDue := true }
  else { fl with nextPage := 0, pageSeq := 0 }

/-- A TARIFF_SET of the event in hand (R103). -/
def tariffSetOf (event : Option Event) : Option (Option Nat) :=
  match event with
  | some ev => ev.tariffSet
  | none => none

/-- R104: the force that a TARIFF_SET of the event keeps over an activation: a slot below the new number of slots. -/
def keptForce (cfg : Cfg) (set : Option (Option Nat)) : Option Nat :=
  match set with
  | some (some n) => if n < cfg.slots then some n else none
  | _ => none

/-- R102, R104: the interval controller, its stepped slot taken from the kept force or from the active slot. -/
def intervalsActivated (cfg : Cfg) (set : Option (Option Nat)) (ic : IntervalControl) : IntervalControl :=
  { ic with
    forced := keptForce cfg set
    stepped :=
      if cfg.tariffSource = 1 then
        (keptForce cfg set).getD (if ic.activeSlot < cfg.slots then ic.activeSlot else 0)
      else ic.stepped }

/-- The state that an activation leaves with the channels `cs`, but for the completion of its order. -/
def activated (cs : List Channel) (cfg : Cfg) (s : State) : State := { activateStore cfg s with
  channels := cs
  tb := timebaseActivated s.store.active cfg s.event s.tb
  ic := intervalsActivated cfg (tariffSetOf s.event) s.ic
  filing := filingActivated s.store.active cfg s.filing }

/-! ## What each part of an activation changes -/

/-- R17: the request that an activation leaves: that of a PARAM_WRITE of the same boundary. -/
def lateRequest (r : Option OffsetRequest) : Option OffsetRequest :=
  match r with
  | some r => if r.late then some r else none
  | none => none

theorem filter_late_eq (r : Option OffsetRequest) : r.filter (fun r => r.late) = lateRequest r := by
  cases r <;> rfl

/-- R17: a channel whose offset an activation sets. -/
def Channel.activated (offset : Int) (c : Channel) : Channel :=
  { c with offset := offset, idleCount := 0, mark := false, request := lateRequest c.request }

/-- Setting the offsets changes the channels alone, and not their number. -/
theorem foldl_activateOffset (chs : List Nat) (s : State) : ∃ cs, cs.length = s.channels.length ∧
    chs.foldl activateOffset s = { s with channels := cs } := by
  refine foldl_keeps (fun t => ∃ cs, cs.length = s.channels.length ∧ t = { s with channels := cs }) _ ?_ chs s
    ⟨s.channels, rfl, rfl⟩
  rintro _ ch ⟨cs, same, rfl⟩
  exact ⟨_, List.length_set.trans same, rfl⟩

/-- Each channel of the list is set once. -/
theorem channel_foldl_activateOffset (chs : List Nat) (once : chs.Nodup) (s : State) (ch : Nat) (h : ch ∈ chs)
    (inside : ch < s.channels.length) :
    (chs.foldl activateOffset s).channel ch = (s.channel ch).activated (configuredOffset s.store ch) := by
  refine channel_foldl_visited activateOffset (fun c => c)
    (fun t => t.store = s.store ∧ t.channels.length = s.channels.length)
    (fun t a ⟨store, same⟩ => ⟨store, (setChannel_length t a _).trans same⟩)
    (fun t a c other => channel_setChannel_of_ne t a c _ other) ch (s.channel ch) _ (fun t ⟨store, same⟩ at' => ?_)
    chs h (by simpa using once) s ⟨rfl, rfl⟩ rfl
  rw [activateOffset, channel_setChannel_self _ _ _ (same ▸ inside), at', store, filter_late_eq]
  rfl

theorem activateClock_set (cfg : Cfg) (s : State) (h : s.event.any (fun ev => ev.timeSet) = true) :
    activateClock cfg s = s := by
  unfold activateClock
  rcases he : s.event with _ | ev
  · simp [he] at h
  · have set : ev.timeSet = true := by simpa [he] using h
    exact if_pos set

theorem activateClock_loads (cfg : Cfg) (s : State) (h : s.event.any (fun ev => ev.timeSet) = false) :
    activateClock cfg s = { s with tb := { s.tb with dowOffset := cfg.dow } } := by
  unfold activateClock
  rcases he : s.event with _ | ev
  · exact if_neg (by simp)
  · have unset : ev.timeSet = false := by simpa [he] using h
    exact if_neg (by simp [unset])

theorem activateTimebase_eq (old : Option Cfg) (cfg : Cfg) (s : State) :
    activateReference old cfg (activateClock cfg s) =
      { s with tb := timebaseActivated old cfg s.event s.tb } := by
  unfold activateReference timebaseActivated
  cases set : s.event.any (fun ev => ev.timeSet)
  · rw [activateClock_loads cfg s set]
    split <;> rfl
  · rw [activateClock_set cfg s set]
    split <;> rfl

theorem activateLayout_eq (old : Option Cfg) (cfg : Cfg) (s : State) :
    activateLayout old cfg s = { s with filing := filingActivated old cfg s.filing } := by
  unfold activateLayout changeLayout filingActivated
  split_ifs <;> rfl

theorem activateTariff_eq (cfg : Cfg) (s : State) (h : s.store.active = some cfg) :
    activateTariff s = { s with ic := intervalsActivated cfg (tariffSetOf s.event) s.ic } := by
  unfold activateTariff
  simp only [tariffSlots_active _ cfg h, tariffSync_active _ cfg h, decide_eq_true_eq]
  rfl

theorem eventTime_congr (s t : State) (he : t.event = s.event) (ha : t.asOf = s.asOf) (ht : t.tick = s.tick)
    (hv : t.tb.timeValue = s.tb.timeValue) (hm : t.tb.subMs = s.tb.subMs) : eventTime t = eventTime s := by
  simp only [eventTime, partTime, Timebase.timeAgo, he, ha, ht, hv, hm]

/-- R184: an activation sets the offset of each of the 28 channels, and leaves every block as `activated` gives it. -/
theorem activate_eq (cfg : Cfg) (e : Fin 16) (s : State) : ∃ cs, cs.length = s.channels.length ∧
    (∀ ch < 28, ch < s.channels.length →
      cs.getD ch {} = (s.channel ch).activated (configuredOffset (activateStore cfg s).store ch)) ∧
    activate cfg e s = complete e false .ok (cfg.generation.zeroExtend 64) (eventTime s) (activated cs cfg s) := by
  obtain ⟨cs, same, offsets⟩ := foldl_activateOffset (List.range 28) (activateStore cfg s)
  refine ⟨cs, same, fun ch h inside => ?_, ?_⟩
  · have set := channel_foldl_activateOffset (List.range 28) List.nodup_range (activateStore cfg s) ch
      (List.mem_range.mpr h) inside
    rw [offsets] at set
    exact set
  · have time : eventTime { activateStore cfg s with
        channels := cs
        tb := timebaseActivated s.store.active cfg s.event s.tb
        filing := filingActivated s.store.active cfg s.filing } = eventTime s :=
      eventTime_congr s _ rfl rfl rfl rfl rfl
    rw [activate, completeOk, offsets, activateTimebase_eq, activateLayout_eq, activateTariff_eq cfg _ rfl]
    exact congrArg (fun t => complete e false .ok _ t (activated cs cfg s)) time

/-! ## The figures of each block -/

section Intervals

variable (cfg : Cfg) (ic : IntervalControl)

theorem intervalsActivated_kept (n : Nat) (h : n < cfg.slots) :
    (intervalsActivated cfg (some (some n)) ic).forced = some n ∧
      (intervalsActivated cfg (some (some n)) ic).stepped = if cfg.tariffSource = 1 then n else ic.stepped := by
  have kept : keptForce cfg (some (some n)) = some n := if_pos h
  simp only [intervalsActivated, kept, Option.getD_some, and_self]

theorem intervalsActivated_released (set : Option (Option Nat)) (h : ∀ n, set = some (some n) → cfg.slots ≤ n) :
    (intervalsActivated cfg set ic).forced = none ∧ (intervalsActivated cfg set ic).stepped =
      if cfg.tariffSource = 1 then (if ic.activeSlot < cfg.slots then ic.activeSlot else 0) else ic.stepped := by
  have released : keptForce cfg set = none := by
    rcases set with _ | _ | n
    · rfl
    · rfl
    · exact if_neg (h n rfl).not_gt
  simp only [intervalsActivated, released, Option.getD_none, and_self]

end Intervals

section Clock

variable (old : Option Cfg) (cfg : Cfg) (event : Option Event) (tb : Timebase)

theorem dowOffset_activated (h : ∀ ev, event = some ev → ev.timeSet = false) :
    (timebaseActivated old cfg event tb).dowOffset = cfg.dow := by
  refine if_neg ?_
  rw [Bool.not_eq_true, Option.any_eq_false]
  simpa using h

theorem dowOffset_activated_set (ev : Event) (he : event = some ev) (h : ev.timeSet = true) :
    (timebaseActivated old cfg event tb).dowOffset = tb.dowOffset :=
  if_pos (by simp [he, h])

theorem crossings_activated (h : ∀ a, old = some a → a.refPoint ≠ cfg.refPoint) :
    (timebaseActivated old cfg event tb).crossings = [] := by
  refine if_neg ?_
  rw [Bool.not_eq_true, Option.any_eq_false]
  simpa using h

theorem crossings_activated_same (a : Cfg) (ha : old = some a) (h : a.refPoint = cfg.refPoint) :
    (timebaseActivated old cfg event tb).crossings = tb.crossings :=
  if_pos (by simp [ha, h])

end Clock

section Filing

variable (old : Option Cfg) (cfg : Cfg) (fl : Filing)

theorem filingActivated_same (a : Cfg) (ha : old = some a) (base : a.pageBase = cfg.pageBase)
    (count : a.pageCount = cfg.pageCount) : filingActivated old cfg fl = fl :=
  if_pos (by simp [ha, base, count])

theorem filingActivated_changed
    (h : ∀ a, old = some a → a.pageBase ≠ cfg.pageBase ∨ a.pageCount ≠ cfg.pageCount) :
    (fl.transit = none → filingActivated old cfg fl = { fl with nextPage := 0, pageSeq := 0 }) ∧
      (fl.transit ≠ none → filingActivated old cfg fl = { fl with layoutDue := true }) := by
  have differs : ¬old.any (fun a => a.pageBase = cfg.pageBase && a.pageCount = cfg.pageCount) = true := by
    rw [Bool.not_eq_true, Option.any_eq_false]
    intro a ha
    simp only [Bool.and_eq_false_iff, decide_eq_false_iff_not]
    exact h a ha
  rw [filingActivated, if_neg differs]
  exact ⟨fun idle => if_neg (by simp [idle]), fun busy => if_pos (Option.isSome_iff_ne_none.mpr busy)⟩

end Filing

/-! ## The order's completion (R163, R185) -/

/-- With no index in flight twice, a completion leaves its entry completed, and joins the queue where it was not. -/
theorem complete_once (e : Fin 16) (failed : Bool) (code : ResultCode) (value : Word64) (time : Nat) (s : State)
    (once : entriesOnce s) : ∃ o, complete e failed code value time s = { s with orders := o } ∧
      (∀ f ∈ o.inFlight, f.entry = e → f.completed = true) ∧
      (∀ f, s.inFlight e = some f → f.completed = false → o.queue = s.orders.queue ++ [.completion e
        { failed, code, value, time, tag := f.tag } false]) := by
  refine ⟨_, complete_only e failed code value time s, fun f hf entry => ?_, fun f hf hc => ?_⟩
  · obtain ⟨g, -, rfl⟩ := mem_inFlight_complete e failed code value time s once f hf
    exact g.mark_completed e (.inl ((g.mark_entry e).symm.trans entry))
  · obtain ⟨h, made⟩ := complete_open e failed code value time s f hf hc
    rw [made]

/-! ## The statement -/

theorem exec_configActivation (s : State) (cfg : Cfg) (e : Fin 16) (ds : List Due)
    (hd : s.due = .activate cfg e :: ds) :
    exec .configActivation s = .next (advance (activate cfg e { s with due := ds })) :=
  congrArg Host.Outcome.next (perform_front _ s _ ds hd rfl rfl)

/-- Settles O33: the activation is `activated` with the completion of its order, taken block by block. -/
theorem configurationBecomesActive : Obligations.ConfigurationBecomesActive := by
  intro s cfg e ds hd once
  obtain ⟨cs, same, offsets, becomes⟩ := activate_eq cfg e { s with due := ds }
  obtain ⟨o, made, completed, queued⟩ := complete_once e false .ok (cfg.generation.zeroExtend 64)
    (eventTime { s with due := ds }) (activated cs cfg { s with due := ds }) once
  refine ⟨{ activated cs cfg { s with due := ds } with orders := o }, ?_, rfl, rfl, rfl, rfl, rfl, same,
    offsets, fun ch _ => rfl, ?_, rfl,
    dowOffset_activated _ cfg _ _, dowOffset_activated_set _ cfg _ _,
    crossings_activated _ cfg _ _, crossings_activated_same _ cfg _ _, rfl,
    filingActivated_changed _ cfg _, filingActivated_same _ cfg _, completed, queued, rfl, rfl, rfl, rfl⟩
  · rw [exec_configActivation s cfg e ds hd, becomes, made]
  · rintro set rfl
    refine ⟨fun n hn inside => ?_, intervalsActivated_released cfg s.ic _⟩
    have kept := intervalsActivated_kept cfg s.ic n inside
    rwa [← hn] at kept

end Sys2Proof.Machine
end

section
/-! PROOF. The judgement of a configuration block (O34): its checked fields stand in the order of their numbers, each
block of numbers in a span of its own, so that a number names one field. -/

namespace Sys2Proof.Machine

/-! ## Fields in the order of their numbers -/

/-- The numbers of a list of fields increase, from `lo` on and below `hi`. -/
def numbered (lo hi : Nat) (l : List (Nat × Bool)) : Prop :=
  l.Pairwise (fun x y => x.1 < y.1) ∧ ∀ x ∈ l, lo ≤ x.1 ∧ x.1 < hi

theorem numbered_nil (lo hi : Nat) : numbered lo hi [] := ⟨List.Pairwise.nil, by simp⟩

theorem numbered_mono {lo hi hi' : Nat} {l : List (Nat × Bool)} (h : numbered lo hi l) (le : hi ≤ hi') :
    numbered lo hi' l := ⟨h.1, fun x hx => (h.2 x hx).imp_right (·.trans_le le)⟩

theorem numbered_append {lo mid mid' hi : Nat} {l m : List (Nat × Bool)} (hl : numbered lo mid l)
    (hm : numbered mid' hi m) (hlo : lo ≤ mid') (hmid : mid ≤ mid') (hhi : mid ≤ hi) : numbered lo hi (l ++ m) := by
  obtain ⟨sortedl, spanl⟩ := hl
  obtain ⟨sortedm, spanm⟩ := hm
  refine ⟨List.pairwise_append.mpr ⟨sortedl, sortedm, fun x hx y hy => ?_⟩, fun x hx => ?_⟩
  · have := spanl x hx
    have := spanm y hy
    omega
  · rcases List.mem_append.mp hx with left | right
    · have := spanl x left
      omega
    · have := spanm x right
      omega

/-- Blocks of fields that take `w` numbers each. -/
theorem numbered_flatMap (lo w n hi : Nat) (f : Nat → List (Nat × Bool)) (hhi : lo + w * n ≤ hi)
    (h : ∀ i < n, numbered (lo + w * i) (lo + w * (i + 1)) (f i)) : numbered lo hi ((List.range n).flatMap f) := by
  induction n generalizing hi with
  | zero => exact numbered_nil _ _
  | succ n ih =>
    rw [List.range_succ, List.flatMap_append, List.flatMap_singleton]
    have last : w * n ≤ w * (n + 1) := Nat.mul_le_mul_left w (Nat.le_succ n)
    exact numbered_append (ih (lo + w * n) le_rfl fun i hi => h i (by omega)) (numbered_mono (h n (by omega)) hhi)
      (by omega) le_rfl (by omega)

/-- A number stands once. -/
theorem numbered_unique {lo hi n : Nat} {b c : Bool} {l : List (Nat × Bool)} (h : numbered lo hi l)
    (hb : (n, b) ∈ l) (hc : (n, c) ∈ l) : b = c := by
  have once : (l.map (fun x => x.1)).Nodup := List.pairwise_map.mpr (h.1.imp Nat.ne_of_lt)
  exact congrArg Prod.snd (List.inj_on_of_nodup_map once hb hc rfl)

/-- The first failing field in the order of the numbers is the lowest. -/
theorem find_lowest (n : Nat) : ∀ l : List (Nat × Bool), l.Pairwise (fun x y => x.1 < y.1) → (n, false) ∈ l →
    (∀ k, (k, false) ∈ l → n ≤ k) → l.find? (fun f => !f.2) = some (n, false)
  | (k, true) :: l, sorted, member, lowest => by
    rw [List.find?_cons_of_neg (by simp)]
    refine find_lowest n l (List.pairwise_cons.mp sorted).2 (by simpa using member) fun j hj => ?_
    exact lowest j (List.mem_cons_of_mem _ hj)
  | (k, false) :: l, sorted, member, lowest => by
    rw [List.find?_cons_of_pos (by simp)]
    have first := lowest k List.mem_cons_self
    rcases List.mem_cons.mp member with here | later
    · rw [here]
    · have := (List.pairwise_cons.mp sorted).1 _ later
      omega

/-! ## The blocks of fields (R181 to R183) -/

theorem engineFields_numbered (cfg : Cfg) : numbered 2 18 (engineFields cfg) := by
  simp [numbered, engineFields]

theorem chanFields_numbered (p c : Nat) (k : ChanCfg) :
    numbered (22 + 23 * p + 3 * c) (22 + 23 * p + 3 * (c + 1)) (chanFields p c k) := by
  simp [numbered, chanFields]
  omega

theorem pointChans_numbered (p : Nat) (k : PointCfg) : numbered (22 + 23 * p) (20 + 23 * (p + 1))
    ((List.range 7).flatMap (fun c => chanFields p c (k.chans.getD c {}))) :=
  numbered_flatMap _ 3 7 _ _ (by omega) fun c _ => chanFields_numbered p c _

theorem pointFields_numbered (cfg : Cfg) (p : Nat) :
    numbered (20 + 23 * p) (20 + 23 * (p + 1)) (pointFields cfg p) := by
  refine numbered_append (mid := 22 + 23 * p) ?_ (pointChans_numbered p _) (by omega) le_rfl (by omega)
  simp [numbered]

theorem calendarFields_numbered (cfg : Cfg) (e : Nat) :
    numbered (120 + 3 * e) (120 + 3 * (e + 1)) (calendarFields cfg e) := by
  simp [numbered, calendarFields]
  omega

theorem limitFields_numbered (cfg : Cfg) : numbered 232 281 (limitFields cfg) := by
  refine ⟨List.pairwise_map.mpr (List.pairwise_lt_range.imp fun h => by simpa using h), fun x hx => ?_⟩
  obtain ⟨j, hj, rfl⟩ := List.mem_map.mp hx
  have := List.mem_range.mp hj
  simp only
  omega

/-- R183: an entry is checked where the source is CALENDAR and the entry is one of the count. -/
theorem lt_checkedEntries_iff (cfg : Cfg) (e : Nat) : e < (checkedEntries cfg).length ↔
    cfg.tariffSource = 0 ∧ e < cfg.calendarCount ∧ e < cfg.calendar.length := by
  unfold checkedEntries
  split <;> simp [*]

theorem checkedEntries_few (cfg : Cfg) (h : cfg.calendar.length ≤ 32) : (checkedEntries cfg).length ≤ 32 := by
  by_contra more
  have := (lt_checkedEntries_iff cfg 32).mp (by omega)
  omega

theorem checkedEntries_getD (cfg : Cfg) (e : Nat) (h : e < (checkedEntries cfg).length) :
    (checkedEntries cfg).getD e {} = cfg.calendar.getD e {} := by
  obtain ⟨source, count, -⟩ := (lt_checkedEntries_iff cfg e).mp h
  simp [checkedEntries, source, List.getD_eq_getElem?_getD, List.getElem?_take_of_lt count]

theorem allPoints_numbered (cfg : Cfg) : numbered 20 112 ((List.range 4).flatMap (pointFields cfg)) :=
  numbered_flatMap 20 23 4 _ _ le_rfl fun p _ => pointFields_numbered cfg p

theorem allEntries_numbered (cfg : Cfg) : numbered 120 (120 + 3 * (checkedEntries cfg).length)
    ((List.range (checkedEntries cfg).length).flatMap (calendarFields cfg)) :=
  numbered_flatMap 120 3 _ _ _ le_rfl fun e _ => calendarFields_numbered cfg e

theorem checkedFields_numbered (cfg : Cfg) (h : cfg.calendar.length ≤ 32) : numbered 2 281 (checkedFields cfg) := by
  have few := checkedEntries_few cfg h
  refine numbered_append (mid := 216) (mid' := 232) ?_ (limitFields_numbered cfg) (by omega) (by omega) (by omega)
  refine numbered_append (mid := 112) ?_ (numbered_mono (allEntries_numbered cfg) (by omega)) (by omega) (by omega)
    (by omega)
  exact numbered_append (engineFields_numbered cfg) (allPoints_numbered cfg) (by omega) (by omega) (by omega)

/-! ## The numbers there are -/

theorem engineFields_span (cfg : Cfg) (x : Nat × Bool) (hx : x ∈ engineFields cfg) :
    (2 ≤ x.1 ∧ x.1 ≤ 10) ∨ (12 ≤ x.1 ∧ x.1 ≤ 17) := by
  have number : x.1 ∈ [2, 3, 4, 5, 6, 7, 8, 9, 10, 12, 13, 14, 15, 16, 17] :=
    List.mem_map_of_mem (f := fun f : Nat × Bool => f.1) hx
  simp only [List.mem_cons, List.not_mem_nil, or_false] at number
  omega

theorem checkedFields_span (cfg : Cfg) (x : Nat × Bool) (hx : x ∈ checkedFields cfg) :
    (2 ≤ x.1 ∧ x.1 ≤ 10) ∨ (12 ≤ x.1 ∧ x.1 ≤ 17) ∨ (20 ≤ x.1 ∧ x.1 < 112) ∨
      (120 ≤ x.1 ∧ x.1 < 120 + 3 * (checkedEntries cfg).length) ∨ (232 ≤ x.1 ∧ x.1 < 281) := by
  simp only [checkedFields, List.mem_append] at hx
  rcases hx with ((engine | point) | entry) | limit
  · have := engineFields_span cfg x engine
    omega
  · have := (allPoints_numbered cfg).2 x point
    omega
  · have := (allEntries_numbered cfg).2 x entry
    omega
  · have := (limitFields_numbered cfg).2 x limit
    omega

/-! ## Where a field stands -/

section Members

variable (cfg : Cfg) (x : Nat × Bool)

theorem mem_checkedFields_engine (h : x ∈ engineFields cfg) : x ∈ checkedFields cfg := by
  simp only [checkedFields, List.mem_append]
  exact .inl (.inl (.inl h))

theorem mem_checkedFields_point (p : Nat) (hp : p < 4) (h : x ∈ pointFields cfg p) : x ∈ checkedFields cfg := by
  simp only [checkedFields, List.mem_append]
  exact .inl (.inl (.inr (List.mem_flatMap.mpr ⟨p, List.mem_range.mpr hp, h⟩)))

theorem mem_checkedFields_chan (p c : Nat) (hp : p < 4) (hc : c < 7)
    (h : x ∈ chanFields p c ((cfg.point p).chans.getD c {})) : x ∈ checkedFields cfg :=
  mem_checkedFields_point cfg x p hp
    (List.mem_append_right _ (List.mem_flatMap.mpr ⟨c, List.mem_range.mpr hc, h⟩))

theorem mem_checkedFields_calendar (e : Nat) (he : e < (checkedEntries cfg).length) (h : x ∈ calendarFields cfg e) :
    x ∈ checkedFields cfg := by
  simp only [checkedFields, List.mem_append]
  exact .inl (.inr (List.mem_flatMap.mpr ⟨e, List.mem_range.mpr he, h⟩))

theorem mem_checkedFields_limit (j : Nat) (hj : j < 49) :
    (232 + j, inRange 0 10000 (cfg.limits.getD j 0)) ∈ checkedFields cfg :=
  List.mem_append_right _ (List.mem_map.mpr ⟨j, List.mem_range.mpr hj, rfl⟩)

end Members

/-! ## Which fields fail -/

theorem inRange_eq_false (lo hi v : Nat) : inRange lo hi v = false ↔ ¬(lo ≤ v ∧ v ≤ hi) := by
  rw [← Bool.not_eq_true, inRange, Bool.and_eq_true, decide_eq_true_iff, decide_eq_true_iff]

theorem inRange_zero_eq_false (hi v : Nat) : inRange 0 hi v = false ↔ hi < v := by
  rw [inRange_eq_false]
  omega

/-- R183: two entries collide where they share a day of the week and the minute. -/
theorem collide_iff (a b : CalEntry) (h : b.dayMask ≤ 127) : collide a b = true ↔
    a.minute = b.minute ∧ ∃ d < 7, a.dayMask.testBit d = true ∧ b.dayMask.testBit d = true := by
  have shared : a.dayMask &&& b.dayMask ≠ 0 ↔
      ∃ d < 7, a.dayMask.testBit d = true ∧ b.dayMask.testBit d = true := by
    refine ⟨fun nonzero => ?_, fun ⟨d, _, inA, inB⟩ zero => ?_⟩
    · obtain ⟨d, bit⟩ := Nat.exists_testBit_of_ne_zero nonzero
      rw [Nat.testBit_and, Bool.and_eq_true] at bit
      refine ⟨d, ?_, bit⟩
      by_contra high
      have small : b.dayMask < 2 ^ d := (Nat.lt_succ_of_le h).trans_le
        (Nat.pow_le_pow_right (by norm_num : 0 < 2) (by omega : 7 ≤ d))
      rw [Nat.testBit_lt_two_pow small] at bit
      exact absurd bit.2 (by simp)
    · have bit := congrArg (fun n => n.testBit d) zero
      simp [inA, inB] at bit
  rw [collide, Bool.and_eq_true, decide_eq_true_iff, decide_eq_true_iff, shared]

/-- R183: the day mask of a checked entry. -/
theorem dayMask_fails_iff (cfg : Cfg) (e : Nat) (k : CalEntry) (he : e < (checkedEntries cfg).length) :
    (inRange 1 127 k.dayMask && !((checkedEntries cfg).take e).any (fun a => collide a k)) = false ↔
      ¬(1 ≤ k.dayMask ∧ k.dayMask ≤ 127) ∨ ∃ e' < e, (cfg.calendar.getD e' {}).minute = k.minute ∧
        ∃ d < 7, (cfg.calendar.getD e' {}).dayMask.testBit d = true ∧ k.dayMask.testBit d = true := by
  have earlier : ((checkedEntries cfg).take e).any (fun a => collide a k) = true ↔
      ∃ e' < e, collide (cfg.calendar.getD e' {}) k = true := by
    rw [List.any_eq_true]
    refine ⟨fun ⟨a, member, clash⟩ => ?_, fun ⟨e', he', clash⟩ => ⟨_, ?_, clash⟩⟩
    · obtain ⟨e', he', rfl⟩ := List.mem_take_iff_getElem.mp member
      refine ⟨e', by omega, ?_⟩
      rwa [← checkedEntries_getD cfg e' (by omega), List.getD_eq_getElem _ _ (by omega)]
    · rw [← checkedEntries_getD cfg e' (by omega), List.getD_eq_getElem _ _ (by omega)]
      exact List.mem_take_iff_getElem.mpr ⟨e', by omega, rfl⟩
  rw [Bool.and_eq_false_iff, inRange_eq_false, Bool.not_eq_false', earlier]
  by_cases mask : 1 ≤ k.dayMask ∧ k.dayMask ≤ 127
  · simp only [collide_iff _ k mask.2]
  · exact iff_of_true (.inl mask) (.inl mask)

section Fails

variable (cfg : Cfg) (h : cfg.calendar.length ≤ 32)
include h

/-- A number fails where the field that it names does. -/
theorem field_fails_iff (n : Nat) (v : Bool) (hv : (n, v) ∈ checkedFields cfg) :
    (n, false) ∈ checkedFields cfg ↔ v = false :=
  ⟨fun fails => numbered_unique (checkedFields_numbered cfg h) hv fails, fun fails => fails ▸ hv⟩

theorem engineField_fails_iff (i n : Nat) (v : Bool) (hi : (engineFields cfg)[i]? = some (n, v)) :
    (n, false) ∈ checkedFields cfg ↔ v = false :=
  field_fails_iff cfg h n v (mem_checkedFields_engine cfg _ (List.mem_of_getElem? hi))

theorem pointField_fails_iff (p : Nat) (hp : p < 4) (i n : Nat) (v : Bool)
    (hi : (pointFields cfg p)[i]? = some (n, v)) : (n, false) ∈ checkedFields cfg ↔ v = false :=
  field_fails_iff cfg h n v (mem_checkedFields_point cfg _ p hp (List.mem_of_getElem? hi))

theorem chanField_fails_iff (p c : Nat) (hp : p < 4) (hc : c < 7) (i n : Nat) (v : Bool)
    (hi : (chanFields p c ((cfg.point p).chans.getD c {}))[i]? = some (n, v)) :
    (n, false) ∈ checkedFields cfg ↔ v = false :=
  field_fails_iff cfg h n v (mem_checkedFields_chan cfg _ p c hp hc (List.mem_of_getElem? hi))

/-- The fields of a calendar entry: those of an entry that is not checked never fail. -/
theorem calendarField_fails_iff (e : Nat) (he : e < 32) (i n : Nat) (v : Bool)
    (hi : (calendarFields cfg e)[i]? = some (n, v)) :
    (n, false) ∈ checkedFields cfg ↔ e < (checkedEntries cfg).length ∧ v = false := by
  have member : (n, v) ∈ calendarFields cfg e := List.mem_of_getElem? hi
  by_cases checked : e < (checkedEntries cfg).length
  · rw [field_fails_iff cfg h n v (mem_checkedFields_calendar cfg _ e checked member), and_iff_right checked]
  · refine iff_of_false (fun fails => ?_) fun ⟨inside, _⟩ => checked inside
    have span := checkedFields_span cfg _ fails
    have number := (calendarFields_numbered cfg e).2 _ member
    simp only at span number
    omega

end Fails

/-! ## The three steps of the judgement (R180) -/

theorem divisorClash_eq_false_iff (st : ConfigStore) (cfg : Cfg) :
    divisorClash st cfg = false ↔ ∀ d, st.divisor = some d → cfg.divisor = d := by
  unfold divisorClash
  cases st.divisor <;> simp

theorem layoutDiffers_iff (st : ConfigStore) (cfg : Cfg) : layoutDiffers st cfg = true ↔ ∃ a, st.active = some a ∧
    (cfg.pageBase ≠ a.pageBase ∨ cfg.pageCount ≠ a.pageCount ∨ cfg.enabledMask ≠ a.enabledMask) := by
  unfold layoutDiffers
  cases st.active <;> simp [or_assoc]

theorem failingField_lowest (cfg : Cfg) (h : cfg.calendar.length ≤ 32) (n : Nat)
    (hn : (n, false) ∈ checkedFields cfg) (lowest : ∀ k, (k, false) ∈ checkedFields cfg → n ≤ k) :
    failingField cfg = some n := by
  obtain ⟨sorted, -⟩ := checkedFields_numbered cfg h
  rw [failingField, find_lowest n _ sorted hn lowest, Option.map_some]

theorem failingField_none (cfg : Cfg) (h : ∀ k, (k, false) ∉ checkedFields cfg) : failingField cfg = none := by
  rw [failingField, Option.map_eq_none_iff, List.find?_eq_none]
  rintro ⟨k, _ | _⟩ member
  · exact absurd member (h k)
  · simp

section Judge

variable (st : ConfigStore) (running : Bool) (cfg : Cfg)

theorem judge_divisorFixed (d : Nat) (hd : st.divisor = some d) (differs : cfg.divisor ≠ d) :
    judge st running cfg = some (.divisorFixed, 0) := by
  have clash : divisorClash st cfg = true := by simp [divisorClash, hd, differs]
  rw [judge, if_pos clash]

variable (fixed : ∀ d, st.divisor = some d → cfg.divisor = d)
include fixed

theorem judge_badConfig (n : Nat) (hn : failingField cfg = some n) :
    judge st running cfg = some (.badConfig, BitVec.ofNat 64 n) := by
  simp [judge, (divisorClash_eq_false_iff st cfg).mpr fixed, hn]

theorem judge_layout (hn : failingField cfg = none) :
    judge st running cfg = if running && layoutDiffers st cfg then some (.badState, 0) else none := by
  simp [judge, (divisorClash_eq_false_iff st cfg).mpr fixed, hn]

end Judge

/-! ## The statement -/

/-- Settles O34: the judgement by its steps, and each clause of the fields by the field that its number names. -/
theorem judgementGoesStepByStep : Obligations.JudgementGoesStepByStep := by
  intro st running cfg h
  have engine := engineField_fails_iff cfg h
  refine ⟨judge_divisorFixed st running cfg,
    fun n fixed hn lowest => judge_badConfig st running cfg fixed n (failingField_lowest cfg h n hn lowest),
    fun fixed valid => ?_,
    (engine 0 2 _ rfl).trans (inRange_eq_false ..), (engine 1 3 _ rfl).trans ?_, (engine 2 4 _ rfl).trans ?_,
    (engine 3 5 _ rfl).trans (inRange_eq_false ..), (engine 4 6 _ rfl).trans ?_,
    (engine 5 7 _ rfl).trans (inRange_zero_eq_false ..), (engine 6 8 _ rfl).trans (inRange_zero_eq_false ..),
    (engine 7 9 _ rfl).trans (inRange_eq_false ..), (engine 8 10 _ rfl).trans (inRange_zero_eq_false ..),
    (engine 9 12 _ rfl).trans (inRange_zero_eq_false ..), (engine 10 13 _ rfl).trans (inRange_zero_eq_false ..),
    (engine 11 14 _ rfl).trans ?_, (engine 12 15 _ rfl).trans (inRange_eq_false ..), (engine 13 16 _ rfl).trans ?_,
    (engine 14 17 _ rfl).trans (inRange_zero_eq_false ..), fun p hp => ⟨?_, ?_, ?_⟩, ?_, fun j hj hj' => ?_,
    fun k hk => ?_⟩
  · rw [judge_layout st running cfg fixed (failingField_none cfg valid)]
    simp only [← layoutDiffers_iff, ← Bool.and_eq_true]
    split
    · next differs => exact ⟨iff_of_true rfl differs, .inr rfl⟩
    · next same => exact ⟨iff_of_false (by simp) same, .inl rfl⟩
  · simp only [Bool.and_eq_false_iff, inRange_zero_eq_false, subMask, decide_eq_false_iff_not]
    omega
  · simp only [Bool.and_eq_false_iff, inRange_zero_eq_false, not_and_or, not_le, Bool.not_eq_true]
  · simp only [List.contains_eq_mem, decide_eq_false_iff_not]
  · simp only [Bool.and_eq_false_iff, decide_eq_false_iff_not, not_and_or, or_assoc]
  · simp only [Bool.or_eq_false_iff, decide_eq_false_iff_not, inRange_eq_false, ne_eq]
  · exact (pointField_fails_iff cfg h p hp 0 _ _ rfl).trans (inRange_eq_false ..)
  · exact (pointField_fails_iff cfg h p hp 1 _ _ rfl).trans (inRange_eq_false ..)
  · rintro c hc k rfl
    have chan := chanField_fails_iff cfg h p c hp hc
    refine ⟨(chan 0 _ _ rfl).trans ?_, (chan 1 _ _ rfl).trans ?_, (chan 2 _ _ rfl).trans (inRange_zero_eq_false ..)⟩
    · simp only [Bool.or_eq_false_iff, decide_eq_false_iff_not, inRange_eq_false, ne_eq]
    · simp only [Bool.or_eq_false_iff, decide_eq_false_iff_not, ← Bool.decide_and, ne_eq]
  · rintro e he k checked hk rfl
    have entry := calendarField_fails_iff cfg h e he
    rw [← lt_checkedEntries_iff]
    have same (inside : e < (checkedEntries cfg).length) : (checkedEntries cfg).getD e {} = k :=
      (checkedEntries_getD cfg e inside).trans hk.symm
    refine ⟨(entry 0 _ _ rfl).trans (and_congr_right fun inside => ?_),
      (entry 1 _ _ rfl).trans (and_congr_right fun inside => ?_),
      (entry 2 _ _ rfl).trans (and_congr_right fun inside => ?_)⟩
    · rw [same inside, dayMask_fails_iff cfg e k inside]
    · rw [same inside, inRange_zero_eq_false]
    · rw [same inside, decide_eq_false_iff_not, not_lt]
  · obtain ⟨i, rfl⟩ : ∃ i, j = i + 2 := ⟨j - 2, by omega⟩
    have limit := field_fails_iff cfg h _ _ (mem_checkedFields_limit cfg i (by omega))
    rw [inRange_zero_eq_false] at limit
    rwa [show 230 + (i + 2) = 232 + i by omega, Nat.add_sub_cancel]
  · have span := checkedFields_span cfg _ hk
    have few := checkedEntries_few cfg h
    simp only at span
    omega

end Sys2Proof.Machine
end

section
/-! PROOF. The host's register writes and reads (10.1 to 10.4): EXBASE (O8), RUN and RESUME (O9, O10), INTMASK and the
line (O11), the latches and what is ignored (O12). -/

namespace Sys2Proof.Machine

/-! ## A write with nothing due (R195) -/

/-- With nothing due, a command from outside whose act leaves what is due acts once its time has passed. -/
theorem fromOutside_keepsDue (dt : Nat) (act : State → State) (s : State) (h : quiet s)
    (hd : (act (elapse dt s)).due = (elapse dt s).due) : fromOutside dt act s = act (elapse dt s) := by
  obtain ⟨phase, due⟩ := h
  exact fromOutside_plain dt act s phase due (by rw [hd, elapse_due, due])

/-! ## EXBASE (R196) -/

theorem exbaseHigh_eq (base : Word64) (v : Word32) : (v ++ base.truncate 32 : BitVec 64) =
    BitVec.ofNat 64 (v.toNat * 2 ^ 32 + base.toNat % 2 ^ 32) := by
  have low : base.toNat % 2 ^ 32 < 2 ^ 32 := Nat.mod_lt _ (by decide)
  refine BitVec.eq_of_toNat_eq ?_
  rw [BitVec.toNat_append, BitVec.toNat_setWidth, ← Nat.shiftLeft_add_eq_or_of_lt low, Nat.shiftLeft_eq,
    BitVec.toNat_ofNat]
  omega

/-- The mask of EXBASE_LO takes the 12 low bits away. -/
theorem exbaseMask_toNat (v : Word32) : (v &&& 0xFFFFF000#32).toNat = v.toNat / 4096 * 4096 := by
  have mask : ∀ i < 32, (0xFFFFF000#32).getLsbD i = !decide (i < 12) := by decide
  have shifts : v &&& 0xFFFFF000#32 = v >>> 12 <<< 12 := by
    refine BitVec.eq_of_getLsbD_eq fun i hi => ?_
    rw [BitVec.getLsbD_and, mask i hi, BitVec.getLsbD_shiftLeft, BitVec.getLsbD_ushiftRight]
    by_cases low : i < 12
    · simp [low]
    · simp [low, hi, show 12 + (i - 12) = i by omega]
  rw [shifts, BitVec.toNat_shiftLeft, BitVec.toNat_ushiftRight, Nat.shiftLeft_eq, Nat.shiftRight_eq_div_pow]
  omega

theorem exbaseLow_eq (base : Word64) (v : Word32) :
    ((base >>> 32).truncate 32 ++ (v &&& 0xFFFFF000#32) : BitVec 64) =
      BitVec.ofNat 64 (base.toNat / 2 ^ 32 * 2 ^ 32 + v.toNat / 4096 * 4096) := by
  have low : v.toNat / 4096 * 4096 < 2 ^ 32 := by omega
  refine BitVec.eq_of_toNat_eq ?_
  rw [BitVec.toNat_append, BitVec.toNat_setWidth, BitVec.toNat_ushiftRight, exbaseMask_toNat,
    ← Nat.shiftLeft_add_eq_or_of_lt low, Nat.shiftLeft_eq, Nat.shiftRight_eq_div_pow, BitVec.toNat_ofNat]
  omega

theorem writeExbase_halted (hi : Bool) (v : Word32) (s : State) (h : s.port.meas = .halted) :
    writeExbase hi v s = pump { s with port := { s.port with
      exbase := BitVec.ofNat 64 (if hi then v.toNat * 2 ^ 32 + s.port.exbase.toNat % 2 ^ 32
        else s.port.exbase.toNat / 2 ^ 32 * 2 ^ 32 + v.toNat / 4096 * 4096) } } := by
  cases hi
  · simp only [writeExbase, h, if_true, Bool.false_eq_true, if_false, exbaseLow_eq]
  · simp only [writeExbase, h, if_true, exbaseHigh_eq]

theorem writeExbase_ignored (hi : Bool) (v : Word32) (s : State) (h : s.port.meas ≠ .halted) :
    writeExbase hi v s = s := if_neg h

/-- Settles O8: the half of the base that a write stores while HALTED, and the write ignored otherwise. -/
theorem exbaseIsStoredWhileHalted : Obligations.ExbaseIsStoredWhileHalted := by
  refine fun s dt hi v h => ⟨fun hm => ?_, fun hm => ?_⟩
  · have stored := writeExbase_halted hi v (elapse dt s) (by rwa [elapse_port])
    rw [elapse_port] at stored
    rw [← stored]
    exact congrArg _ (fromOutside_keepsDue dt _ s h (by rw [stored, pump_due]))
  · have ignored := writeExbase_ignored hi v (elapse dt s) (by rwa [elapse_port])
    exact congrArg _ ((fromOutside_keepsDue dt _ s h (by rw [ignored])).trans ignored)

/-! ## RUN and RESUME (R197 to R200, R203) -/

section Run

variable (s : State)

theorem setRun_starts (hr : s.port.run = false) (hm : s.port.meas = .halted) (ha : s.store.active ≠ none) :
    setRun s = request .start { s with port := { s.port with
      run := true, meas := .starting, startRefused := false } } := by
  simp [setRun, hr, hm, Option.isSome_iff_ne_none.mpr ha]

theorem setRun_refused (hr : s.port.run = false) (hm : s.port.meas = .halted) (ha : s.store.active = none) :
    setRun s = request .start { s with port := { s.port with startRefused := true } } := by
  simp [setRun, hr, hm, ha]

theorem setRun_returns (hr : s.port.run = false) (hm : s.port.meas = .stopping) :
    setRun s = request .start { s with port := { s.port with run := true, meas := .running } } := by
  simp [setRun, hr, hm]

theorem clearRun_starting (hr : s.port.run = true) (hm : s.port.meas = .starting) :
    clearRun s = request .start { s with port := { s.port with run := false, meas := .halted } } := by
  simp [clearRun, hr, hm]

theorem clearRun_running (hr : s.port.run = true) (hm : s.port.meas = .running) :
    clearRun s = request .start { s with port := { s.port with run := false, meas := .stopping } } := by
  simp [clearRun, hr, hm]

theorem writeRun_due (run : Bool) : (writeRun run s).due = s.due := by
  obtain ⟨-, r, m, refused, cs, moved, -⟩ := writeRun_spec run s
  rw [moved]

theorem writeRun_exchange (run : Bool) : (writeRun run s).port.exchange = s.port.exchange := by
  obtain ⟨-, r, m, refused, cs, moved, -⟩ := writeRun_spec run s
  rw [moved]

theorem resumeExchange_due : (resumeExchange s).due = s.due := by
  obtain ⟨x, head, moved, -⟩ := resumeExchange_spec s
  rw [moved]

theorem resumeExchange_returns (hx : s.port.exchange = .faulted) (hb : causeSet .busfault s = false) :
    resumeExchange s = pump { s with port := { s.port with exchange := .online } } := by
  simp [resumeExchange, hx, hb]

theorem resumeExchange_stays (h : s.port.exchange = .online ∨ causeSet .busfault s = true) : resumeExchange s = s := by
  rcases h with online | set
  · simp [resumeExchange, online]
  · simp [resumeExchange, set]

end Run

/-- R197: the RUN write that a level and a RESUME make. -/
theorem exec_runWrite (s : State) (dt : Nat) (run resume : Bool) :
    exec (if run then .runSet ⟨dt, resume⟩ else .runClear ⟨dt, resume⟩) s =
      .next (fromOutside dt (writeControl run resume) s) := by
  cases run <;> rfl

theorem exec_runWrite_plain (s : State) (dt : Nat) (run : Bool) (h : quiet s) :
    exec (if run then .runSet ⟨dt, false⟩ else .runClear ⟨dt, false⟩) s = .next (writeRun run (elapse dt s)) := by
  rw [exec_runWrite]
  exact congrArg _ (fromOutside_keepsDue dt (writeRun run) s h (writeRun_due _ run))

/-- A RESUME, and a RUN write that carries one, both let RUN act and then the RESUME. -/
theorem exec_resumeWrite (s : State) (dt : Nat) (run : Bool) (h : quiet s) :
    ∀ c ∈ [Instr.resume ⟨dt, run⟩, if run then .runSet ⟨dt, true⟩ else .runClear ⟨dt, true⟩],
      exec c s = .next (resumeExchange (writeRun run (elapse dt s))) := by
  have acts : fromOutside dt (writeControl run true) s = resumeExchange (writeRun run (elapse dt s)) :=
    fromOutside_keepsDue dt _ s h ((resumeExchange_due _).trans (writeRun_due _ run))
  intro c hc
  rw [← acts]
  rcases List.mem_pair.mp hc with rfl | rfl
  · rfl
  · exact exec_runWrite s dt run true

/-- R197: a value with SRST clear is the RUN write of its bits, and with RESUME the RESUME that carries RUN. -/
theorem exec_engctlCommand (s : State) (dt : Nat) (v : Word32) (h : v.getLsbD 2 = false) :
    exec (engctlCommand dt v) s = .next (fromOutside dt (writeControl (v.getLsbD 0) (v.getLsbD 1)) s) := by
  unfold engctlCommand
  cases resume : v.getLsbD 1 with
  | true => simp only [h, if_true, Bool.false_eq_true, if_false]; rfl
  | false =>
    simp only [h, Bool.false_eq_true, if_false]
    exact exec_runWrite s dt _ false

/-- Settles O9: what a RUN field does in each measurement state, and the command of a written value. -/
theorem runIsSetAndCleared : Obligations.RunIsSetAndCleared := by
  refine ⟨fun s dt h => ?_, fun s dt h => ?_, ?_⟩
  · have writes : exec (.runSet ⟨dt, false⟩) s = .next (setRun (elapse dt s)) := exec_runWrite_plain s dt true h
    rw [writes, ← elapse_port dt s, ← elapse_store dt s]
    refine ⟨fun hr hm ha => ?_, fun hr hm ha => ?_, fun hr hm => ?_, fun hr => ?_⟩
    · rw [setRun_starts _ hr hm ha]
    · rw [setRun_refused _ hr hm ha]
    · rw [setRun_returns _ hr hm]
    · exact congrArg _ ((writeRun_spec true _).1 hr.symm)
  · have writes : exec (.runClear ⟨dt, false⟩) s = .next (clearRun (elapse dt s)) := exec_runWrite_plain s dt false h
    rw [writes, ← elapse_port dt s]
    refine ⟨fun hr hm => ?_, fun hr hm => ?_, fun hr => ?_⟩
    · rw [clearRun_starting _ hr hm]
    · rw [clearRun_running _ hr hm]
    · exact congrArg _ ((writeRun_spec false _).1 hr.symm)
  · rintro s dt v run resume rfl rfl
    refine ⟨fun h => if_pos h, fun h => ?_, fun h resume => ?_⟩
    · rw [exec_engctlCommand s dt v h, exec_runWrite]
    · rw [exec_engctlCommand s dt v h, resume]
      rfl

/-- Settles O10: `exec_resumeWrite` gives the write, and `resumeExchange` by BUSFAULT and the exchange state. -/
theorem resumeNeedsBusfaultClear : Obligations.ResumeNeedsBusfaultClear := by
  intro s dt run h
  have exchange : (writeRun run (elapse dt s)).port.exchange = s.port.exchange := by
    rw [writeRun_exchange, elapse_port]
  have busfault : causeSet .busfault (writeRun run (elapse dt s)) = s.port.intcause.getLsbD 7 := by
    rw [busfault_writeRun, causeSet, elapse_port]
    rfl
  refine ⟨writeRun run (elapse dt s), exec_runWrite_plain s dt run h,
    fun level => (writeRun_spec run _).1 (by rwa [elapse_port]), fun c hc => ?_⟩
  rw [exec_resumeWrite s dt run h c hc, ← exchange, ← busfault]
  refine ⟨fun hx hb => ?_, fun _ hb => ?_, fun hx => ?_⟩
  · rw [resumeExchange_returns _ hx hb]
  · rw [resumeExchange_stays _ (.inr hb)]
  · rw [resumeExchange_stays _ (.inl hx)]

/-! ## INTMASK and the line (R205) -/

/-- R205: the line is asserted exactly where a cause is both set and enabled. -/
theorem interruptLine_iff (s : State) : interruptLine s = true ↔
    ∃ i < 9, s.port.intcause.getLsbD i = true ∧ s.port.intmask.getLsbD i = true := by
  rw [interruptLine, decide_eq_true_iff]
  constructor
  · intro asserted
    by_contra none
    refine asserted (BitVec.eq_of_getLsbD_eq fun i hi => ?_)
    rw [BitVec.getLsbD_and]
    exact (Bool.eq_false_iff.mpr fun both => none ⟨i, hi, Bool.and_eq_true_iff.mp both⟩).trans BitVec.getLsbD_zero.symm
  · rintro ⟨i, -, cause, enabled⟩ none
    have bit := congrArg (fun b => b.getLsbD i) none
    simp [cause, enabled] at bit

/-- Settles O11: the nine bits that INTMASK takes, and the line of `interruptLine_iff`. -/
theorem interruptMaskAndLine : Obligations.InterruptMaskAndLine := by
  refine ⟨fun s dt v h => ?_, interruptLine_iff⟩
  have stored : writeMask v (elapse dt s) = { elapse dt s with
      port := { s.port with intmask := BitVec.ofNat 9 v.toNat } } := by rw [writeMask, elapse_port]; rfl
  exact congrArg _ ((fromOutside_keepsDue dt _ s h rfl).trans stored)

/-! ## The latches (R204) -/

theorem IntCause.bit_lt (c : IntCause) : c.bit < 9 := by cases c <;> decide

theorem request_getLsbD (c : IntCause) (s : State) (i : Nat) :
    (request c s).port.intcause.getLsbD i = (s.port.intcause.getLsbD i || decide (i = c.bit)) := by
  have bit : (1#9 <<< c.bit).getLsbD i = (decide (c.bit < 9) && decide (c.bit = i)) := BitVec.getLsbD_twoPow ..
  simp only [request, BitVec.getLsbD_or, bit, c.bit_lt, decide_true, Bool.true_and, eq_comm]

theorem clearCauses_getLsbD (v : Word32) (cs : BitVec 9) (i : Nat) (h : i < 9) :
    (cs &&& ~~~(v.truncate 9)).getLsbD i = (cs.getLsbD i && !v.getLsbD i) := by
  simp [h]

/-- R204: a clear acts once its time has passed, and changes INTCAUSE alone. -/
theorem exec_intcauseClear (s : State) (dt : Nat) (v : Word32) (h : quiet s) :
    exec (.intcauseClear dt v) s = .next { elapse dt s with
      port := { s.port with intcause := s.port.intcause &&& ~~~(v.truncate 9) } } := by
  have cleared : clearCauses v (elapse dt s) = { elapse dt s with
      port := { s.port with intcause := s.port.intcause &&& ~~~(v.truncate 9) } } := by rw [clearCauses, elapse_port]
  exact congrArg _ ((fromOutside_keepsDue dt _ s h rfl).trans cleared)

/-! ## What is ignored (R195, log 6, log 43) -/

/-- While a power-on or pin reset is in progress each write of the host lets time pass alone. -/
theorem exec_hostWrite_inReset (s : State) (dt off : Nat) (hi run resume : Bool) (v : Word32)
    (h : s.phase ≠ .running) : ∀ c ∈ [Instr.exbaseWrite dt hi v, .runSet ⟨dt, resume⟩, .runClear ⟨dt, resume⟩,
      .resume ⟨dt, run⟩, .softReset ⟨dt, run, resume⟩, .intcauseClear dt v, .intmaskWrite dt v,
      .registerWriteIgnored dt off v], exec c s = .next { s with tick := s.tick + dt } := by
  have ignored (act : State → State) : (Host.Outcome.next (fromOutside dt act s) : Host.Outcome State Fault Refusal) =
      .next { s with tick := s.tick + dt } := by rw [fromOutside_inReset dt act s h, elapse_inReset dt s h]
  simp only [List.forall_mem_cons, List.not_mem_nil, false_imp_iff, implies_true, and_true]
  exact ⟨ignored _, ignored _, ignored _, ignored _, ignored _, ignored _, ignored _, ignored _⟩

/-! ## Reads (R195, 11.2) -/

theorem holding_eq_empty_iff (f : Filing) :
    holding f = .empty ↔ (f.held.isSome || f.transit.any (fun t => t.fromHeld)) = false := by
  unfold holding
  cases f.held with
  | some _ => simp
  | none =>
    cases f.transit with
    | none => simp
    | some t => cases h : t.fromHeld <;> simp [h]

theorem Meas.code_le (m : Meas) : m.code ≤ 3 := by cases m <;> decide

theorem Exchange.code_le (x : Exchange) : x.code ≤ 1 := by cases x <;> decide

theorem LockState.code_le (l : LockState) : l.code ≤ 3 := by cases l <;> decide

theorem engstat_lt (s : State) : engstat s < 2 ^ 32 := by
  have meas := s.port.meas.code_le
  have exchange := s.port.exchange.code_le
  have lock := s.tb.lock.code_le
  unfold engstat
  split <;> omega

theorem engstat_eq (s : State) : engstat s =
    (match s.port.meas with | .halted => 0 | .starting => 1 | .running => 2 | .stopping => 3)
      + 16 * (match s.port.exchange with | .online => 0 | .faulted => 1)
      + 256 * (match s.tb.lock with | .acquire => 0 | .locked => 1 | .holdover => 2 | .free => 3)
      + (if s.filing.held.isSome || s.filing.transit.any (fun t => t.fromHeld) then 4096 else 0) := by
  have held : (if holding s.filing = .empty then 0 else 4096) =
      if s.filing.held.isSome || s.filing.transit.any (fun t => t.fromHeld) then 4096 else 0 := by
    simp only [holding_eq_empty_iff, Bool.eq_false_iff, ite_not]
  exact congrArg _ held

theorem readRegister_other (s : State) (off : Nat) (h : off ∉ [0x00, 0x04, 0x08, 0x0C, 0x10, 0x14]) :
    readRegister s off = 0 := by
  simp only [List.mem_cons, List.not_mem_nil, or_false, not_or] at h
  obtain ⟨h0, h4, h8, hC, h10, h14⟩ := h
  simp only [readRegister, h0, h4, h8, hC, h10, h14, if_false]

end Sys2Proof.Machine
end

section
/-! PROOF. Power-on and the pin reset leave every block at its power-on values (O3), the state after reset (O4), and the
registers as they read then (O12). -/

namespace Sys2Proof.Machine

/-! ## The power-on values of each block (R209) -/

theorem freshPort_reset (cause : ResetCause) : freshPort { resetCause := cause } := by simp [freshPort]

theorem freshTimebase_reset (nom60 : Bool) : freshTimebase nom60 { nom60 := nom60, pace := nominalPace nom60 } := by
  simp [freshTimebase]

theorem freshLink_reset : freshLink {} := by simp [freshLink]

theorem freshChannel_reset (offset : Int) : freshChannel { offset := offset } := by simp [freshChannel]

theorem freshAccounting_reset : freshAccounting {} := by simp [freshAccounting]

theorem freshIntervals_reset (d : Decoder) : freshIntervals { decoder := d } := by simp [freshIntervals]

theorem idleDecoder_reset (low : Bool) : idleDecoder { lineLow := low } := by simp [idleDecoder]

theorem freshMonitor_reset (nom60 : Bool) : freshMonitor nom60 (defaultMonitor nom60) := by
  simp [freshMonitor, defaultMonitor, defaultSettings]

theorem forall_mem_replicate {α : Type} (P : α → Prop) (n : Nat) (a : α) (h : P a) : ∀ b ∈ List.replicate n a, P b :=
  fun _ hb => List.eq_of_mem_replicate hb ▸ h

/-- R209: every block of a fresh state is at its power-on values, whatever the tick. -/
theorem freshBlocks_freshState (nom60 : Bool) (phase : ResetPhase) (cause : ResetCause) (s : State) (tick : Nat) :
    freshBlocks nom60 { freshState nom60 phase cause s with tick := tick } :=
  ⟨freshPort_reset cause, freshTimebase_reset nom60,
    ⟨List.length_replicate, forall_mem_replicate _ _ _ freshLink_reset⟩,
    ⟨List.length_replicate, forall_mem_replicate _ _ _ (freshChannel_reset 0)⟩, ⟨rfl, rfl⟩, freshAccounting_reset,
    freshIntervals_reset _, idleDecoder_reset _,
    ⟨rfl, rfl, rfl, List.length_replicate, forall_mem_replicate _ _ _ (freshMonitor_reset nom60)⟩,
    ⟨rfl, rfl, rfl, rfl, rfl⟩, ⟨rfl, rfl, rfl⟩, ⟨rfl, rfl, rfl⟩⟩

theorem interruptLine_fresh (s : State) (h : freshPort s.port) : interruptLine s = false := by
  obtain ⟨-, -, intcause, -⟩ := h
  simp [interruptLine, intcause]

/-! ## The three commands (R208) -/

theorem exec_powerOn_free (s : State) (nom60 : Bool) (h : ∀ cause, s.phase ≠ .held cause) :
    exec (.powerOn nom60) s = .next (freshState nom60 (.loading .identity 0 .powerOn) .powerOn s) := by
  show execPowerOn nom60 s = _
  unfold execPowerOn
  split
  · next cause held => exact absurd held (h cause)
  · rfl

theorem exec_powerOn_held (s : State) (nom60 : Bool) (cause : ResetCause) (h : s.phase = .held cause) :
    exec (.powerOn nom60) s = .next (freshState nom60 (.held .powerOn) .powerOn s) := by
  show execPowerOn nom60 s = _
  simp only [execPowerOn, h]

/-- In either case a power-on leaves a fresh state. -/
theorem exec_powerOn_fresh (s : State) (nom60 : Bool) :
    ∃ phase, exec (.powerOn nom60) s = .next (freshState nom60 phase .powerOn s) := by
  by_cases held : ∃ cause, s.phase = .held cause
  · obtain ⟨cause, h⟩ := held
    exact ⟨_, exec_powerOn_held s nom60 cause h⟩
  · exact ⟨_, exec_powerOn_free s nom60 (not_exists.mp held)⟩

theorem exec_pinResetAssert (s : State) (dt : Nat) :
    exec (.pinResetAssert dt) s = .next (freshState s.tb.nom60 (.held .pin) s.port.resetCause s) := rfl

theorem exec_pinResetRelease_held (s : State) (dt : Nat) (nom60 : Bool) (cause : ResetCause)
    (h : s.phase = .held cause) : exec (.pinResetRelease dt nom60) s =
      .next { freshState nom60 (.loading .identity (s.tick + dt) cause) s.port.resetCause (elapse dt s) with
        tick := s.tick + dt } := by
  show execPinResetRelease dt nom60 s = _
  simp only [execPinResetRelease, elapse_phase, h, elapse_tick, elapse_port]

theorem exec_pinResetRelease_free (s : State) (dt : Nat) (nom60 : Bool) (h : ∀ cause, s.phase ≠ .held cause) :
    exec (.pinResetRelease dt nom60) s = .next (elapse dt s) := by
  show execPinResetRelease dt nom60 s = _
  simp only [execPinResetRelease]
  split
  · next cause held => exact absurd ((elapse_phase dt s).symm.trans held) (h cause)
  · rfl

/-- Settles O3: each command leaves a fresh state, by whether RESET_N is held. -/
theorem powerOnAndPinResetLeavePowerOnValues : Obligations.PowerOnAndPinResetLeavePowerOnValues := by
  refine ⟨fun s dt nom60 => ⟨fun h => ?_, fun cause h => ?_, ?_⟩,
    fun s dt nom60 => ⟨fun cause h => ?_, exec_pinResetRelease_free s dt nom60⟩⟩
  · exact ⟨_, exec_powerOn_free s nom60 h, freshBlocks_freshState nom60 _ _ s 0, rfl, rfl, rfl, rfl, rfl,
      interruptLine_fresh _ (freshPort_reset _)⟩
  · exact ⟨_, exec_powerOn_held s nom60 cause h, freshBlocks_freshState nom60 _ _ s 0, rfl, rfl, rfl, rfl, rfl,
      interruptLine_fresh _ (freshPort_reset _)⟩
  · exact ⟨_, exec_pinResetAssert s dt, freshBlocks_freshState _ _ _ s 0, rfl, rfl, rfl, rfl,
      interruptLine_fresh _ (freshPort_reset _)⟩
  · exact ⟨_, exec_pinResetRelease_held s dt nom60 cause h, freshBlocks_freshState nom60 _ _ (elapse dt s) _, rfl, rfl,
      elapse_pending dt s, rfl, rfl⟩

/-! ## The state after reset -/

theorem reset_eq_freshState : State.reset = freshState false (.loading .identity 0 .powerOn) .powerOn State.reset := rfl

theorem paceSound_reset : paceSound State.reset := by
  have noVerdict : State.reset.tb.pendingVerdict = none := rfl
  have noWindow : State.reset.spectral.decomposing = none := rfl
  refine ⟨?_, by simp [noVerdict], by simp [noWindow], Nat.zero_le _, Nat.zero_le _⟩
  show paceMin false ≤ 200000 ∧ 200000 ≤ paceMax false
  decide

/-- Settles O4: the state after reset is the fresh state of a power-on on a 50 Hz strap. -/
theorem resetStateIsThePowerOnState : Obligations.ResetStateIsThePowerOnState := by
  have shape : shaped State.reset := ⟨List.length_replicate, List.length_replicate, List.length_replicate,
    List.length_replicate, List.length_replicate, List.length_replicate⟩
  have aligned : baseAligned State.reset := (by decide : (0#64 &&& 0xFFF#64) = 0)
  refine ⟨⟨?_, rfl, rfl, rfl, rfl⟩, shape, aligned, List.nodup_nil, paceSound_reset, fun h => nomatch h⟩
  rw [reset_eq_freshState]
  exact freshBlocks_freshState false _ _ State.reset 0

/-! ## The registers after a reset -/

/-- With every block at its power-on values every register reads 0. -/
theorem readRegister_fresh (nom60 : Bool) (s : State) (h : freshBlocks nom60 s) (off : Nat) : readRegister s off = 0 := by
  obtain ⟨⟨exbase, run, intcause, intmask, meas, -, exchange, -⟩, ⟨-, -, -, -, -, lock, -⟩, -, -, -, -, -, -, -,
    ⟨held, transit, -⟩, -⟩ := h
  have status : engstat s = 0 := by
    simp [engstat, meas, exchange, lock, (holding_eq_empty_iff s.filing).mpr (by simp [held, transit]), Meas.code,
      Exchange.code, LockState.code]
  by_cases known : off ∈ [0x00, 0x04, 0x08, 0x0C, 0x10, 0x14]
  · simp only [List.mem_cons, List.not_mem_nil, or_false] at known
    rcases known with rfl | rfl | rfl | rfl | rfl | rfl <;>
      simp [readRegister, exbase, run, intcause, intmask, status]
  · exact readRegister_other s off known

/-- The registers as 11.2 lays them out. -/
theorem readRegister_layout (s : State) :
    (readRegister s 0x00).toNat = s.port.exbase.toNat % 2 ^ 32 ∧
      (readRegister s 0x04).toNat = s.port.exbase.toNat / 2 ^ 32 ∧
      (readRegister s 0x08).toNat = (if s.port.run then 1 else 0) ∧ (readRegister s 0x0C).toNat = engstat s ∧
      (readRegister s 0x10).toNat = s.port.intcause.toNat ∧ (readRegister s 0x14).toNat = s.port.intmask.toNat := by
  refine ⟨BitVec.toNat_setWidth 32 s.port.exbase, ?_, ?_, ?_, ?_, ?_⟩
  · have high : s.port.exbase.toNat / 2 ^ 32 < 2 ^ 32 := by omega
    show ((s.port.exbase >>> 32).truncate 32).toNat = _
    rw [BitVec.toNat_setWidth, BitVec.toNat_ushiftRight, Nat.shiftRight_eq_div_pow, Nat.mod_eq_of_lt high]
  · show (if s.port.run then (1 : Word32) else 0).toNat = _
    split <;> rfl
  · exact (BitVec.toNat_ofNat ..).trans (Nat.mod_eq_of_lt (engstat_lt s))
  · exact BitVec.toNat_setWidth_of_le (b := s.port.intcause) (by decide : 9 ≤ 32)
  · exact BitVec.toNat_setWidth_of_le (b := s.port.intmask) (by decide : 9 ≤ 32)

/-- Settles O12: the latches by their bits, the writes that let time pass alone, and the registers as they read. -/
theorem hostWritesLatchClearOrAreIgnored : Obligations.HostWritesLatchClearOrAreIgnored := by
  refine ⟨⟨fun s c i _ => ⟨request_getLsbD c s i, rfl⟩,
    fun s dt v h => ⟨_, exec_intcauseClear s dt v h, clearCauses_getLsbD v s.port.intcause⟩,
    fun s dt off v h => congrArg _ (fromOutside_keepsDue dt _ s h rfl)⟩, exec_hostWrite_inReset, fun s => ?_,
    fun s dt nom60 c hc => ?_⟩
  · obtain ⟨low, high, run, status, causes, mask⟩ := readRegister_layout s
    exact ⟨low, high, run, status.trans (engstat_eq s), causes, mask, readRegister_other s⟩
  · rcases List.mem_pair.mp hc with rfl | rfl
    · obtain ⟨phase, on⟩ := exec_powerOn_fresh s nom60
      exact ⟨_, on, readRegister_fresh nom60 _ (freshBlocks_freshState nom60 _ _ s 0)⟩
    · exact ⟨_, exec_pinResetAssert s dt, readRegister_fresh _ _ (freshBlocks_freshState _ _ _ s 0)⟩

end Sys2Proof.Machine
end

section
/-! PROOF. A header block: its fields (R207, 11.3), and its writes, the update count last (R206) (O44). -/

namespace Sys2Proof.Machine

/-! ## Values of the fields (11.3) -/

theorem headerFlags_eq (s : State) : headerFlags s =
    (if s.port.startRefused then 1 else 0) + (if s.store.factory.missing then 2 else 0)
      + (if s.store.factory.unsaved then 4 else 0) + (if s.ic.current.isSome then 8 else 0)
      + (if s.ic.forced.isSome then 16 else 0) + (if s.ic.demandPending then 32 else 0)
      + (if s.store.active.isSome then 64 else 0) + (if s.store.pend.isSome then 128 else 0) := by
  simp only [headerFlags, maskOf, mul_add, mul_ite, mul_one, mul_zero, Nat.reduceMul, add_zero, ← add_assoc]

theorem holding_code (f : Filing) : (holding f).code =
    if f.held.isSome then 1 else if f.transit.any (fun t => t.fromHeld) then 2 else 0 := by
  unfold holding
  cases f.held with
  | some _ => rfl
  | none =>
    cases f.transit with
    | none => rfl
    | some t => cases h : t.fromHeld <;> simp [h, Holding.code]

theorem holdingMerges_eq (f : Filing) : holdingMerges f = (match f.held, f.transit with
    | some h, _ => h.merges
    | none, some t => if t.fromHeld then t.file.merges else 0
    | none, none => 0) := by
  unfold holdingMerges holding
  cases f.held with
  | some _ => rfl
  | none =>
    cases f.transit with
    | none => rfl
    | some t => cases h : t.fromHeld <;> simp [h]

theorem faultOpCode_eq (f : FaultRecord) : faultOpCode f = (match f.op with
    | none => 0 | some .scan => 1 | some .completion => 2 | some .header => 3 | some .ownerRead => 4
    | some .pageWrite => 5 | some .configRead => 6 | some .snapshot => 7) := by
  unfold faultOpCode
  cases f.op with
  | none => rfl
  | some op => cases op <;> rfl

theorem stuckMask_eq (s : State) (h : s.channels.length = 28) : maskOf (s.channels.map (fun c => c.stuck)) =
    ((List.range 28).map (fun ch => if (s.channel ch).stuck then 2 ^ ch else 0)).sum := by
  have stuck (ch : Nat) : (s.channels.map (fun c => c.stuck)).getD ch false = (s.channel ch).stuck :=
    List.getD_map s.channels {} (fun c => c.stuck)
  rw [maskOf_eq_sum, List.length_map, h]
  simp only [stuck]

/-! ## The fields in order (R207) -/

/-- 11.3: the fields before those of the links, as a header block written while ONLINE holds them. -/
def headerHead (s : State) : List (Nat × Nat) :=
  [(4, s.port.updateCount.toNat), (1, s.port.meas.code), (1, 0), (1, s.tb.lock.code),
    (1, (if s.port.startRefused then 1 else 0) + (if s.store.factory.missing then 2 else 0)
      + (if s.store.factory.unsaved then 4 else 0) + (if s.ic.current.isSome then 8 else 0)
      + (if s.ic.forced.isSome then 16 else 0) + (if s.ic.demandPending then 32 else 0)
      + (if s.store.active.isSome then 64 else 0) + (if s.store.pend.isSome then 128 else 0)),
    (1, s.port.resetCause.code), (1, s.ic.activeSlot),
    (1, if s.filing.held.isSome then 1 else if s.filing.transit.any (fun t => t.fromHeld) then 2 else 0),
    (1, s.port.fault.kind.code), (1, busDirCode s.port.fault.dir),
    (1, match s.port.fault.op with
      | none => 0 | some .scan => 1 | some .completion => 2 | some .header => 3 | some .ownerRead => 4
      | some .pageWrite => 5 | some .configRead => 6 | some .snapshot => 7),
    (2, 0), (8, s.port.fault.addr.toNat), (8, standingTime s), (8, s.ic.seq.toNat), (4, s.tb.pace),
    (4, paceFrequency s.tb.pace), (2, s.filing.nextPage), (2, 0), (4, s.filing.pageSeq.toNat),
    (4, min (2 ^ 32 - 1) (match s.filing.held, s.filing.transit with
      | some h, _ => h.merges
      | none, some t => if t.fromHeld then t.file.merges else 0
      | none, none => 0)),
    (4, s.store.factory.epoch.toNat), (4, generationField s),
    (4, match s.store.pend with | some c => c.1.generation.toNat | none => 0)]

/-- 11.3: the fields behind those of the links. -/
def headerTail (s : State) : List (Nat × Nat) :=
  [(4, ((List.range 28).map (fun ch => if (s.channel ch).stuck then 2 ^ ch else 0)).sum), (4, 0),
    (4, s.ic.glitches.toNat), (4, s.ic.unexpectedEnds.toNat), (4, s.ic.ignoredSteps.toNat),
    (4, s.ic.malformedBursts.toNat), (4, s.ic.stuckLows.toNat), (4, s.ic.timeouts.toNat)]

theorem headerHead_width (s : State) : ((headerHead s).map (fun f => f.1)).sum = 72 := by
  simp only [headerHead, List.map_cons, List.map_nil, List.sum_cons, List.sum_nil, Nat.reduceAdd]

theorem headerTail_width (s : State) : ((headerTail s).map (fun f => f.1)).sum = 32 := by
  simp only [headerTail, List.map_cons, List.map_nil, List.sum_cons, List.sum_nil, Nat.reduceAdd]

def headerBlockFields (s : State) : List (Nat × Nat) :=
  headerHead s ++ (s.links.map (fun k => (1, k.state.code)) ++ (s.links.map (fun k => (1, k.dropReason.code)) ++
    headerTail s))

section Image

variable (s : State) (online : s.port.exchange = .online) (links : s.links.length = 4)
  (channels : s.channels.length = 28)

include online channels in
theorem headerImage_eq : headerImage s = fieldBytes (headerBlockFields s) := by
  have exchange : s.port.exchange.code = 0 := by rw [online]; rfl
  have two : zeros 2 = leBytes 2 0 := rfl
  have four : zeros 4 = leBytes 4 0 := rfl
  unfold headerImage headerFields
  simp only [exchange, headerFlags_eq, holding_code, holdingMerges_eq, faultOpCode_eq, stuckMask_eq s channels, leSat_four,
    two, four, headerBlockFields, headerHead, headerTail, fieldBytes_append, fieldBytes_map, fieldBytes_cons,
    fieldBytes_nil, List.append_assoc, List.append_nil]
  rfl

include online links channels in
theorem headerImage_length : (headerImage s).length = 112 := by
  rw [headerImage_eq s online channels, fieldBytes_length, headerBlockFields]
  simp only [List.map_append, List.sum_append, headerHead_width, headerTail_width, fields_width, links]

include links in
theorem headerBlockFields_offsets : fieldsFrom 0 (headerBlockFields s) = fieldsFrom 0 (headerHead s) ++
    ((List.range 4).map (fun i => (72 + 1 * i, 1, (s.links.getD i {}).state.code)) ++
      ((List.range 4).map (fun i => (76 + 1 * i, 1, (s.links.getD i {}).dropReason.code)) ++
        fieldsFrom 80 (headerTail s))) := by
  simp only [headerBlockFields, fieldsFrom_append, headerHead_width, fields_width, fieldsFrom_map 1 _ ({} : Link), links,
    Nat.reduceAdd, Nat.reduceMul]

include online links channels in
/-- R207: each field of the block at its offset. -/
theorem headerImage_field (x : Nat × Nat × Nat)
    (hx : x ∈ (fieldsFrom 0 (headerHead s) ++ fieldsFrom 80 (headerTail s)) ++ (List.finRange 4).flatMap (fun l => [
      (72 + l.val, 1, (s.link l).state.code), (76 + l.val, 1, (s.link l).dropReason.code)])) :
    ((headerImage s).drop x.1).take x.2.1 = leBytes x.2.1 x.2.2 := by
  have placed : x ∈ fieldsFrom 0 (headerBlockFields s) := by
    rw [headerBlockFields_offsets s links]
    simp only [List.mem_append]
    rcases List.mem_append.mp hx with hx | hx
    · rcases List.mem_append.mp hx with head | tail
      · exact .inl head
      · exact .inr (.inr (.inr tail))
    · obtain ⟨l, -, hx⟩ := List.mem_flatMap.mp hx
      rcases List.mem_pair.mp hx with rfl | rfl
      · exact .inr (.inl (List.mem_map.mpr ⟨l.val, List.mem_range.mpr l.isLt, by rw [one_mul]; rfl⟩))
      · exact .inr (.inr (.inl (List.mem_map.mpr ⟨l.val, List.mem_range.mpr l.isLt, by rw [one_mul]; rfl⟩)))
  have field := fieldBytes_fields (headerBlockFields s) [] [] 0 rfl x placed
  rwa [List.nil_append, List.append_nil, ← headerImage_eq s online channels] at field

end Image

/-! ## The writes (R206) -/

/-- The state in which the update count has risen for the block about to be written. -/
def countRaised (s : State) : State := { s with port := { s.port with updateCount := s.port.updateCount + 1 } }

theorem beginHeader_reached (s : State) (h : canAccess s = true) : beginHeader s = { s with port := { s.port with
    updateCount := s.port.updateCount + 1
    header := some {
      access := { base := s.port.exbase, issuedAt := s.tick }, image := headerImage (countRaised s)
      counting := false } } } := if_pos h

theorem headerFieldsAnswer_inTime (s : State) (h : HeaderWrite) (hh : s.port.header = some h)
    (hc : h.counting = false) (ht : inTime h.access s = true) : headerFieldsAnswer s = { s with port := { s.port with
      header := some { h with access := { h.access with issuedAt := s.tick }, counting := true } } } := by
  simp [headerFieldsAnswer, hh, hc, ht]

theorem updateCountAnswer_inTime (s : State) (h : HeaderWrite) (hh : s.port.header = some h)
    (hc : h.counting = true) (ht : inTime h.access s = true) :
    updateCountAnswer s = { s with port := { s.port with header := none } } := by
  simp [updateCountAnswer, hh, hc, ht]

section Answers

variable (s : State) (dt : Nat) (h : HeaderWrite) (hq : quiet s) (hh : s.port.header = some h)
  (ht : s.tick + dt < h.access.issuedAt + 20000)
include hq hh ht

theorem exec_headerFieldsAnswered (hc : h.counting = false) : exec (.headerFieldsAnswered dt) s =
    .next { elapse dt s with port := { s.port with
      header := some { h with access := { h.access with issuedAt := s.tick + dt }, counting := true } } } := by
  have answered := headerFieldsAnswer_inTime (elapse dt s) h (by rwa [elapse_port]) hc (inTime_elapse h.access dt s ht)
  refine congrArg _ ((fromOutside_keepsDue dt _ s hq (by rw [answered])).trans ?_)
  rw [answered, elapse_port, ← elapse_tick dt s]

theorem exec_updateCountWriteAnswered (hc : h.counting = true) : exec (.updateCountWriteAnswered dt) s =
    .next { elapse dt s with port := { s.port with header := none } } := by
  have answered := updateCountAnswer_inTime (elapse dt s) h (by rwa [elapse_port]) hc (inTime_elapse h.access dt s ht)
  refine congrArg _ ((fromOutside_keepsDue dt _ s hq (by rw [answered])).trans ?_)
  rw [answered, elapse_port]

end Answers

/-- R210: byte i of a field is the value's byte of weight 256^i. -/
theorem leBytes_getD (w v i : Nat) (h : i < w) : (leBytes w v).getD i 0 = BitVec.ofNat 8 (v / 256 ^ i) := by
  induction w generalizing v i with
  | zero => exact absurd h (Nat.not_lt_zero i)
  | succ w ih =>
    cases i with
    | zero => rw [leBytes, List.getD_cons_zero, pow_zero, Nat.div_one]
    | succ i => rw [leBytes, List.getD_cons_succ, ih _ _ (Nat.lt_of_succ_lt_succ h), Nat.div_div_eq_div_mul, pow_succ']

/-- Settles O44: the block by its fields in order, and its two writes. -/
theorem headerBlockIsWrittenCountLast : Obligations.HeaderBlockIsWrittenCountLast := by
  refine ⟨fun s online placed links channels => ?_,
    fun s dt h hq hh ht => ⟨exec_headerFieldsAnswered s dt h hq hh ht, exec_updateCountWriteAnswered s dt h hq hh ht⟩,
    fun w v => ⟨leBytes_length w v, fun i hi => leBytes_getD w v i hi⟩⟩
  exact ⟨headerImage (countRaised s), beginHeader_reached s ((canAccess_iff s).mpr ⟨online, placed⟩),
    headerImage_length (countRaised s) online links channels,
    fun x hx => headerImage_field (countRaised s) online links channels x hx⟩

end Sys2Proof.Machine
end

section
/-! PROOF. What a soft reset keeps and clears in each block (O6): the blocks it leaves, and what comes about at once. -/

namespace Sys2Proof.Machine

/-! ## A file in transit returns (R144, R177) -/

/-- Where no CLOSE_INTERVAL order waits for a close, its report changes nothing. -/
theorem reportClose_unwaited (s : State) (seq : Word64) (h : s.ic.closeOrders = []) : reportClose s seq = s := by
  have kept : { s with ic := { s.ic with closeOrders := [] } } = s := by rw [← h]
  simp only [reportClose, h, List.filter_nil, List.foldl_nil, kept]

theorem reportFile_unwaited (f : IntervalFile) (s : State) (h : s.ic.closeOrders = []) : reportFile f s = s :=
  foldl_keeps (fun t => t = s) reportClose (fun _ seq same => same ▸ reportClose_unwaited s seq h) _ s rfl

/-- What the filing unit holds once nothing is in transit any longer. -/
def returnedFiles (g : Filing) : Filing :=
  match g.transit with
  | none => g
  | some x => returnedFiling x g

theorem returnedFiles_transit (g : Filing) : (returnedFiles g).transit = none := by
  unfold returnedFiles
  split
  · next none => exact none
  · rfl

theorem returnedFiles_held (g : Filing) : (returnedFiles g).held = (match g.transit with
    | none => g.held
    | some x => some { (match g.held with | some h => mergeFiles x.file h | none => x.file) with unreported := [] }) := by
  unfold returnedFiles
  cases g.transit <;> rfl

theorem returnTransit_unwaited (s : State) (h : s.ic.closeOrders = []) :
    returnTransit true s = { s with filing := returnedFiles s.filing } := by
  cases hx : s.filing.transit with
  | none => simp only [returnTransit, returnedFiles, hx]
  | some x =>
    rw [returnTransit_some true s x hx,
      reportFile_unwaited x.file { s with filing := returnedFiling x s.filing } h]
    simp only [returnedFiles, hx]
    rfl

/-! ## A decomposition in progress is discarded (R50) -/

/-- The points that the results of a decomposition in progress would cover. -/
def awaitedPoints (s : State) : List Nat :=
  match s.spectral.decomposing with
  | none => []
  | some d => coveredPoints d

/-- The accumulators of a point after the discard notices of a list of points. -/
def Acc.discards (ps : List Nat) (a : Acc) : Acc :=
  { a with discarded := a.discarded + (ps.filter (fun p => a.point = p)).length }

theorem foldl_takeDiscard : ∀ (ps : List Nat) (s : State), ps.foldl (fun s p => takeDiscard p s) s =
    { s with stats := { s.stats with accs := s.stats.accs.map (Acc.discards ps) } }
  | [], s => by
    have same : Acc.discards [] = id := rfl
    rw [same, List.map_id]
    rfl
  | p :: ps, s => by
    rw [List.foldl_cons, foldl_takeDiscard ps]
    have one : (takeDiscard p s).stats.accs.map (Acc.discards ps) = s.stats.accs.map (Acc.discards (p :: ps)) := by
      rw [takeDiscard, modAcc, List.map_map]
      refine List.map_congr_left fun a _ => ?_
      by_cases here : a.point = p
      · simp [Acc.discards, here, Nat.add_assoc, Nat.add_comm]
      · simp [Acc.discards, here]
    rw [one]
    rfl

theorem discardWindow_eq (s : State) : discardWindow s = { s with
    spectral := {}, stats := { s.stats with accs := s.stats.accs.map (Acc.discards (awaitedPoints s)) } } := by
  unfold discardWindow awaitedPoints
  cases s.spectral.decomposing with
  | none => exact (foldl_takeDiscard [] { s with spectral := {} })
  | some d => exact foldl_takeDiscard (coveredPoints d) { s with spectral := {} }

/-! ## The blocks (R208) -/

/-- A soft reset up to its close: the orders are ended, a file in transit has returned, a decomposition in progress is
discarded and the RESET close passed on. -/
def softClosed (s : State) : State :=
  { softOrders s with
    filing := { returnedFiles s.filing with
      assemblies := (returnedFiles s.filing).assemblies ++ (resetCloses s).map (fun c => { close := c }) }
    ic := { s.ic with closeOrders := [], demandOrders := [], current := none }
    acct := { s.acct with closes := s.acct.closes ++ resetCloses s }
    spectral := {}
    stats := { s.stats with
      accs := s.stats.accs.map (Acc.discards (awaitedPoints s)), closes := s.stats.closes ++ resetCloses s } }

/-- The state that the blocks of a soft reset leave, before the completion queue goes on. -/
def softened (s : State) : State :=
  { s with
    links := List.replicate 4 ({} : Link)
    channels := (List.range 28).map (fun ch => { offset := configuredOffset s.store ch })
    tb := { lockReset s.tb with
      lastVerdict := .none, lastMeasured := 0, strobe := 0, winStart := 0, prevWinStart := 0, winLocked := false
      freeTickAt := s.tick + 2000000 }
    spectral := {}
    acct := { s.acct with closes := s.acct.closes ++ resetCloses s }
    ic := { s.ic with
      current := none, closeOrders := [], demandOrders := [], pendingEnd := false, pendingStep := false, lastTime := none
      decoder := (restartDecoder s).ic.decoder }
    stats := { s.stats with
      accs := s.stats.accs.map (Acc.discards (awaitedPoints s)), closes := s.stats.closes ++ resetCloses s }
    filing := { returnedFiles s.filing with
      assemblies := (returnedFiles s.filing).assemblies ++ (resetCloses s).map (fun c => { close := c }) }
    orders := { s.orders with
      inFlight := s.orders.inFlight.map (fun f => { f with ended := !f.completed }), head := none, resetDue := true }
    store := { s.store with pend := none }
    port := { s.port with
      run := false, meas := .halted, intcause := 0, startRefused := false, resetCause := .soft, header := none
      snapshots := [] } }

theorem softened_eq (s : State) : softPort (softIntervals (softTimebase (softLinks (softClosed s)))) = softened s := by
  simp only [softPort, softIntervals, restartDecoder, modDecoder, softTimebase, lockReset, softLinks, softClosed,
    softOrders, softened]
  rfl

theorem softClosed_eq (s : State) : softClose (discardWindow (returnTransit true (softOrders s))) = softClosed s := by
  rw [returnTransit_unwaited (softOrders s) rfl, discardWindow_eq, softClose_eq]
  rfl

/-- R164: a queue with no write in progress issues its head where the exchange area can be reached. -/
theorem pump_unissued (s : State) (h : s.orders.head = none) : pump s = { s with orders := { s.orders with
    head := if s.orders.queue ≠ [] ∧ s.port.exchange = .online ∧ s.port.exbase ≠ 0 then
      some { base := s.port.exbase, issuedAt := s.tick } else none } } := by
  by_cases issues : s.orders.queue ≠ [] ∧ s.port.exchange = .online ∧ s.port.exbase ≠ 0
  · obtain ⟨queue, reached⟩ := issues
    rw [if_pos ⟨queue, reached⟩, pump_issues s queue h ((canAccess_iff s).mpr reached)]
  · have waits : s.orders.queue = [] ∨ s.orders.head ≠ none ∨ canAccess s = false := by
      rw [not_and_or, not_not] at issues
      exact issues.imp_right fun unreached => .inr (Bool.eq_false_iff.mpr (mt (canAccess_iff s).mp unreached))
    rw [if_neg issues, pump_waits s waits, ← h]

theorem softBlocks_eq (s : State) : softBlocks s = { softened s with
    due := softDue (softened s) ++ s.due
    orders := { (softened s).orders with
      head := if s.orders.queue ≠ [] ∧ s.port.exchange = .online ∧ s.port.exbase ≠ 0 then
        some { base := s.port.exbase, issuedAt := s.tick } else none } } := by
  have blocks : softBlocks s = pump (pushDue (softDue (softened s)) (softened s)) := by
    rw [softBlocks, softClosed_eq, ← softened_eq]
  rw [blocks, pump_unissued (pushDue (softDue (softened s)) (softened s)) rfl]
  rfl

/-! ## What is left to finish (R98, R131) -/

/-- The closes that a soft reset leaves to finish, its own included. -/
def closesLeft (s : State) : List Due :=
  List.replicate (s.acct.closes.length + (if s.ic.current = none then 0 else 1)) Due.acctFinish ++
    List.replicate (s.stats.closes.length + (if s.ic.current = none then 0 else 1)) Due.statFinish

theorem resetCloses_length (s : State) : (resetCloses s).length = if s.ic.current = none then 0 else 1 := by
  cases h : s.ic.current <;> simp [resetCloses, h]

theorem softDue_softened (s : State) : softDue (softened s) = closesLeft s ++ [.statReset] := by
  have acct : (softened s).acct.closes = s.acct.closes ++ resetCloses s := rfl
  have stats : (softened s).stats.closes = s.stats.closes ++ resetCloses s := rfl
  rw [softDue, acct, stats, List.length_append, List.length_append, resetCloses_length, closesLeft]

theorem closesLeft_eq_nil_iff (s : State) : closesLeft s = [] ↔
    (softened s).acct.closes = [] ∧ (softened s).stats.closes = [] := by
  have acct : (softened s).acct.closes = s.acct.closes ++ resetCloses s := rfl
  have stats : (softened s).stats.closes = s.stats.closes ++ resetCloses s := rfl
  rw [acct, stats, closesLeft, List.append_eq_nil_iff, List.replicate_eq_nil_iff, List.replicate_eq_nil_iff,
    ← resetCloses_length, ← List.length_append, ← List.length_append, List.length_eq_zero_iff,
    List.length_eq_zero_iff]

/-- With no window in decomposition the oldest close that waits can finish, and waits for its command; without one the
statistics unit is reset at once. -/
theorem advance_softDue_eq (u : State) (hs : u.spectral = {})
    (hd : u.due = List.replicate u.acct.closes.length Due.acctFinish ++
      List.replicate u.stats.closes.length Due.statFinish ++ [.statReset]) :
    (u.acct.closes ≠ [] ∨ u.stats.closes ≠ [] → advance u = u) ∧
      (u.acct.closes = [] → u.stats.closes = [] → advance u = statReset { u with due := [] }) := by
  have free (ds : List Due) (seq : Word64) : windowAwaited { u with due := ds } seq = false :=
    windowAwaited_eq_false _ seq (by simp [hs])
  refine ⟨fun waiting => ?_, fun ha hst => ?_⟩
  · cases ha : u.acct.closes with
    | cons c rest =>
      rw [ha] at hd
      exact advance_named u .acctFinish _ hd (by simp [acctCanFinish, ha, free])
    | nil =>
      obtain ⟨c, rest, hst⟩ := List.exists_cons_of_ne_nil (waiting.resolve_left (not_not.mpr ha))
      rw [ha, hst] at hd
      exact advance_named u .statFinish _ hd (by simp [statCanFinish, hst, free])
  · rw [ha, hst] at hd
    have last : u = pushDue [.statReset] { u with due := [] } := eq_with_due u _ hd
    conv_lhs => rw [last]
    exact advance_pushDue_one .statReset { u with due := [] } rfl rfl stops_nil

theorem statReset_softened (s : State) (h : closesLeft s = []) :
    (statReset (softened s)).stats = (microStep .statReset s).stats := by
  obtain ⟨-, closes⟩ := (closesLeft_eq_nil_iff s).mp h
  have before : s.stats.closes = [] := (List.append_eq_nil_iff.mp closes).1
  rw [microStep_statReset, statReset, statReset]
  simp only [closes, before]
  rfl

/-- What a soft reset with nothing else due comes to. -/
theorem advance_softBlocks (s : State) (hd : s.due = []) : advance (softBlocks s) = { softened s with
    due := if closesLeft s = [] then [] else closesLeft s ++ [.statReset]
    stats := if closesLeft s = [] then (microStep .statReset s).stats else (softened s).stats
    orders := { (softened s).orders with
      head := if s.orders.queue ≠ [] ∧ s.port.exchange = .online ∧ s.port.exbase ≠ 0 then
        some { base := s.port.exbase, issuedAt := s.tick } else none } } := by
  obtain ⟨stays, resets⟩ := advance_softDue_eq (softBlocks s) (by rw [softBlocks_eq]; rfl) (by
    rw [softBlocks_eq]
    exact (congrArg _ hd).trans (List.append_nil _))
  rw [softBlocks_eq, softDue_softened, hd, List.append_nil] at stays resets
  rw [softBlocks_eq, softDue_softened, hd, List.append_nil]
  by_cases none : closesLeft s = []
  · obtain ⟨acct, stats⟩ := (closesLeft_eq_nil_iff s).mp none
    rw [resets acct stats, if_pos none, if_pos none, ← statReset_softened s none]
    rfl
  · rw [stays (not_and_or.mp (mt (closesLeft_eq_nil_iff s).mpr none)), if_neg none, if_neg none]

/-! ## The statement -/

/-- R131: the restart of a monitor under its stored settings. -/
theorem softRestart_eq (k : Monitor) : softRestart k = { k with
    force := k.stored, cur := k.stored, dirty := false, restartDue := false, count := 0, last := 0
    state := if k.stored.enable = 1 ∧ k.stored.lo ≤ k.stored.hi then .quiet else .off } := by
  simp [softRestart, restarted, MonSettings.inForce]

theorem mem_softChannels (st : ConfigStore) :
    ∀ c ∈ (List.range 28).map (fun ch => ({ offset := configuredOffset st ch } : Channel)), freshChannel c := by
  intro c hc
  obtain ⟨ch, -, rfl⟩ := List.mem_map.mp hc
  exact freshChannel_reset _

theorem channel_softened (s : State) (ch : Nat) (h : ch < 28) :
    ((softened s).channel ch).offset = configuredOffset s.store ch := by
  show (((List.range 28).map (fun ch => ({ offset := configuredOffset s.store ch } : Channel))).getD ch {}).offset = _
  simp [h]

/-- Settles O6: the reset leaves the blocks of `softBlocks_eq`, with what `advance_softBlocks` brings about. -/
theorem softResetKeepsAndClears : Obligations.SoftResetKeepsAndClears := by
  refine ⟨fun s dt run resume rest => ?_, fun s => ?_⟩
  · have reset := exec_softReset s dt run resume rest
    obtain ⟨⟨phase, due⟩, -⟩ := rest
    rw [elapse_running dt s phase] at reset ⊢
    rw [advance_softBlocks (withoutReads { s with tick := s.tick + dt, tb := s.tb.advance dt }) due] at reset
    refine ⟨_, reset, rfl, rfl, rfl, rfl, rfl, rfl, rfl, rfl, rfl, rfl, rfl, rfl, rfl, rfl, rfl, rfl, rfl, rfl, rfl, rfl,
      rfl, rfl, rfl, rfl, rfl, rfl, rfl, rfl, List.length_replicate, forall_mem_replicate _ _ _ freshLink_reset,
      (List.length_map _).trans List.length_range, mem_softChannels _, channel_softened _, rfl, rfl, rfl, rfl,
      returnedFiles_transit s.filing, rfl, rfl, rfl, rfl, rfl, rfl, rfl, rfl, rfl, rfl, rfl, rfl, rfl, rfl, rfl, rfl, rfl, returnedFiles_held s.filing, rfl,
      rfl, rfl, ?_⟩
    rintro due covered rfl rfl
    exact ⟨fun left => ⟨if_neg left, (congrArg Statistics.limits (if_neg left) :),
      (congrArg Statistics.monitors (if_neg left) :), (congrArg Statistics.accs (if_neg left) :)⟩,
      fun none => ⟨if_pos none, if_pos none⟩⟩
  · rw [microStep_statReset, statReset, funext softRestart_eq]

end Sys2Proof.Machine
end

section
/-! SUPPORT. The entry to FAULTED (R202): what it leaves of each block, and what it adds to the completion queue. -/

namespace Sys2Proof.Machine

/-! ## Completions while FAULTED (R165) -/

/-- From `s` to `t` completions have been made and none of the queue's writes issued. -/
def onlyCompletes (s t : State) : Prop :=
  ∃ flight queue, t = { s with orders := { s.orders with inFlight := flight, queue := queue } }

theorem onlyCompletes_refl (s : State) : onlyCompletes s s := ⟨s.orders.inFlight, s.orders.queue, rfl⟩

theorem onlyCompletes_trans {s t u : State} (h : onlyCompletes s t) (h' : onlyCompletes t u) : onlyCompletes s u := by
  obtain ⟨_, _, rfl⟩ := h
  obtain ⟨flight, queue, rfl⟩ := h'
  exact ⟨flight, queue, rfl⟩

theorem onlyCompletes_unissued {s t : State} (h : onlyCompletes s t) (hs : unissued s) : unissued t := by
  obtain ⟨_, _, rfl⟩ := h
  exact hs

theorem onlyCompletes_complete (e : Fin 16) (failed : Bool) (code : ResultCode) (value : Word64) (time : Nat)
    (s : State) (h : unissued s) : onlyCompletes s (complete e failed code value time s) := by
  obtain ⟨-, head⟩ := unissued_complete e failed code value time s h
  rcases complete_spec e failed code value time s with same | ⟨f, hd, -, -, made⟩
  · rw [same]
    exact onlyCompletes_refl s
  · rw [made] at head ⊢
    obtain rfl : hd = none := head
    obtain ⟨-, idle⟩ := h
    exact ⟨_, _, by rw [← idle]⟩

theorem onlyCompletes_foldl {α : Type} (f : State → α → State) (hf : ∀ s a, unissued s → onlyCompletes s (f s a))
    (l : List α) (s : State) (h : unissued s) : onlyCompletes s (l.foldl f s) :=
  foldl_keeps (onlyCompletes s) f (fun t a ht => onlyCompletes_trans ht (hf t a (onlyCompletes_unissued ht h))) l s
    (onlyCompletes_refl s)

/-! ## The queue grows behind what it holds (R164) -/

/-- The state with further writes in front of its completion queue. -/
def State.behind (q : List QueueItem) (s : State) : State :=
  { s with orders := { s.orders with queue := q ++ s.orders.queue } }

/-- While no write of the queue is issued, a completion rests on nothing that the queue holds. -/
theorem complete_behind (q : List QueueItem) (e : Fin 16) (failed : Bool) (code : ResultCode) (value : Word64)
    (time : Nat) (s : State) (h : unissued s) :
    complete e failed code value time (s.behind q) = (complete e failed code value time s).behind q := by
  obtain ⟨faulted, -⟩ := h
  have flight : (s.behind q).inFlight e = s.inFlight e := rfl
  unfold complete
  rw [flight]
  cases s.inFlight e with
  | none => rfl
  | some f =>
    simp only
    split
    · rfl
    · refine (pump_faulted _ (by exact faulted)).trans (.trans ?_ (congrArg (State.behind q)
        (pump_faulted _ (by exact faulted)).symm))
      simp only [State.behind, List.append_assoc]

theorem foldl_behind {α : Type} (q : List QueueItem) (f : State → α → State)
    (keeps : ∀ s a, unissued s → unissued (f s a)) (moves : ∀ s a, unissued s → f (s.behind q) a = (f s a).behind q) :
    ∀ (l : List α) (s : State), unissued s → l.foldl f (s.behind q) = (l.foldl f s).behind q
  | [], _, _ => rfl
  | a :: l, s, h => by
    rw [List.foldl_cons, List.foldl_cons, moves s a h]
    exact foldl_behind q f keeps moves l _ (keeps s a h)

/-! ## A file in transit returns (R144, R145) -/

theorem onlyCompletes_reportClose (s : State) (seq : Word64) (h : unissued s) :
    onlyCompletes (withoutWaiters s seq) (reportClose s seq) := by
  rw [reportClose_eq]
  exact onlyCompletes_foldl _ (fun t e => onlyCompletes_complete e false .ok seq (partTime s) t) _ _ h

theorem unissued_reportClose (s : State) (seq : Word64) (h : unissued s) : unissued (reportClose s seq) :=
  onlyCompletes_unissued (onlyCompletes_reportClose s seq h) h

theorem reportClose_behind (q : List QueueItem) (s : State) (seq : Word64) (h : unissued s) :
    reportClose (s.behind q) seq = (reportClose s seq).behind q := by
  rw [reportClose_eq, reportClose_eq]
  exact foldl_behind q _ (fun t e => unissued_complete e false .ok seq (partTime s) t)
    (fun t e => complete_behind q e false .ok seq (partTime s) t) _ (withoutWaiters s seq) h

theorem reportFile_behind (q : List QueueItem) (f : IntervalFile) (s : State) (h : unissued s) :
    reportFile f (s.behind q) = (reportFile f s).behind q :=
  foldl_behind q _ unissued_reportClose (reportClose_behind q) f.unreported s h

/-- The reports of a file's closes end the wait of their orders and complete them. -/
theorem reportFile_unissued (f : IntervalFile) (s : State) (h : unissued s) : onlyCompletes
    { s with ic := { s.ic with closeOrders := s.ic.closeOrders.filter (fun c => !f.unreported.contains c.2) } }
    (reportFile f s) := by
  obtain ⟨c, flight, queue, made⟩ : ∃ c flight queue, reportFile f s = { s with
      ic := { s.ic with closeOrders := c }, orders := { s.orders with inFlight := flight, queue := queue } } := by
    have kept := foldl_keeps (fun t => unissued t ∧ ∃ c flight queue, t = { s with
      ic := { s.ic with closeOrders := c }, orders := { s.orders with inFlight := flight, queue := queue } })
      reportClose ?_ f.unreported s ⟨h, _, _, _, rfl⟩
    · exact kept.2
    · rintro t seq ⟨idle, c, flight, queue, rfl⟩
      obtain ⟨flight', queue', made⟩ := onlyCompletes_reportClose _ seq idle
      exact ⟨unissued_reportClose _ seq idle, _, flight', queue', made⟩
  obtain ⟨waiting, -⟩ := closesReported_reportFile f s
  rw [made] at waiting ⊢
  obtain rfl : c = _ := waiting
  exact ⟨flight, queue, rfl⟩

/-- The orders that wait for a close of a file in transit, and the others. -/
def waitsElsewhere (s : State) (c : Fin 16 × Word64) : Bool :=
  match s.filing.transit with
  | some x => !x.file.unreported.contains c.2
  | none => true

/-- R145: the HOLD that a returning file requests. -/
def holdCause (s : State) : BitVec 9 :=
  match s.filing.transit with
  | some x => if s.filing.held = none ∧ x.fromHeld = false then 1#9 <<< 1 else 0
  | none => 0

theorem returnTransit_unissued (s : State) (h : unissued s) : onlyCompletes { s with
    filing := returnedFiles s.filing
    ic := { s.ic with closeOrders := s.ic.closeOrders.filter (waitsElsewhere s) }
    port := { s.port with intcause := s.port.intcause ||| holdCause s } } (returnTransit false s) := by
  cases hx : s.filing.transit with
  | none =>
    have nothing : s.port.intcause ||| holdCause s = s.port.intcause := by simp [holdCause, hx]
    have all : s.ic.closeOrders.filter (waitsElsewhere s) = s.ic.closeOrders :=
      List.filter_eq_self.mpr fun c _ => by simp only [waitsElsewhere, hx]
    have same : returnedFiles s.filing = s.filing := by simp only [returnedFiles, hx]
    rw [(returnTransit_spec false s).1 hx, nothing, all, same]
    exact onlyCompletes_refl s
  | some x =>
    have hold : holdCause s = if s.filing.held = none ∧ x.fromHeld = false then 1#9 <<< 1 else 0 := by
      simp only [holdCause, hx]
    have waits : waitsElsewhere s = fun c => !x.file.unreported.contains c.2 := by
      funext c
      simp only [waitsElsewhere, hx]
    have returned : returnedFiles s.filing = returnedFiling x s.filing := by simp only [returnedFiles, hx]
    have port := returnTransit_port s x hx
    obtain ⟨flight, queue, made⟩ := reportFile_unissued x.file { s with filing := returnedFiling x s.filing } h
    rw [returnTransit_some false s x hx, made] at port ⊢
    rw [hold, waits, returned, ← port]
    unfold requestIf
    split <;> exact ⟨flight, queue, rfl⟩

theorem returnTransit_behind (q : List QueueItem) (s : State) (h : unissued s) :
    returnTransit false (s.behind q) = (returnTransit false s).behind q := by
  have request (b : Bool) (c : IntCause) (t : State) : requestIf b c (t.behind q) = (requestIf b c t).behind q := by
    cases b <;> rfl
  cases hx : s.filing.transit with
  | none => rw [(returnTransit_spec false s).1 hx, (returnTransit_spec false (s.behind q)).1 hx]
  | some x =>
    rw [returnTransit_some false s x hx, returnTransit_some false (s.behind q) x hx, ← request,
      ← reportFile_behind q x.file _ (by exact h)]
    rfl

/-! ## The event in hand goes on (R158, R166) -/

/-- What is due once the event in hand goes on, where a read that it waited for has ended. -/
def resumedDue (ended : Bool) (event : Option Event) (due : List Due) : List Due :=
  if ended then due ++ (match event with | some ev => ev.todo | none => []) else due

def resumedEvent (ended : Bool) (event : Option Event) : Option Event :=
  if ended then event.map (fun ev => { ev with todo := [] }) else event

theorem resumeEvent_eq (s : State) : resumeEvent s = { s with
    due := resumedDue true s.event s.due, event := resumedEvent true s.event } := by
  cases h : s.event with
  | none =>
    simp only [resumeEvent, h, resumedDue, resumedEvent, if_true, List.append_nil, Option.map_none]
    rw [← h]
  | some ev => simp only [resumeEvent, h, modEvent, resumedDue, resumedEvent, if_true]

/-- An event that waited for two reads goes on once. -/
theorem resumed_twice (a b : Bool) (event : Option Event) (due : List Due) :
    resumedDue b (resumedEvent a event) (resumedDue a event due) = resumedDue (a || b) event due ∧
      resumedEvent b (resumedEvent a event) = resumedEvent (a || b) event := by
  cases a <;> cases b <;> cases event <;> simp [resumedDue, resumedEvent]

theorem abandonScan_eq (s : State) : abandonScan s = { s with
    due := resumedDue s.port.scan.isSome s.event s.due, event := resumedEvent s.port.scan.isSome s.event
    port := { s.port with scan := none } } := by
  unfold abandonScan
  cases h : s.port.scan with
  | none =>
    simp only [Option.isSome_none, Bool.false_eq_true, if_false, resumedDue, resumedEvent]
    rw [← h]
  | some a => rw [Option.isSome_some, if_pos rfl, resumeEvent_eq]

/-- No read of a configuration block is in progress, and an event that waited for one goes on. -/
def configReadEnded (s : State) : State :=
  { s with
    due := resumedDue s.port.configRead.isSome s.event s.due
    event := resumedEvent s.port.configRead.isSome s.event
    port := { s.port with configRead := none } }

theorem configReadEnded_none (s : State) (h : s.port.configRead = none) : configReadEnded s = s := by
  simp only [configReadEnded, h, Option.isSome_none, Bool.false_eq_true, resumedDue, resumedEvent, if_false]
  rw [← h]

theorem faultConfigRead_some (s : State) (r : ConfigRead) (h : s.port.configRead = some r) :
    faultConfigRead s = completeFail r.entry .busFault (eventTime s) (configReadEnded s) := by
  simp only [faultConfigRead, h, resumeEvent_eq, configReadEnded, Option.isSome_some]

theorem faultConfigRead_unissued (s : State) (h : unissued s) :
    onlyCompletes (configReadEnded s) (faultConfigRead s) := by
  cases hr : s.port.configRead with
  | none =>
    rw [configReadEnded_none s hr, faultConfigRead, hr]
    exact onlyCompletes_refl s
  | some r =>
    rw [faultConfigRead_some s r hr]
    exact onlyCompletes_complete _ _ _ _ _ (configReadEnded s) h

theorem abandonScan_behind (q : List QueueItem) (s : State) : abandonScan (s.behind q) = (abandonScan s).behind q := by
  rw [abandonScan_eq, abandonScan_eq]
  rfl

theorem faultConfigRead_behind (q : List QueueItem) (s : State) (h : unissued s) :
    faultConfigRead (s.behind q) = (faultConfigRead s).behind q := by
  cases hr : s.port.configRead with
  | none =>
    have hr' : (s.behind q).port.configRead = none := hr
    rw [faultConfigRead, faultConfigRead, hr, hr']
  | some r =>
    rw [faultConfigRead_some s r hr, faultConfigRead_some (s.behind q) r hr]
    exact complete_behind q r.entry true .busFault 0 (eventTime s) (configReadEnded s) h

/-! ## The SNAPSHOTs fail (R86) -/

/-- The entries of the SNAPSHOTs whose images are not yet written, in increasing index order. -/
def snapshotEntries (s : State) : List (Fin 16) :=
  (List.finRange 16).filter (fun e => s.port.snapshots.any (fun p => p.entry = e))

theorem mem_snapshotEntries (s : State) (e : Fin 16) : e ∈ snapshotEntries s ↔ ∃ p ∈ s.port.snapshots, p.entry = e := by
  simp [snapshotEntries]

theorem foldl_completeFail_clock (code : ResultCode) : ∀ (es : List (Fin 16)) (s : State),
    es.foldl (fun s e => completeFail e code s.tb.timeValue s) s = failInTurn code s.tb.timeValue es s
  | [], _ => rfl
  | e :: es, s => by
    obtain ⟨o, made⟩ := complete_orders_only e true code 0 s.tb.timeValue s
    have time : (completeFail e code s.tb.timeValue s).tb.timeValue = s.tb.timeValue := by rw [completeFail, made]
    rw [List.foldl_cons, foldl_completeFail_clock code es, time, failInTurn_cons]
    rfl

theorem faultSnapshots_eq (s : State) : faultSnapshots s =
    failInTurn .busFault s.tb.timeValue (snapshotEntries s) { s with port := { s.port with snapshots := [] } } :=
  foldl_completeFail_clock .busFault (snapshotEntries s) { s with port := { s.port with snapshots := [] } }

theorem faultSnapshots_unissued (s : State) (h : unissued s) :
    onlyCompletes { s with port := { s.port with snapshots := [] } } (faultSnapshots s) := by
  rw [faultSnapshots_eq]
  exact onlyCompletes_foldl _ (fun t e => onlyCompletes_complete e true .busFault 0 s.tb.timeValue t) _ _ h

theorem faultSnapshots_behind (q : List QueueItem) (s : State) (h : unissued s) :
    faultSnapshots (s.behind q) = (faultSnapshots s).behind q := by
  rw [faultSnapshots_eq, faultSnapshots_eq]
  exact foldl_behind q _ (fun t e => unissued_complete e true .busFault 0 s.tb.timeValue t)
    (fun t e => complete_behind q e true .busFault 0 s.tb.timeValue t) _ { s with port := { s.port with snapshots := [] } } h

/-! ## The entry to FAULTED (R202) -/

section Entry

variable (kind : FaultKind) (dir : BusDir) (op : BusOp) (addr : Word64) (s : State)

/-- The record is filled, and no write of the queue or of a header block is in progress. -/
def faultRecorded : State := dropWrites (recordFault kind dir op addr s)

def faultReturned : State := returnTransit false (faultRecorded kind dir op addr s)

def faultAbandoned : State := abandonScan (faultReturned kind dir op addr s)

def faultRead : State := faultConfigRead (faultAbandoned kind dir op addr s)

theorem enterFaulted_parts : enterFaulted kind dir op addr s = faultSnapshots (faultRead kind dir op addr s) := rfl

theorem faultReturned_spec : onlyCompletes { s with
    filing := returnedFiles s.filing
    ic := { s.ic with closeOrders := s.ic.closeOrders.filter (waitsElsewhere s) }
    orders := { s.orders with head := none }
    port := { s.port with
      exchange := .faulted, intcause := s.port.intcause ||| (1#9 <<< 7) ||| holdCause s
      fault := { kind, dir, op := some op, addr }, header := none } } (faultReturned kind dir op addr s) :=
  returnTransit_unissued (faultRecorded kind dir op addr s) ⟨rfl, rfl⟩

theorem unissued_faultReturned : unissued (faultReturned kind dir op addr s) :=
  onlyCompletes_unissued (faultReturned_spec kind dir op addr s) ⟨rfl, rfl⟩

theorem unissued_faultAbandoned : unissued (faultAbandoned kind dir op addr s) := by
  rw [faultAbandoned, abandonScan_eq]
  exact unissued_faultReturned kind dir op addr s

theorem unissued_faultRead : unissued (faultRead kind dir op addr s) :=
  onlyCompletes_unissued (faultConfigRead_unissued _ (unissued_faultAbandoned kind dir op addr s))
    (unissued_faultAbandoned kind dir op addr s)

theorem faultAbandoned_spec : onlyCompletes { s with
    due := resumedDue s.port.scan.isSome s.event s.due, event := resumedEvent s.port.scan.isSome s.event
    filing := returnedFiles s.filing
    ic := { s.ic with closeOrders := s.ic.closeOrders.filter (waitsElsewhere s) }
    orders := { s.orders with head := none }
    port := { s.port with
      exchange := .faulted, intcause := s.port.intcause ||| (1#9 <<< 7) ||| holdCause s
      fault := { kind, dir, op := some op, addr }, scan := none, header := none } }
    (faultAbandoned kind dir op addr s) := by
  obtain ⟨flight, queue, returned⟩ := faultReturned_spec kind dir op addr s
  rw [faultAbandoned, abandonScan_eq, returned]
  exact ⟨flight, queue, rfl⟩

theorem faultRead_spec : onlyCompletes { s with
    due := resumedDue (s.port.scan.isSome || s.port.configRead.isSome) s.event s.due
    event := resumedEvent (s.port.scan.isSome || s.port.configRead.isSome) s.event
    filing := returnedFiles s.filing
    ic := { s.ic with closeOrders := s.ic.closeOrders.filter (waitsElsewhere s) }
    orders := { s.orders with head := none }
    port := { s.port with
      exchange := .faulted, intcause := s.port.intcause ||| (1#9 <<< 7) ||| holdCause s
      fault := { kind, dir, op := some op, addr }, scan := none, header := none, configRead := none } }
    (faultRead kind dir op addr s) := by
  obtain ⟨_, _, abandoned⟩ := faultAbandoned_spec kind dir op addr s
  obtain ⟨flight, queue, read⟩ := faultConfigRead_unissued _ (unissued_faultAbandoned kind dir op addr s)
  obtain ⟨due, event⟩ := resumed_twice s.port.scan.isSome s.port.configRead.isSome s.event s.due
  rw [faultRead, read, abandoned, ← due, ← event]
  exact ⟨flight, queue, rfl⟩

/-- What the entry to FAULTED leaves of each block. -/
theorem enterFaulted_spec : onlyCompletes { s with
    due := resumedDue (s.port.scan.isSome || s.port.configRead.isSome) s.event s.due
    event := resumedEvent (s.port.scan.isSome || s.port.configRead.isSome) s.event
    filing := returnedFiles s.filing
    ic := { s.ic with closeOrders := s.ic.closeOrders.filter (waitsElsewhere s) }
    orders := { s.orders with head := none }
    port := { s.port with
      exchange := .faulted, intcause := s.port.intcause ||| (1#9 <<< 7) ||| holdCause s
      fault := { kind, dir, op := some op, addr }
      scan := none, header := none, configRead := none, snapshots := [] } } (enterFaulted kind dir op addr s) := by
  obtain ⟨_, _, read⟩ := faultRead_spec kind dir op addr s
  obtain ⟨flight, queue, failed⟩ := faultSnapshots_unissued _ (unissued_faultRead kind dir op addr s)
  rw [enterFaulted_parts, failed, read]
  exact ⟨flight, queue, rfl⟩

/-- What a fault adds to the completion queue stands behind what the queue held. -/
theorem enterFaulted_behind (q : List QueueItem) :
    enterFaulted kind dir op addr (s.behind q) = (enterFaulted kind dir op addr s).behind q := by
  have returned : faultReturned kind dir op addr (s.behind q) = (faultReturned kind dir op addr s).behind q :=
    returnTransit_behind q (faultRecorded kind dir op addr s) ⟨rfl, rfl⟩
  have read : faultRead kind dir op addr (s.behind q) = (faultRead kind dir op addr s).behind q := by
    rw [faultRead, faultAbandoned, returned, abandonScan_behind]
    exact faultConfigRead_behind q _ (unissued_faultAbandoned kind dir op addr s)
  rw [enterFaulted_parts, enterFaulted_parts, read, faultSnapshots_behind q _ (unissued_faultRead kind dir op addr s)]

end Entry

end Sys2Proof.Machine
end

section
/-! SUPPORT. The completions that the entry to FAULTED (R202) adds to the completion queue, and no others. -/

namespace Sys2Proof.Machine

/-! ## Orders that fail in turn -/

section FailInTurn

variable (code : ResultCode) (time : Nat)

theorem mem_queue_failInTurn : ∀ (es : List (Fin 16)) (s : State), ∀ q ∈ s.orders.queue,
    q ∈ (failInTurn code time es s).orders.queue
  | [], _, _, hq => hq
  | e :: es, s, q, hq =>
    mem_queue_failInTurn es _ q ((queue_complete e true code 0 time s).1 q hq)

/-- What joins the queue is a completion of one of the entries. -/
theorem queue_failInTurn : ∀ (es : List (Fin 16)) (s : State), ∀ q ∈ (failInTurn code time es s).orders.queue,
    q ∈ s.orders.queue ∨ ∃ e ∈ es, ∃ tag, q = .completion e { failed := true, code, value := 0, time, tag } false
  | [], _, _, hq => .inl hq
  | e :: es, s, q, hq => by
    rcases queue_failInTurn es _ q hq with earlier | ⟨e', he, tag, made⟩
    · exact ((queue_complete e true code 0 time s).2 q earlier).imp_right
        fun ⟨tag, made⟩ => ⟨e, List.mem_cons_self .., tag, made⟩
    · exact .inr ⟨e', List.mem_cons_of_mem _ he, tag, made⟩

/-- The completion of an order in flight without one joins the queue. -/
theorem completion_mem_complete (e : Fin 16) (failed : Bool) (value : Word64) (s : State) (f : InFlight)
    (hf : s.inFlight e = some f) (hc : f.completed = false) :
    .completion e { failed, code, value, time, tag := f.tag } false ∈
      (complete e failed code value time s).orders.queue := by
  obtain ⟨_, made⟩ := complete_open e failed code value time s f hf hc
  rw [made]
  exact List.mem_append_right _ (List.mem_singleton_self _)

/-- Every order of the entries, in flight without a completion, has one in the queue. -/
theorem completion_mem_failInTurn : ∀ (es : List (Fin 16)) (s : State), ∀ e ∈ es, ∀ f, s.inFlight e = some f →
    f.completed = false → .completion e { failed := true, code, value := 0, time, tag := f.tag } false ∈
      (failInTurn code time es s).orders.queue
  | [], _, e, he, _, _, _ => absurd he List.not_mem_nil
  | a :: es, s, e, he, f, hf, hc => by
    rw [failInTurn_cons]
    by_cases first : e = a
    · subst first
      exact mem_queue_failInTurn code time es _ _ (completion_mem_complete code time e true 0 s f hf hc)
    · exact completion_mem_failInTurn es _ e (List.mem_of_ne_of_mem first he) f
        ((inFlight_complete_of_ne a true code 0 time s e first).trans hf) hc

end FailInTurn

/-! ## An order that waits for no close -/

theorem inFlight_foldl_reportClose (e : Fin 16) : ∀ (seqs : List Word64) (s : State), (∀ c ∈ s.ic.closeOrders, c.1 ≠ e) →
    (seqs.foldl reportClose s).inFlight e = s.inFlight e
  | [], _, _ => rfl
  | seq :: seqs, s, h => by
    have later : ∀ c ∈ (reportClose s seq).ic.closeOrders, c.1 ≠ e := by
      rw [closeOrders_reportClose]
      exact fun c hc => h c (List.mem_filter.mp hc).1
    have other : e ∉ waitersOf s seq := fun waits => h (e, seq) ((mem_waitersOf ..).mp waits) rfl
    rw [List.foldl_cons, inFlight_foldl_reportClose e seqs _ later, reportClose_eq,
      inFlight_doneInTurn_of_notMem _ _ _ _ _ other]
    rfl

theorem inFlight_returnTransit (q : Bool) (e : Fin 16) (s : State) (h : ∀ c ∈ s.ic.closeOrders, c.1 ≠ e) :
    (returnTransit q s).inFlight e = s.inFlight e := by
  cases hx : s.filing.transit with
  | none => rw [(returnTransit_spec q s).1 hx]
  | some x =>
    rw [returnTransit_some q s x hx, State.inFlight, requestIf_orders]
    exact inFlight_foldl_reportClose e x.file.unreported { s with filing := returnedFiling x s.filing } h

/-! ## The completion queue after the entry to FAULTED -/

section Entry

variable (kind : FaultKind) (dir : BusDir) (op : BusOp) (addr : Word64) (s : State)

/-- The orders that fail with a fault: the LOAD_CONFIG whose block was being read, and every SNAPSHOT not yet
written. -/
def failsWithFault (e : Fin 16) : Prop :=
  (∃ r, s.port.configRead = some r ∧ r.entry = e) ∨ ∃ p ∈ s.port.snapshots, p.entry = e

theorem faultAbandoned_orders : (faultAbandoned kind dir op addr s).orders = (faultReturned kind dir op addr s).orders := by
  rw [faultAbandoned, abandonScan_eq]

theorem faultAbandoned_configRead : (faultAbandoned kind dir op addr s).port.configRead = s.port.configRead := by
  obtain ⟨_, _, made⟩ := faultAbandoned_spec kind dir op addr s
  rw [made]

theorem faultRead_snapshots : (faultRead kind dir op addr s).port.snapshots = s.port.snapshots := by
  obtain ⟨_, _, made⟩ := faultRead_spec kind dir op addr s
  rw [made]

theorem faultRead_tb : (faultRead kind dir op addr s).tb = s.tb := by
  obtain ⟨_, _, made⟩ := faultRead_spec kind dir op addr s
  rw [made]

/-- The event in hand has the time value it had, whether or not it goes on. -/
theorem faultAbandoned_eventTime : eventTime (faultAbandoned kind dir op addr s) = eventTime s := by
  obtain ⟨_, _, made⟩ := faultAbandoned_spec kind dir op addr s
  rw [made]
  unfold eventTime resumedEvent
  cases s.event <;> cases s.port.scan.isSome <;> rfl

theorem faultRead_some (r : ConfigRead) (h : s.port.configRead = some r) : faultRead kind dir op addr s =
    complete r.entry true .busFault 0 (eventTime s) (configReadEnded (faultAbandoned kind dir op addr s)) := by
  rw [faultRead, faultConfigRead_some _ r ((faultAbandoned_configRead ..).trans h), faultAbandoned_eventTime]
  rfl

theorem faultRead_none (h : s.port.configRead = none) :
    faultRead kind dir op addr s = faultAbandoned kind dir op addr s := by
  rw [faultRead, faultConfigRead, (faultAbandoned_configRead ..).trans h]

theorem enterFaulted_eq : enterFaulted kind dir op addr s = failInTurn .busFault s.tb.timeValue (snapshotEntries s)
    { faultRead kind dir op addr s with port := { (faultRead kind dir op addr s).port with snapshots := [] } } := by
  have time : (faultRead kind dir op addr s).tb.timeValue = s.tb.timeValue := by rw [faultRead_tb]
  have entries : snapshotEntries (faultRead kind dir op addr s) = snapshotEntries s := by
    rw [snapshotEntries, faultRead_snapshots, snapshotEntries]
  rw [enterFaulted_parts, faultSnapshots_eq, time, entries]

/-- The file's reports stand in the queue still when the reads have ended. -/
theorem mem_queue_faultRead (q : QueueItem) (hq : q ∈ (faultReturned kind dir op addr s).orders.queue) :
    q ∈ (faultRead kind dir op addr s).orders.queue := by
  rw [← faultAbandoned_orders] at hq
  cases hr : s.port.configRead with
  | none => rwa [faultRead_none _ _ _ _ _ hr]
  | some r =>
    rw [faultRead_some _ _ _ _ _ r hr]
    exact (queue_complete r.entry true .busFault 0 (eventTime s) (configReadEnded _)).1 q hq

theorem mem_queue_enterFaulted (q : QueueItem) (hq : q ∈ (faultRead kind dir op addr s).orders.queue) :
    q ∈ (enterFaulted kind dir op addr s).orders.queue := by
  rw [enterFaulted_eq]
  exact mem_queue_failInTurn _ _ _ _ q hq

theorem inFlight_faultAbandoned (e : Fin 16) (alone : ∀ c ∈ s.ic.closeOrders, c.1 ≠ e) :
    (faultAbandoned kind dir op addr s).inFlight e = s.inFlight e := by
  rw [State.inFlight, faultAbandoned_orders]
  exact inFlight_returnTransit false e (faultRecorded kind dir op addr s) alone

theorem inFlight_faultRead (e : Fin 16) (alone : ∀ c ∈ s.ic.closeOrders, c.1 ≠ e)
    (other : ∀ r, s.port.configRead = some r → r.entry ≠ e) :
    (faultRead kind dir op addr s).inFlight e = s.inFlight e := by
  rw [← inFlight_faultAbandoned kind dir op addr s e alone]
  cases hr : s.port.configRead with
  | none => rw [faultRead_none _ _ _ _ _ hr]
  | some r =>
    rw [faultRead_some _ _ _ _ _ r hr, inFlight_complete_of_ne _ _ _ _ _ _ e (other r hr).symm]
    rfl

/-- R166: the LOAD_CONFIG whose block was being read fails. -/
theorem configRead_fails (r : ConfigRead) (g : InFlight) (read : s.port.configRead = some r)
    (flight : s.inFlight r.entry = some g) (hopen : g.completed = false)
    (alone : ∀ c ∈ s.ic.closeOrders, c.1 ≠ r.entry) :
    .completion r.entry { failed := true, code := .busFault, value := 0, time := eventTime s, tag := g.tag } false ∈
      (enterFaulted kind dir op addr s).orders.queue := by
  refine mem_queue_enterFaulted _ _ _ _ _ _ ?_
  rw [faultRead_some _ _ _ _ _ r read]
  refine completion_mem_complete _ _ _ _ _ (configReadEnded _) g ?_ hopen
  exact (inFlight_faultAbandoned kind dir op addr s r.entry alone).trans flight

/-- R86: a SNAPSHOT whose image is not yet written fails. -/
theorem snapshot_fails (p : Snapshot) (g : InFlight) (hp : p ∈ s.port.snapshots)
    (flight : s.inFlight p.entry = some g) (hopen : g.completed = false)
    (alone : ∀ c ∈ s.ic.closeOrders, c.1 ≠ p.entry) (other : ∀ r, s.port.configRead = some r → r.entry ≠ p.entry) :
    .completion p.entry { failed := true, code := .busFault, value := 0, time := s.tb.timeValue, tag := g.tag } false ∈
      (enterFaulted kind dir op addr s).orders.queue := by
  rw [enterFaulted_eq]
  exact completion_mem_failInTurn _ _ _ _ _ ((mem_snapshotEntries ..).mpr ⟨p, hp, rfl⟩) g
    ((inFlight_faultRead kind dir op addr s p.entry alone other).trans flight) hopen

/-- R144: the file in transit reports its closes as it returns. -/
theorem faultReturned_reports (x : Transit) (hx : s.filing.transit = some x) :
    closesReported x.file (partTime s) s (faultReturned kind dir op addr s) :=
  closesReported_congr rfl (by rfl) rfl rfl
    (returnTransit_reports false (faultRecorded kind dir op addr s) x hx)

theorem close_reported (x : Transit) (c : Fin 16 × Word64) (g : InFlight) (hx : s.filing.transit = some x)
    (waits : c ∈ s.ic.closeOrders) (hc : c.2 ∈ x.file.unreported) (flight : s.inFlight c.1 = some g)
    (hopen : g.completed = false) (once : ∀ c' ∈ s.ic.closeOrders, c'.1 = c.1 → c' = c) :
    .completion c.1 { failed := false, code := .ok, value := c.2, time := partTime s, tag := g.tag } false ∈
      (enterFaulted kind dir op addr s).orders.queue := by
  obtain ⟨-, -, completed, -⟩ := faultReturned_reports kind dir op addr s x hx
  obtain ⟨seq, -, waits', made⟩ := completed c.1 g ⟨c.2, hc, waits⟩ flight hopen
  obtain rfl : seq = c.2 := congrArg Prod.snd (once (c.1, seq) waits' rfl)
  exact mem_queue_enterFaulted _ _ _ _ _ _ (mem_queue_faultRead _ _ _ _ _ _ made)

/-- The completion queue gains the reports of a returned file's closes and the orders that fail, and nothing else. -/
theorem queue_enterFaulted (q : QueueItem) (hq : q ∈ (enterFaulted kind dir op addr s).orders.queue) :
    q ∈ s.orders.queue ∨ ∃ e c, q = .completion e c false ∧
      (c.failed = true ∧ c.code = .busFault ∧ c.value = 0 ∧ failsWithFault s e ∨
        c.failed = false ∧ c.code = .ok ∧ (e, c.value) ∈ s.ic.closeOrders ∧
          ∃ x, s.filing.transit = some x ∧ c.value ∈ x.file.unreported) := by
  have returned (hq : q ∈ (faultAbandoned kind dir op addr s).orders.queue) : q ∈ s.orders.queue ∨
      ∃ x e, ∃ seq ∈ x.file.unreported, ∃ tag, s.filing.transit = some x ∧ (e, seq) ∈ s.ic.closeOrders ∧
        q = .completion e { failed := false, code := .ok, value := seq, time := partTime s, tag } false := by
    rw [faultAbandoned_orders] at hq
    cases hx : s.filing.transit with
    | none =>
      rw [faultReturned, (returnTransit_spec false (faultRecorded kind dir op addr s)).1 hx] at hq
      exact .inl hq
    | some x =>
      obtain ⟨-, -, -, added⟩ := faultReturned_reports kind dir op addr s x hx
      exact (added q hq).imp_right fun ⟨e, seq, hm, tag, waits, made⟩ => ⟨x, e, seq, hm, tag, rfl, waits, made⟩
  have read (hq : q ∈ (faultRead kind dir op addr s).orders.queue) :
      q ∈ (faultAbandoned kind dir op addr s).orders.queue ∨ ∃ r tag, s.port.configRead = some r ∧
        q = .completion r.entry { failed := true, code := .busFault, value := 0, time := eventTime s, tag } false := by
    cases hr : s.port.configRead with
    | none => exact .inl (faultRead_none _ _ _ _ _ hr ▸ hq)
    | some r =>
      rw [faultRead_some _ _ _ _ _ r hr] at hq
      exact ((queue_complete r.entry true .busFault 0 (eventTime s) (configReadEnded _)).2 q hq).imp_right
        fun ⟨tag, made⟩ => ⟨r, tag, rfl, made⟩
  rw [enterFaulted_eq] at hq
  rcases queue_failInTurn _ _ _ _ q hq with hq | ⟨e, he, tag, made⟩
  · rcases read hq with hq | ⟨r, tag, hr, made⟩
    · exact (returned hq).imp_right fun ⟨x, e, seq, hm, tag, hx, waits, made⟩ =>
        ⟨e, _, made, .inr ⟨rfl, rfl, waits, x, hx, hm⟩⟩
    · exact .inr ⟨r.entry, _, made, .inl ⟨rfl, rfl, rfl, .inl ⟨r, hr, rfl⟩⟩⟩
  · exact .inr ⟨e, _, made, .inl ⟨rfl, rfl, rfl, .inr ((mem_snapshotEntries ..).mp he)⟩⟩

end Entry

end Sys2Proof.Machine
end

section
/-! PROOF. O46: an error or a 2 ms silence on an access enters FAULTED and ends every operation. -/

namespace Sys2Proof.Machine

/-! ## What joins the completion queue, apart from what it held -/

/-- The state with an empty completion queue. -/
def State.unqueued (s : State) : State := { s with orders := { s.orders with queue := [] } }

theorem unqueued_behind (s : State) : s.unqueued.behind s.orders.queue = s := by
  simp only [State.behind, State.unqueued, List.append_nil]

/-- The queue keeps what it holds, and the fault's completions stand behind it. -/
theorem orders_queue_enterFaulted (kind : FaultKind) (dir : BusDir) (op : BusOp) (addr : Word64) (s : State) :
    (enterFaulted kind dir op addr s).orders.queue =
      s.orders.queue ++ (enterFaulted kind dir op addr s.unqueued).orders.queue := by
  conv_lhs => rw [← unqueued_behind s, enterFaulted_behind]
  rfl

/-! ## An access that ends in a fault -/

theorem accessInProgress_some (op : BusOp) (dir : BusDir) (off p : Nat) (e : Fin 16) (a : Access) (s : State)
    (running : operation op e s = some a) (place : accessPlace op dir off s = some p) :
    accessInProgress op dir off e s = some { a with base := a.base + BitVec.ofNat 64 p } := by
  simp only [accessInProgress, running, place]

/-- Time that passes leaves the operations in progress and the places of their accesses as they are. -/
theorem accessInProgress_elapse (op : BusOp) (dir : BusDir) (off : Nat) (e : Fin 16) (n : Nat) (s : State) :
    accessInProgress op dir off e (elapse n s) = accessInProgress op dir off e s := by
  obtain ⟨_, made, -⟩ := elapse_spec n s
  rw [made]
  rfl

section Access

variable (op : BusOp) (dir : BusDir) (off p : Nat) (e : Fin 16) (a : Access) (s : State)
  (calm : quiet s) (running : operation op e s = some a) (place : accessPlace op dir off s = some p)
  (online : s.port.exchange = .online)

include calm running place online

theorem exec_busAccessError (dt : Nat) (soon : s.tick + dt < a.issuedAt + 20000) :
    exec (.busAccessError dt op dir off e) s =
      .next (advance (enterFaulted .error dir op (a.base + BitVec.ofNat 64 p) (elapse dt s))) := by
  obtain ⟨phase, due⟩ := calm
  have intime : inTime { a with base := a.base + BitVec.ofNat 64 p } (elapse dt s) = true :=
    inTime_elapse { a with base := a.base + BitVec.ofNat 64 p } dt s soon
  have enters : accessError op dir off e (elapse dt s) =
      enterFaulted .error dir op (a.base + BitVec.ofNat 64 p) (elapse dt s) := by
    simp only [accessError, accessInProgress_elapse, accessInProgress_some op dir off p e a s running place,
      elapse_port, online, intime, decide_true, Bool.and_self, if_true]
  rw [← enters]
  exact congrArg Host.Outcome.next (fromOutside_quiet dt (accessError op dir off e) s phase due)

theorem exec_busAccessTimeout : exec (.busAccessTimeout op dir off e) s = .next (advance
    (enterFaulted .timeout dir op (a.base + BitVec.ofNat 64 p) (elapse (a.issuedAt + 20000 - s.tick) s))) := by
  obtain ⟨phase, due⟩ := calm
  have now : waitUntil s.tick s = elapse 0 s := by rw [waitUntil, Nat.sub_self]
  have silence : waitUntil (a.issuedAt + 20000) (elapse 0 s) = elapse (a.issuedAt + 20000 - s.tick) s := by
    simp only [waitUntil, elapse_elapse, elapse_tick, Nat.zero_add, Nat.add_zero]
  have enters : accessTimeout op dir off e (elapse 0 s) = enterFaulted .timeout dir op (a.base + BitVec.ofNat 64 p)
      (elapse (a.issuedAt + 20000 - s.tick) s) := by
    simp only [accessTimeout, accessInProgress_elapse, accessInProgress_some op dir off p e a s running place,
      elapse_port, online, silence, if_true]
  rw [← enters, ← now]
  exact congrArg Host.Outcome.next
    (fromTimer_quiet (fun s => some s.tick) (accessTimeout op dir off e) s s.tick phase due rfl)

end Access

/-! ## The places of the accesses (R164, R206, R139, R86) -/

theorem readsOnly_of_group (op : BusOp) (h : op ∈ [BusOp.completion, .header, .pageWrite, .snapshot]) :
    readsOnly op = false := by
  fin_cases h <;> rfl

/-- The confirming read of a group of writes goes to the last bytes of its last run. -/
theorem accessPlace_confirming (op : BusOp) (h : readsOnly op = false) (off first len : Nat) (s : State)
    (last : (groupRuns op s).getLast? = some (first, len)) (some_bytes : 0 < len) :
    ∃ k, 1 ≤ k ∧ k ≤ len ∧ accessPlace op .read off s = some (first + len - k) := by
  obtain ⟨k, atLeast, atMost, place⟩ := confirmingPlace_spec (first, len) some_bytes
  refine ⟨k, atLeast, atMost, ?_⟩
  simp only [accessPlace, h, last, Option.map_some, place]

/-- A read of an operation that only reads lies at its offset. -/
theorem accessPlace_read (op : BusOp) (len off : Nat) (s : State) (h : readsOnly op = true)
    (whole : groupRuns op s = [(0, len)]) (inside : off < len) : accessPlace op .read off s = some off := by
  simp [accessPlace, h, whole, inside]

theorem accessPlaces (s : State) (off : Nat) :
    (off < 1024 → accessPlace .scan .read off s = some off) ∧
    (off < 4 → accessPlace .ownerRead .read off s = some off) ∧
    (off < 544 → accessPlace .configRead .read off s = some off) :=
  ⟨accessPlace_read .scan 1024 off s rfl rfl, accessPlace_read .ownerRead 4 off s rfl rfl,
    accessPlace_read .configRead 544 off s rfl rfl⟩

theorem groupRuns_completion (s : State) (e : Fin 16) (c : Completion) (rest : List QueueItem) :
    (s.orders.queue = .completion e c false :: rest → groupRuns .completion s = [(4, 12), (48, 16)]) ∧
    (s.orders.queue = .completion e c true :: rest ∨ s.orders.queue = .taken e :: rest →
      groupRuns .completion s = [(0, 2)]) := by
  refine ⟨fun h => by simp only [groupRuns, h], ?_⟩
  rintro (h | h) <;> simp only [groupRuns, h]

/-! ## Where the operations lie (11.1) -/

theorem operation_completion (e : Fin 16) (s : State) :
    (∀ a e' rest, s.orders.head = some a →
      (s.orders.queue = .taken e' :: rest ∨ ∃ c wrote, s.orders.queue = .completion e' c wrote :: rest) →
      operation .completion e s = some { a with base := a.base + BitVec.ofNat 64 (4096 + 64 * e'.val) }) ∧
    (s.orders.head = none ∨ s.orders.queue = [] → operation .completion e s = none) := by
  constructor
  · rintro a e' rest head (queue | ⟨c, wrote, queue⟩) <;> simp only [operation, head, queue]
  · rintro (head | queue)
    · simp only [operation, head]
    · cases head : s.orders.head <;> simp only [operation, head, queue]

theorem operation_page (e : Fin 16) (s : State) (x : Transit) (hx : s.filing.transit = some x) (page : Access)
    (lies : page = { base := x.base + BitVec.ofNat 64 (x.pageBase + 8192 * x.page), issuedAt := x.issuedAt }) :
    (x.stage = .owner → operation .ownerRead e s = some page ∧ operation .pageWrite e s = none) ∧
    (x.stage ≠ .owner → operation .ownerRead e s = none ∧ operation .pageWrite e s = some page) := by
  subst lies
  constructor <;> intro stage <;> constructor <;> simp only [operation, hx, stage, if_true, if_false, pageAddress]

theorem operation_snapshot (e : Fin 16) (s : State) : operation .snapshot e s =
    (s.port.snapshots.find? (fun p => p.entry = e && p.image.isSome)).map
      (fun p => { base := p.addr, issuedAt := p.issuedAt }) := by
  simp only [operation]
  cases s.port.snapshots.find? (fun p => p.entry = e && p.image.isSome) <;> rfl

/-! ## The obligation -/

/-- Settles O46: the state is that of `enterFaulted_spec`, the queue grows by `orders_queue_enterFaulted`, and the facts
on the completions are taken at the state with an empty queue. -/
theorem busFaultsEndEveryOperation : Obligations.BusFaultsEndEveryOperation := by
  unfold Obligations.BusFaultsEndEveryOperation
  refine ⟨fun s w dt off p op dir e a kind o calm running place online command => ?_, fun s off => ?_, fun s e => ?_⟩
  · obtain ⟨n, hw, outcome⟩ : ∃ n, w = elapse n s ∧
        o = .next (advance (enterFaulted kind dir op (a.base + BitVec.ofNat 64 p) w)) := by
      rcases command with ⟨rfl, soon, rfl, rfl⟩ | ⟨rfl, rfl, rfl⟩
      · exact ⟨_, rfl, exec_busAccessError op dir off p e a s calm running place online dt soon⟩
      · exact ⟨_, rfl, exec_busAccessTimeout op dir off p e a s calm running place online⟩
    clear command
    obtain ⟨phase, due⟩ := calm
    rw [elapse_running n s phase] at hw
    obtain ⟨flight, queue, made⟩ := enterFaulted_spec kind dir op (a.base + BitVec.ofNat 64 p) w
    have grown := orders_queue_enterFaulted kind dir op (a.base + BitVec.ofNat 64 p) w
    rw [made] at outcome grown
    subst hw
    refine ⟨_, _, outcome, rfl, rfl, rfl, rfl, rfl, grown, ?_, ?_, ?_, ?_, congrArg (resumedDue _ s.event) due, rfl, rfl,
      rfl, rfl, rfl, rfl, rfl, rfl, rfl⟩
    · exact fun r g read flight hopen alone =>
        configRead_fails kind dir op _ (State.unqueued _) r g read flight hopen alone
    · exact fun q hq g flight hopen alone other =>
        snapshot_fails kind dir op _ (State.unqueued _) q g hq flight hopen alone other
    · exact fun x hx c waits hc g flight hopen once =>
        close_reported kind dir op _ (State.unqueued _) x c g hx waits hc flight hopen once
    · exact fun n hn => (queue_enterFaulted kind dir op _ (State.unqueued _) n hn).resolve_left List.not_mem_nil
  · obtain ⟨scan, owner, config⟩ := accessPlaces s off
    refine ⟨scan, owner, config, fun op first len group last some_bytes => ?_, fun e c rest =>
      (groupRuns_completion s e c rest).1, fun e c rest => (groupRuns_completion s e c rest).2, fun h hh => ?_,
      fun x hx => ?_, rfl⟩
    · have writes := readsOnly_of_group op group
      exact ⟨accessPlace_confirming op writes off first len s last some_bytes,
        fun p => accessPlace_write op writes off p s⟩
    · simp only [groupRuns, hh]
    · simp only [groupRuns, hx]
  · obtain ⟨head, idle⟩ := operation_completion e s
    refine ⟨rfl, head, idle, rfl, rfl, fun none_in => ?_, operation_page e s, operation_snapshot e s⟩
    simp only [operation, none_in, and_self]

end Sys2Proof.Machine
end

section
/-! PROOF. A step with a command waiting (O1). -/

namespace Sys2Proof.Machine

/-- Settles O1: a queue with a front is the second arm of `step`. -/
theorem stepRunsTheFrontCommand : Obligations.StepRunsTheFrontCommand := by
  intro s c rest front
  rw [step, front]

end Sys2Proof.Machine
end
